-- ==== Sys2Proof/Word.lean ====
section
/-! DEFINITION. The widths and the number ranges of the LX-720 (spec/00_scope.md, "Identifiers"; spec/11, R177). -/

namespace Sys2Proof

/-- One byte of a frame (R177). -/
abbrev Byte := BitVec 8

/-- A two-byte field of a frame (R177). -/
abbrev Half := BitVec 16

/-- A four-byte field: sequence values, the fab clock (R148, R153). -/
abbrev Word := BitVec 32

/-- A reading of the 48-bit millisecond base (R147). -/
abbrev Millis := BitVec 48

/-- Vehicles 0 to 127. -/
abbrev VehicleId := Fin 128

/-- Blocks 0 to 1023. -/
abbrev BlockId := Fin 1024

/-- Bays 0 to 31. -/
abbrev BayId := Fin 32

/-- Ports 0 to 191. -/
abbrev PortId := Fin 192

/-- Order slots 0 to 255. -/
abbrev Slot := Fin 256

/-- LINK0 to LINK5. -/
abbrev LinkId := Fin 6

/-- Fence slots 0 to 15. -/
abbrev FenceId := Fin 16

/-- The eight characters of a carrier field, first character first (R177). -/
abbrev CarrierField := Vector Byte 8

/-- The strap pins of the six links, two bits a link (R155). -/
abbrev Straps := Vector (BitVec 2) 6

end Sys2Proof
end

