-- ==== Sys2Proof/Syntax.lean ====
section
/-! DEFINITION. The commands of the LX-720: one constructor of `Instr` for each row of spec/opcode_table.json.

A request is a frame that passed its check on a link (R158, R161): it carries a header and the fields of R178 at the
widths of R177, unchecked. Whether a field is in range is the meaning's question (R166, stage 3). -/

namespace Sys2Proof

/-- What every request frame carries besides its fields: the link it completed on, its frame tag (R177), and whether its
body length is the length that its kind and its own count fields give (R177, last paragraph on RANGE). -/
structure Hdr where
  link : LinkId
  tag  : Byte
  fits : Bool
  deriving DecidableEq, Repr

/-- One block record of WRITE_BLOCKS as it stands on the wire (R178). -/
structure BlockField where
  block : Half
  kind  : Byte
  bay   : Byte
  count : Byte
  succ1 : Half
  succ2 : Half
  port  : Byte
  deriving DecidableEq, Repr

/-- One port record of WRITE_PORTS as it stands on the wire (R178). -/
structure PortField where
  port  : Byte
  block : Half
  deriving DecidableEq, Repr

/-- The eleven timing settings, laid out as SET_TIMING carries them (R149, R178). -/
structure Timing where
  silence       : Byte
  offer         : Byte
  aging         : Byte
  promoBulk     : Half
  promoStandard : Half
  promoExpress  : Half
  reachHot      : Byte
  reachExpress  : Byte
  reachStandard : Byte
  reachBulk     : Byte
  scrub         : Byte
  deriving DecidableEq, Repr

/-- The five bid weights, laid out as SET_WEIGHTS carries them (R49, R178). -/
structure Weights where
  hot      : Byte
  express  : Byte
  standard : Byte
  bulk     : Byte
  none     : Byte
  deriving DecidableEq, Repr

/-- A record kept under a check word: a block, a vehicle or an order slot (R132). -/
inductive RecRef where
  | block (b : BlockId)
  | vehicle (v : VehicleId)
  | order (o : Slot)
  deriving DecidableEq, Repr

/-- The request kinds (R169, R178). -/
inductive ReqKind where
  | status | clearAttention | setNoticeMask | queryVehicle | queryOrder | queryBlock | queryPort
  | submitOrder | cancelOrder | redirectOrder | reclassOrder | setPortState | setClock | join | leave
  | position | claim | releaseAhead | accept | decline | pickDone | dropDone | dropFail | fault
  | recover | heartbeat | writeBlocks | writePorts | writeBay | commitMap | reopenMap | setFence
  | clearFence | setTiming | setWeights | setLinkRate | drain | restore | evict | thaw | readCapture
  | clearCapture | halt | resume | softReset
  deriving DecidableEq, Repr

/-- The commands, one constructor a row of spec/opcode_table.json, in the table's order. -/
inductive Instr where
  /-- HARD_RESET (R17): the reset pin is pulled low and released; the straps read at the release. -/
  | hardReset (straps : Straps)
  /-- LINK_RESET (R160): a break of at least 24 bit times on the link's receive line. -/
  | linkReset (l : LinkId)
  /-- FRAME_DROPPED (R159): a bad length byte, a failed check or a framing error drops the frame in reception. -/
  | frameDropped (l : LinkId)
  /-- RX_GAP_TIMEOUT (R159): the gap timer reaches 4 character times inside a frame. -/
  | rxGapTimeout (l : LinkId)
  /-- OVERRUN (R161): a frame passes its check while the request slot still holds a reply. -/
  | overrun (l : LinkId)
  /-- UNKNOWN_KIND_REQUEST (R166): a checked frame whose kind code names no request. -/
  | unknownKindRequest (l : LinkId) (tag : Byte)
  /-- TRANSMIT_COMPLETE (R162): the frame being sent has left the link's transmit line. -/
  | transmitComplete (l : LinkId)
  | status (h : Hdr)
  | clearAttention (h : Hdr) (mask : Byte)
  | setNoticeMask (h : Hdr) (link mask : Byte)
  | queryVehicle (h : Hdr) (vehicle : Byte)
  | queryOrder (h : Hdr) (selector : Byte) (value : Half)
  | queryBlock (h : Hdr) (block : Half)
  | queryPort (h : Hdr) (port : Byte)
  | submitOrder (h : Hdr) (tag : Half) (carrier : CarrierField) (source dest alt cls : Byte)
  | cancelOrder (h : Hdr) (slot tag : Half)
  | redirectOrder (h : Hdr) (slot tag : Half) (dest alt : Byte)
  | reclassOrder (h : Hdr) (slot tag : Half) (cls : Byte)
  | setPortState (h : Hdr) (port action : Byte)
  | setClock (h : Hdr) (seconds : Word)
  | join (h : Hdr) (vehicle : Byte) (block : Half) (carrier : CarrierField)
  | leave (h : Hdr) (vehicle : Byte)
  | position (h : Hdr) (vehicle : Byte) (block : Half)
  | claim (h : Hdr) (vehicle : Byte) (blocks : List Half)
  | releaseAhead (h : Hdr) (vehicle count : Byte)
  | accept (h : Hdr) (vehicle : Byte) (slot source dest : Half) (carrier : CarrierField)
  | decline (h : Hdr) (vehicle : Byte) (slot : Half)
  | pickDone (h : Hdr) (vehicle : Byte) (carrier : CarrierField)
  | dropDone (h : Hdr) (vehicle : Byte)
  | dropFail (h : Hdr) (vehicle : Byte)
  | fault (h : Hdr) (vehicle : Byte)
  | recover (h : Hdr) (vehicle : Byte) (block : Half)
  | heartbeat (h : Hdr) (vehicle : Byte)
  | writeBlocks (h : Hdr) (records : List BlockField)
  | writePorts (h : Hdr) (records : List PortField)
  | writeBay (h : Hdr) (bay owner : Byte) (row : Vector Byte 32)
  | commitMap (h : Hdr)
  | reopenMap (h : Hdr)
  | setFence (h : Hdr) (fence : Byte) (first last : Half)
  | clearFence (h : Hdr) (fence : Byte)
  | setTiming (h : Hdr) (t : Timing)
  | setWeights (h : Hdr) (w : Weights)
  | setLinkRate (h : Hdr) (link rate : Byte)
  | drain (h : Hdr) (vehicle : Byte)
  | restore (h : Hdr) (vehicle : Byte)
  | evict (h : Hdr) (vehicle : Byte)
  | thaw (h : Hdr) (block : Half)
  | readCapture (h : Hdr)
  | clearCapture (h : Hdr)
  | halt (h : Hdr)
  | resume (h : Hdr)
  | softReset (h : Hdr)
  /-- SILENCE_EXPIRY (R69): the vehicle's silence countdown has run out. -/
  | silenceExpiry (v : VehicleId)
  /-- OFFER_EXPIRY (R121): the vehicle's offer countdown has run out. -/
  | offerExpiry (v : VehicleId)
  /-- PROMOTION (R101): the order's time in its class has reached the promotion time. -/
  | promotion (o : Slot)
  /-- SCRUB_STEP (R136): the scrub interval has elapsed. -/
  | scrubStep
  /-- FAB_CLOCK_ADVANCE (R148): the second divider passes 999. -/
  | fabClockAdvance
  /-- DISPATCH_DECISION (R110): the Dispatch Engine takes one decision. -/
  | dispatchDecision
  /-- CHARACTER_RECEIVED (R157): one character on the link's receive line, its stop bit at space when `framing`. -/
  | characterReceived (l : LinkId) (c : Byte) (framing : Bool)
  /-- BIT_FLIP (R132): one bit of a record flips; `bit` tells the record's bits apart. -/
  | bitFlip (r : RecRef) (bit : Nat)
  deriving DecidableEq, Repr

end Sys2Proof
end

