-- ==== Sys2Proof/WellFormed.lean ====
section
/-! DEFINITION. Which commands are well formed: a request with a list fits one frame, whose body holds at most 250 bytes
(R157, R178: CLAIM 4 + 2n, WRITE_BLOCKS 3 + 10n, WRITE_PORTS 3 + 3n). Every other constructor's operands are bounded by
their types. Fields out of range are well formed: the part answers them (RANGE). -/

namespace Sys2Proof

/-- The longest body a frame can carry (R157). -/
def maxBody : Nat := 250

def Instr.wellFormed : Instr → Bool
  | .claim _ _ blocks => 4 + 2 * blocks.length ≤ maxBody
  | .writeBlocks _ records => 3 + 10 * records.length ≤ maxBody
  | .writePorts _ records => 3 + 3 * records.length ≤ maxBody
  | _ => true

end Sys2Proof
end

