-- ==== Sys2Proof/Decode.lean ====
section
/-! DEFINITION. Reading a command from its bits. The table gives no row any bits, so `decodeTableWord` spells no command.
The frames of the links do: R177 and R178 give every request its kind code and its fields, read here and written back. -/

namespace Sys2Proof

/-- The command that a word spells by the table's bits. No row of spec/opcode_table.json gives bits, so there is none. -/
def decodeTableWord (_nbits _w : Nat) : Option Instr := none

/-! ## Request kinds (R178) -/

def ReqKind.code : ReqKind → Byte
  | .status => 0x01 | .clearAttention => 0x02 | .setNoticeMask => 0x03 | .queryVehicle => 0x04
  | .queryOrder => 0x05 | .queryBlock => 0x06 | .queryPort => 0x07 | .submitOrder => 0x10
  | .cancelOrder => 0x11 | .redirectOrder => 0x12 | .reclassOrder => 0x13 | .setPortState => 0x14
  | .setClock => 0x15 | .join => 0x20 | .leave => 0x21 | .position => 0x22 | .claim => 0x23
  | .releaseAhead => 0x24 | .accept => 0x25 | .decline => 0x26 | .pickDone => 0x27
  | .dropDone => 0x28 | .dropFail => 0x29 | .fault => 0x2A | .recover => 0x2B | .heartbeat => 0x2C
  | .writeBlocks => 0x30 | .writePorts => 0x31 | .writeBay => 0x32 | .commitMap => 0x33
  | .reopenMap => 0x34 | .setFence => 0x35 | .clearFence => 0x36 | .setTiming => 0x37
  | .setWeights => 0x38 | .setLinkRate => 0x39 | .drain => 0x3A | .restore => 0x3B | .evict => 0x3C
  | .thaw => 0x3D | .readCapture => 0x3E | .clearCapture => 0x3F | .halt => 0x40 | .resume => 0x41
  | .softReset => 0x42

/-- The request a kind code names; none for a code that names no request (R166). -/
def reqKind? (code : Byte) : Option ReqKind :=
  match code.toNat with
  | 0x01 => some .status | 0x02 => some .clearAttention | 0x03 => some .setNoticeMask
  | 0x04 => some .queryVehicle | 0x05 => some .queryOrder | 0x06 => some .queryBlock
  | 0x07 => some .queryPort | 0x10 => some .submitOrder | 0x11 => some .cancelOrder
  | 0x12 => some .redirectOrder | 0x13 => some .reclassOrder | 0x14 => some .setPortState
  | 0x15 => some .setClock | 0x20 => some .join | 0x21 => some .leave | 0x22 => some .position
  | 0x23 => some .claim | 0x24 => some .releaseAhead | 0x25 => some .accept | 0x26 => some .decline
  | 0x27 => some .pickDone | 0x28 => some .dropDone | 0x29 => some .dropFail | 0x2A => some .fault
  | 0x2B => some .recover | 0x2C => some .heartbeat | 0x30 => some .writeBlocks
  | 0x31 => some .writePorts | 0x32 => some .writeBay | 0x33 => some .commitMap
  | 0x34 => some .reopenMap | 0x35 => some .setFence | 0x36 => some .clearFence
  | 0x37 => some .setTiming | 0x38 => some .setWeights | 0x39 => some .setLinkRate
  | 0x3A => some .drain | 0x3B => some .restore | 0x3C => some .evict | 0x3D => some .thaw
  | 0x3E => some .readCapture | 0x3F => some .clearCapture | 0x40 => some .halt
  | 0x41 => some .resume | 0x42 => some .softReset
  | _ => none

/-! ## Reading a request frame (R178) -/

/-- Two-byte fields, most significant byte first. -/
def halves : List Byte → List Half
  | a :: b :: rest => (a ++ b) :: halves rest
  | _ => []

/-- Block records of ten bytes (R178). -/
def blockFields : List Byte → List BlockField
  | b1 :: b0 :: kind :: bay :: count :: s1 :: s0 :: t1 :: t0 :: port :: rest =>
    ⟨b1 ++ b0, kind, bay, count, s1 ++ s0, t1 ++ t0, port⟩ :: blockFields rest
  | _ => []

/-- Port records of three bytes (R178). -/
def portFields : List Byte → List PortField
  | p :: b1 :: b0 :: rest => ⟨p, b1 ++ b0⟩ :: portFields rest
  | _ => []

/-- Stands in a request whose body length does not fit, where no field is read. -/
def noChars : CarrierField := .replicate 8 0

/-- The request that a frame with this kind, frame tag and fields is, on link `l`. A frame whose body length does not fit
its kind is the request with `fits` clear and fields of zeros (R177: it is answered RANGE after the role and the mode). -/
def requestOfKind (l : LinkId) (tag : Byte) (kind : ReqKind) (fields : List Byte) : Instr :=
  match kind with
  | .status => .status ⟨l, tag, fields.isEmpty⟩
  | .clearAttention =>
    match fields with
    | [m] => .clearAttention ⟨l, tag, true⟩ m
    | _ => .clearAttention ⟨l, tag, false⟩ 0
  | .setNoticeMask =>
    match fields with
    | [k, m] => .setNoticeMask ⟨l, tag, true⟩ k m
    | _ => .setNoticeMask ⟨l, tag, false⟩ 0 0
  | .queryVehicle =>
    match fields with
    | [v] => .queryVehicle ⟨l, tag, true⟩ v
    | _ => .queryVehicle ⟨l, tag, false⟩ 0
  | .queryOrder =>
    match fields with
    | [x, y1, y0] => .queryOrder ⟨l, tag, true⟩ x (y1 ++ y0)
    | _ => .queryOrder ⟨l, tag, false⟩ 0 0
  | .queryBlock =>
    match fields with
    | [b1, b0] => .queryBlock ⟨l, tag, true⟩ (b1 ++ b0)
    | _ => .queryBlock ⟨l, tag, false⟩ 0
  | .queryPort =>
    match fields with
    | [p] => .queryPort ⟨l, tag, true⟩ p
    | _ => .queryPort ⟨l, tag, false⟩ 0
  | .submitOrder =>
    match fields with
    | [t1, t0, c0, c1, c2, c3, c4, c5, c6, c7, p, d, a, q] => .submitOrder ⟨l, tag, true⟩ (t1 ++ t0) #v[c0, c1, c2, c3, c4, c5, c6, c7] p d a q
    | _ => .submitOrder ⟨l, tag, false⟩ 0 noChars 0 0 0 0
  | .cancelOrder =>
    match fields with
    | [o1, o0, t1, t0] => .cancelOrder ⟨l, tag, true⟩ (o1 ++ o0) (t1 ++ t0)
    | _ => .cancelOrder ⟨l, tag, false⟩ 0 0
  | .redirectOrder =>
    match fields with
    | [o1, o0, t1, t0, d, a] => .redirectOrder ⟨l, tag, true⟩ (o1 ++ o0) (t1 ++ t0) d a
    | _ => .redirectOrder ⟨l, tag, false⟩ 0 0 0 0
  | .reclassOrder =>
    match fields with
    | [o1, o0, t1, t0, q] => .reclassOrder ⟨l, tag, true⟩ (o1 ++ o0) (t1 ++ t0) q
    | _ => .reclassOrder ⟨l, tag, false⟩ 0 0 0
  | .setPortState =>
    match fields with
    | [p, a] => .setPortState ⟨l, tag, true⟩ p a
    | _ => .setPortState ⟨l, tag, false⟩ 0 0
  | .setClock =>
    match fields with
    | [w3, w2, w1, w0] => .setClock ⟨l, tag, true⟩ (w3 ++ w2 ++ w1 ++ w0)
    | _ => .setClock ⟨l, tag, false⟩ 0
  | .join =>
    match fields with
    | [v, b1, b0, c0, c1, c2, c3, c4, c5, c6, c7] => .join ⟨l, tag, true⟩ v (b1 ++ b0) #v[c0, c1, c2, c3, c4, c5, c6, c7]
    | _ => .join ⟨l, tag, false⟩ 0 0 noChars
  | .leave =>
    match fields with
    | [v] => .leave ⟨l, tag, true⟩ v
    | _ => .leave ⟨l, tag, false⟩ 0
  | .position =>
    match fields with
    | [v, b1, b0] => .position ⟨l, tag, true⟩ v (b1 ++ b0)
    | _ => .position ⟨l, tag, false⟩ 0 0
  | .claim =>
    match fields with
    | v :: n :: bs =>
      if bs.length = 2 * n.toNat then .claim ⟨l, tag, true⟩ v (halves bs) else .claim ⟨l, tag, false⟩ 0 []
    | _ => .claim ⟨l, tag, false⟩ 0 []
  | .releaseAhead =>
    match fields with
    | [v, n] => .releaseAhead ⟨l, tag, true⟩ v n
    | _ => .releaseAhead ⟨l, tag, false⟩ 0 0
  | .accept =>
    match fields with
    | [v, o1, o0, p1, p0, d1, d0, c0, c1, c2, c3, c4, c5, c6, c7] => .accept ⟨l, tag, true⟩ v (o1 ++ o0) (p1 ++ p0) (d1 ++ d0) #v[c0, c1, c2, c3, c4, c5, c6, c7]
    | _ => .accept ⟨l, tag, false⟩ 0 0 0 0 noChars
  | .decline =>
    match fields with
    | [v, o1, o0] => .decline ⟨l, tag, true⟩ v (o1 ++ o0)
    | _ => .decline ⟨l, tag, false⟩ 0 0
  | .pickDone =>
    match fields with
    | [v, c0, c1, c2, c3, c4, c5, c6, c7] => .pickDone ⟨l, tag, true⟩ v #v[c0, c1, c2, c3, c4, c5, c6, c7]
    | _ => .pickDone ⟨l, tag, false⟩ 0 noChars
  | .dropDone =>
    match fields with
    | [v] => .dropDone ⟨l, tag, true⟩ v
    | _ => .dropDone ⟨l, tag, false⟩ 0
  | .dropFail =>
    match fields with
    | [v] => .dropFail ⟨l, tag, true⟩ v
    | _ => .dropFail ⟨l, tag, false⟩ 0
  | .fault =>
    match fields with
    | [v] => .fault ⟨l, tag, true⟩ v
    | _ => .fault ⟨l, tag, false⟩ 0
  | .recover =>
    match fields with
    | [v, b1, b0] => .recover ⟨l, tag, true⟩ v (b1 ++ b0)
    | _ => .recover ⟨l, tag, false⟩ 0 0
  | .heartbeat =>
    match fields with
    | [v] => .heartbeat ⟨l, tag, true⟩ v
    | _ => .heartbeat ⟨l, tag, false⟩ 0
  | .writeBlocks =>
    match fields with
    | n :: bs =>
      if bs.length = 10 * n.toNat then .writeBlocks ⟨l, tag, true⟩ (blockFields bs)
      else .writeBlocks ⟨l, tag, false⟩ []
    | _ => .writeBlocks ⟨l, tag, false⟩ []
  | .writePorts =>
    match fields with
    | n :: bs =>
      if bs.length = 3 * n.toNat then .writePorts ⟨l, tag, true⟩ (portFields bs)
      else .writePorts ⟨l, tag, false⟩ []
    | _ => .writePorts ⟨l, tag, false⟩ []
  | .writeBay =>
    match fields with
    | a :: k :: ds =>
      if hd : ds.length = 32 then .writeBay ⟨l, tag, true⟩ a k ⟨ds.toArray, by simpa using hd⟩
      else .writeBay ⟨l, tag, false⟩ 0 0 (.replicate 32 0)
    | _ => .writeBay ⟨l, tag, false⟩ 0 0 (.replicate 32 0)
  | .commitMap => .commitMap ⟨l, tag, fields.isEmpty⟩
  | .reopenMap => .reopenMap ⟨l, tag, fields.isEmpty⟩
  | .setFence =>
    match fields with
    | [f, x1, x0, y1, y0] => .setFence ⟨l, tag, true⟩ f (x1 ++ x0) (y1 ++ y0)
    | _ => .setFence ⟨l, tag, false⟩ 0 0 0
  | .clearFence =>
    match fields with
    | [f] => .clearFence ⟨l, tag, true⟩ f
    | _ => .clearFence ⟨l, tag, false⟩ 0
  | .setTiming =>
    match fields with
    | [s, o, g, b1, b0, t1, t0, e1, e0, r0, r1, r2, r3, c] =>
      .setTiming ⟨l, tag, true⟩ ⟨s, o, g, b1 ++ b0, t1 ++ t0, e1 ++ e0, r0, r1, r2, r3, c⟩
    | _ => .setTiming ⟨l, tag, false⟩ ⟨0, 0, 0, 0, 0, 0, 0, 0, 0, 0, 0⟩
  | .setWeights =>
    match fields with
    | [w0, w1, w2, w3, w4] => .setWeights ⟨l, tag, true⟩ ⟨w0, w1, w2, w3, w4⟩
    | _ => .setWeights ⟨l, tag, false⟩ ⟨0, 0, 0, 0, 0⟩
  | .setLinkRate =>
    match fields with
    | [k, r] => .setLinkRate ⟨l, tag, true⟩ k r
    | _ => .setLinkRate ⟨l, tag, false⟩ 0 0
  | .drain =>
    match fields with
    | [v] => .drain ⟨l, tag, true⟩ v
    | _ => .drain ⟨l, tag, false⟩ 0
  | .restore =>
    match fields with
    | [v] => .restore ⟨l, tag, true⟩ v
    | _ => .restore ⟨l, tag, false⟩ 0
  | .evict =>
    match fields with
    | [v] => .evict ⟨l, tag, true⟩ v
    | _ => .evict ⟨l, tag, false⟩ 0
  | .thaw =>
    match fields with
    | [b1, b0] => .thaw ⟨l, tag, true⟩ (b1 ++ b0)
    | _ => .thaw ⟨l, tag, false⟩ 0
  | .readCapture => .readCapture ⟨l, tag, fields.isEmpty⟩
  | .clearCapture => .clearCapture ⟨l, tag, fields.isEmpty⟩
  | .halt => .halt ⟨l, tag, fields.isEmpty⟩
  | .resume => .resume ⟨l, tag, fields.isEmpty⟩
  | .softReset => .softReset ⟨l, tag, fields.isEmpty⟩

/-- A frame that passed its check, as a command: the request its kind code names, or UNKNOWN_KIND_REQUEST (R166). -/
def requestOfFrame (l : LinkId) (code tag : Byte) (fields : List Byte) : Instr :=
  match reqKind? code with
  | some kind => requestOfKind l tag kind fields
  | none => .unknownKindRequest l tag

/-! ## Writing a request frame (R178) -/

def bytes2 (h : Half) : List Byte := [h.extractLsb' 8 8, h.extractLsb' 0 8]

def bytes4 (w : Word) : List Byte :=
  [w.extractLsb' 24 8, w.extractLsb' 16 8, w.extractLsb' 8 8, w.extractLsb' 0 8]

def BlockField.bytes (r : BlockField) : List Byte :=
  bytes2 r.block ++ [r.kind, r.bay, r.count] ++ bytes2 r.succ1 ++ bytes2 r.succ2 ++ [r.port]

def PortField.bytes (r : PortField) : List Byte := [r.port] ++ bytes2 r.block

def Timing.bytes (t : Timing) : List Byte :=
  [t.silence, t.offer, t.aging] ++ bytes2 t.promoBulk ++ bytes2 t.promoStandard ++ bytes2 t.promoExpress
    ++ [t.reachHot, t.reachExpress, t.reachStandard, t.reachBulk, t.scrub]

def Weights.bytes (w : Weights) : List Byte := [w.hot, w.express, w.standard, w.bulk, w.none]

/-- The header, the kind and the field bytes of a request; none for a command that is no request of R178. -/
def Instr.requestFields : Instr → Option (Hdr × ReqKind × List Byte)
  | .status h => some (h, .status, [])
  | .clearAttention h m => some (h, .clearAttention, [m])
  | .setNoticeMask h k m => some (h, .setNoticeMask, [k] ++ [m])
  | .queryVehicle h v => some (h, .queryVehicle, [v])
  | .queryOrder h x y => some (h, .queryOrder, [x] ++ bytes2 y)
  | .queryBlock h b => some (h, .queryBlock, bytes2 b)
  | .queryPort h p => some (h, .queryPort, [p])
  | .submitOrder h t c p d a q => some (h, .submitOrder, bytes2 t ++ c.toList ++ [p] ++ [d] ++ [a] ++ [q])
  | .cancelOrder h o t => some (h, .cancelOrder, bytes2 o ++ bytes2 t)
  | .redirectOrder h o t d a => some (h, .redirectOrder, bytes2 o ++ bytes2 t ++ [d] ++ [a])
  | .reclassOrder h o t q => some (h, .reclassOrder, bytes2 o ++ bytes2 t ++ [q])
  | .setPortState h p a => some (h, .setPortState, [p] ++ [a])
  | .setClock h w => some (h, .setClock, bytes4 w)
  | .join h v b c => some (h, .join, [v] ++ bytes2 b ++ c.toList)
  | .leave h v => some (h, .leave, [v])
  | .position h v b => some (h, .position, [v] ++ bytes2 b)
  | .claim h v bs => some (h, .claim, [v, .ofNat 8 bs.length] ++ bs.flatMap bytes2)
  | .releaseAhead h v n => some (h, .releaseAhead, [v] ++ [n])
  | .accept h v o p d c => some (h, .accept, [v] ++ bytes2 o ++ bytes2 p ++ bytes2 d ++ c.toList)
  | .decline h v o => some (h, .decline, [v] ++ bytes2 o)
  | .pickDone h v c => some (h, .pickDone, [v] ++ c.toList)
  | .dropDone h v => some (h, .dropDone, [v])
  | .dropFail h v => some (h, .dropFail, [v])
  | .fault h v => some (h, .fault, [v])
  | .recover h v b => some (h, .recover, [v] ++ bytes2 b)
  | .heartbeat h v => some (h, .heartbeat, [v])
  | .writeBlocks h rs => some (h, .writeBlocks, [.ofNat 8 rs.length] ++ rs.flatMap BlockField.bytes)
  | .writePorts h rs => some (h, .writePorts, [.ofNat 8 rs.length] ++ rs.flatMap PortField.bytes)
  | .writeBay h a k row => some (h, .writeBay, [a, k] ++ row.toList)
  | .commitMap h => some (h, .commitMap, [])
  | .reopenMap h => some (h, .reopenMap, [])
  | .setFence h f x y => some (h, .setFence, [f] ++ bytes2 x ++ bytes2 y)
  | .clearFence h f => some (h, .clearFence, [f])
  | .setTiming h t => some (h, .setTiming, Timing.bytes t)
  | .setWeights h w => some (h, .setWeights, Weights.bytes w)
  | .setLinkRate h k r => some (h, .setLinkRate, [k] ++ [r])
  | .drain h v => some (h, .drain, [v])
  | .restore h v => some (h, .restore, [v])
  | .evict h v => some (h, .evict, [v])
  | .thaw h b => some (h, .thaw, bytes2 b)
  | .readCapture h => some (h, .readCapture, [])
  | .clearCapture h => some (h, .clearCapture, [])
  | .halt h => some (h, .halt, [])
  | .resume h => some (h, .resume, [])
  | .softReset h => some (h, .softReset, [])
  | _ => none

/-- The body of a request's frame: kind code, frame tag, fields (R177). -/
def Instr.body? (i : Instr) : Option (List Byte) :=
  i.requestFields.map fun (h, kind, fields) => kind.code :: h.tag :: fields

end Sys2Proof
end

