-- ==== Sys2Proof/Machine/Records.lean ====
section
/-! DEFINITION. The enumerations and the records of the LX-720, with the value each record has after hard reset. -/

namespace Sys2Proof.Machine

/-- The controller mode (R11). -/
inductive Mode where
  | setup | run | halted
  deriving DecidableEq, Repr

/-- The kinds of block (R1). -/
inductive BlockKind where
  | unused | lane | merge | diverge | port | park
  deriving DecidableEq, Repr

/-- The eight vehicle states (R58). -/
inductive VState where
  | offline | idle | offered | toSource | toDest | loadedIdle | withdrawn | stalled
  deriving DecidableEq, Repr

/-- Why a vehicle stalled (R57). -/
inductive StallCause where
  | lost | fault | integrity
  deriving DecidableEq, Repr

/-- The four states of a live order (R87). -/
inductive OState where
  | queued | offered | toSource | carrying
  deriving DecidableEq, Repr

/-- The four classes (R86). -/
inductive Cls where
  | hot | express | standard | bulk
  deriving DecidableEq, Repr

/-- What a reservation is for (R103). -/
inductive ResKind where
  | pick | drop
  deriving DecidableEq, Repr

/-- The five line rates (R156). -/
inductive Rate where
  | r57600 | r115200 | r230400 | r460800 | r921600
  deriving DecidableEq, Repr

/-- The link roles, in the order of the strap values 00, 01, 10, 11 (R155). -/
inductive Role where
  | disabled | scheduler | bay | service
  deriving DecidableEq, Repr

/-- The result codes of a reply (R167). -/
inductive ResultCode where
  | ok | queued | partialGrant | mismatch | tooLate | invalidMap | converted | integrity
  | role | mode | range | unknown | notYours | state | notHeld | held | full | duplicate
  deriving DecidableEq, Repr

/-- Why a claim ended PARTIAL (R30). -/
inductive ClaimReason where
  | fenced | frozen | waitFull | cycle
  deriving DecidableEq, Repr

/-- The object of a failed map check (R10). -/
inductive MapObject where
  | block | port | bay
  deriving DecidableEq, Repr

/-- The reason of a failed map check (R10). -/
inductive MapReason where
  | badSuccessor | successorCount | predecessorCount | portMismatch | portOrphan | noBayOwner | distanceSelf
  deriving DecidableEq, Repr

/-- Why REDIRECT_ORDER was answered FULL (R95). -/
inductive RedirectReason where
  | down | reserved
  deriving DecidableEq, Repr

/-- The outcomes of PICK_DONE (R122). -/
inductive PickOutcome where
  | picked | sourceEmpty | carrierMismatch
  deriving DecidableEq, Repr

/-- The outcomes of DROP_FAIL (R127, R128). -/
inductive DropFailOutcome where
  | rerouted | refused
  deriving DecidableEq, Repr

/-- What a stall did to the vehicle's order (R71, R73). -/
inductive Disposition where
  | requeued | suspended
  deriving DecidableEq, Repr

/-- The kinds of ORDER_STATE (R106). -/
inductive OrderKind where
  | assigned | picked | requeued | promoted | suspended | resumed | rerouted | done | failed
  deriving DecidableEq, Repr

/-- The causes of ORDER_STATE (R106). -/
inductive OrderCause where
  | declined | timeout | mismatch | stalled | evicted
  | sourceEmpty | carrierMismatch | dropRefused | vehicleEvicted | integrity
  deriving DecidableEq, Repr

/-- The causes of WITHDRAW (R129, R141). -/
inductive WithdrawCause where
  | timeout | cancelled | stalled | integrity
  deriving DecidableEq, Repr

/-- The causes of REROUTE (R129). -/
inductive RerouteCause where
  | redirect | dropFail
  deriving DecidableEq, Repr

/-- The reasons of WAIT_CANCELLED (R35). -/
inductive WaitReason where
  | stalled | frozen
  deriving DecidableEq, Repr

/-- The causes of MODE (R12). -/
inductive ModeCause where
  | commit | reopen | halt | resume | softReset
  deriving DecidableEq, Repr

/-- The causes of INTEGRITY (R145). -/
inductive IntegrityCause where
  | record | chain
  deriving DecidableEq, Repr

/-- Who found an error (R133). -/
inductive Finder where
  | access | scrub
  deriving DecidableEq, Repr

/-- The kind of an error in the capture record (R135). -/
inductive ErrorKind where
  | corrected | uncorrectable
  deriving DecidableEq, Repr

/-- What is on board a vehicle: no carrier, a carrier whose id cannot be trusted, or a carrier id
(00_scope, "Carrier ids"). -/
inductive Carrier where
  | none
  | unknown
  | id (chars : CarrierField)
  deriving DecidableEq, Repr

/-- The static fields of a block (R1). -/
structure BlockStatic where
  kind  : BlockKind
  bay   : BayId
  succs : List BlockId
  port  : Option PortId
  deriving DecidableEq, Repr

/-- The holder field of a block (R18). -/
inductive Holder where
  | none
  | vehicle (v : VehicleId)
  | unknown
  deriving DecidableEq, Repr

/-- An entry of a waiter list (R22). -/
structure Waiter where
  vehicle : VehicleId
  seq     : Word
  entry   : Millis
  deriving DecidableEq, Repr

/-- A block record: its static fields, its dynamic part (R18), and the bits of the record that have flipped since its
check word was computed (R132). -/
structure BlockRec where
  fixed   : BlockStatic
  holder  : Holder
  frozen  : Bool
  waiters : List Waiter
  flips   : List Nat
  deriving DecidableEq, Repr

/-- A vehicle record (R57) with the holding list (R20), the waiting-on field (R21) and its flipped bits (R132). A
countdown is its remaining milliseconds, or none when stopped. -/
structure VehicleRec where
  state     : VState
  cause     : Option StallCause
  saved     : Option VState
  owner     : Option LinkId
  order     : Option Slot
  carrier   : Carrier
  drain     : Bool
  idleSeq   : Word
  silence   : Option Nat
  offer     : Option Nat
  timedOut  : Option Slot
  holds     : List BlockId
  waitingOn : Option BlockId
  flips     : List Nat
  deriving DecidableEq, Repr

/-- A live order (R86) with its flipped bits (R132). -/
structure OrderRec where
  origin     : LinkId
  tag        : Half
  carrier    : Carrier
  source     : Option PortId
  dest       : PortId
  alt        : Option PortId
  altInUse   : Bool
  cls        : Cls
  submitSeq  : Word
  classEntry : Millis
  state      : OState
  suspended  : Bool
  vehicle    : Option VehicleId
  bound      : Option VehicleId
  declinedBy : Option VehicleId
  flips      : List Nat
  deriving DecidableEq, Repr

/-- The four class queues, each from its head (R89). -/
structure Queues where
  hot      : List Slot
  express  : List Slot
  standard : List Slot
  bulk     : List Slot
  deriving DecidableEq, Repr

/-- A port reservation (R103). -/
structure Reservation where
  slot : Slot
  kind : ResKind
  deriving DecidableEq, Repr

/-- A port record: its placement (R2) and its dynamic part (R103). -/
structure PortRec where
  block       : Option BlockId
  down        : Bool
  reservation : Option Reservation
  deriving DecidableEq, Repr

/-- A bay record (R3). -/
structure BayRec where
  owner : Option LinkId
  row   : Vector Byte 32
  deriving DecidableEq, Repr

/-- A fence slot (R4). -/
structure Fence where
  active : Bool
  first  : BlockId
  last   : BlockId
  deriving DecidableEq, Repr

/-- The capture record when it is full (R135). -/
structure Capture where
  record : RecRef
  kind   : ErrorKind
  finder : Finder
  stamp  : Word
  more   : Bool
  deriving DecidableEq, Repr

/-- The five attention causes of a link (R173). -/
structure Attention where
  noticesDropped : Bool
  rxFault        : Bool
  overrun        : Bool
  modeChanged    : Bool
  integrity      : Bool
  deriving DecidableEq, Repr

/-- The notices (R180). `orderLost` is the short form of ORDER_STATE, FAILED with cause INTEGRITY. -/
inductive Notice where
  | grant (v : VehicleId) (b : BlockId) (holds bid : Nat)
  | waitCancelled (v : VehicleId) (b : BlockId) (reason : WaitReason) (holds : Nat)
  | assign (v : VehicleId) (o : Slot) (srcPort : Option PortId) (srcBlock : Option BlockId)
      (destPort : PortId) (destBlock : Option BlockId) (carrier : Carrier)
  | withdraw (v : VehicleId) (o : Slot) (cause : WithdrawCause)
  | reroute (v : VehicleId) (o : Slot) (cause : RerouteCause) (dest : PortId) (destBlock : Option BlockId)
      (alt : Option PortId)
  | orderState (o : Slot) (tag : Half) (kind : OrderKind) (cause : Option OrderCause) (cls : Cls)
      (vehicle : Option VehicleId) (carrier : Carrier) (dest : PortId) (clock : Word)
  | orderLost (o : Slot) (clock : Word)
  | integrity (cause : IntegrityCause) (record : RecRef) (finder : Finder) (vehicle : Option VehicleId) (clock : Word)
  | mode (previous present : Mode) (cause : ModeCause)
  | vehicleState (v : VehicleId) (previous present : VState) (cause : Option StallCause) (owner : Option LinkId)
      (position : Option BlockId)
  | portState (p : PortId) (block : Option BlockId) (down : Bool) (reservation : Option Reservation)
  deriving DecidableEq, Repr

/-- A reply: reply kind, frame tag, result code, status byte and outcome fields (R167, R179). -/
structure Reply where
  kind   : Byte
  tag    : Byte
  code   : ResultCode
  status : Attention
  fields : List Byte
  deriving DecidableEq, Repr

/-- A reply in a request slot; `begun` once the transmitter has begun to send it (R161, R162). -/
structure Pending where
  reply : Reply
  begun : Bool
  deriving DecidableEq, Repr

/-- A frame the part sends (R162). -/
inductive TxBody where
  | reply (r : Reply)
  | notice (n : Notice)
  deriving DecidableEq, Repr

/-- The frame being sent, and the rate in force when it began (R162, R164). -/
structure TxFrame where
  body : TxBody
  rate : Rate
  deriving DecidableEq, Repr

/-- The receiver's state with its partial frame (R157). -/
inductive Rx where
  | hunt
  | length
  | body (len : Byte) (got : List Byte)
  | check (len : Byte) (got : List Byte) (first : Option Byte)
  deriving DecidableEq, Repr

/-- A Link Interface (R155 to R165, R173, R175). -/
structure Link where
  role        : Role
  rate        : Rate
  rx          : Rx
  gapTimer    : Bool
  slot        : Option Pending
  pendingRate : Option (LinkId × Rate)
  tx          : Option TxFrame
  queue       : List Notice
  attention   : Attention
  maskVehicle : Bool
  maskPort    : Bool
  deriving DecidableEq, Repr

/-- What a checked read of a record finds (R132): a clean record, a correctable one with its corrected value, or an
uncorrectable one. -/
inductive ReadCheck (α : Type) where
  | clean (value : α)
  | correctable (value : α)
  | uncorrectable
  deriving DecidableEq, Repr, Inhabited

/-! ## Values after hard reset -/

/-- R1: an UNUSED block. -/
def BlockStatic.unused : BlockStatic := ⟨.unused, 0, [], none⟩

/-- R1, R18, R42: a block record after hard reset. -/
def BlockRec.reset : BlockRec := ⟨.unused, .none, false, [], []⟩

/-- R85, R42: a vehicle record after hard reset. -/
def VehicleRec.reset : VehicleRec :=
  { state := .offline, cause := none, saved := none, owner := none, order := none, carrier := .none, drain := false,
    idleSeq := 0, silence := none, offer := none, timedOut := none, holds := [], waitingOn := none, flips := [] }

/-- R2, R103, R108: a port record after hard reset. -/
def PortRec.reset : PortRec := ⟨none, false, none⟩

/-- R3: bay `a` after hard reset, 0 in its own position of the row and 255 elsewhere. -/
def BayRec.reset (a : BayId) : BayRec := ⟨none, (Vector.replicate 32 255).set a 0⟩

/-- R4: a fence slot after hard reset. -/
def Fence.reset : Fence := ⟨false, 0, 0⟩

/-- R89: the class queues after hard reset. -/
def Queues.reset : Queues := ⟨[], [], [], []⟩

/-- R149: the default timing settings. -/
def defaultTiming : Timing := ⟨30, 20, 5, 600, 900, 0, 255, 255, 255, 255, 10⟩

/-- R49: the bid weights after hard reset. -/
def defaultWeights : Weights := ⟨160, 120, 80, 40, 20⟩

/-- R173: every cause clear. -/
def Attention.clear : Attention := ⟨false, false, false, false, false⟩

/-- R165: a link of the given role after hard reset. -/
def Link.reset (r : Role) : Link :=
  { role := r, rate := .r115200, rx := .hunt, gapTimer := false, slot := none, pendingRate := none, tx := none,
    queue := [], attention := .clear, maskVehicle := false, maskPort := false }

/-- R155: the role a strap value gives. -/
def Role.ofStrap (b : BitVec 2) : Role :=
  match b.toNat with
  | 0 => .disabled
  | 1 => .scheduler
  | 2 => .bay
  | _ => .service

end Sys2Proof.Machine
end

