-- ==== Sys2Proof/Config.lean ====
section
/-! DEFINITION. The free values of the LX-720: what its manual leaves open, as constants with no body, so that nothing can
be proved of their values. -/

namespace Sys2Proof.Config

open Sys2Proof.Machine

/-- R132 says what a record with one flipped bit and with two flipped bits reads as, and nothing of three or more: a read
of such a block record gives any of the three outcomes, with any value (log entry 9). -/
opaque manyFlipsBlock : BlockRec → ReadCheck BlockRec

/-- The same for a vehicle record (log entry 9). -/
opaque manyFlipsVehicle : VehicleRec → ReadCheck VehicleRec

/-- The same for an order record (log entry 9). -/
opaque manyFlipsOrder : OrderRec → ReadCheck OrderRec

/-- R147: two timer events at the same millisecond are taken in either order. The n-th choice among such events is this
number, taken modulo their count (log entry 3). -/
opaque tieChoice : Nat → Nat

end Sys2Proof.Config
end

