-- ==== Sys2Proof/Machine/State.lean ====
section
/-! DEFINITION. The state of the LX-720, the reasons a step could stop, and the state after hard reset. -/

namespace Sys2Proof.Machine

/-- The reasons a step can fault. There is none: the spec gives every command an effect in every state, and a damaged
record is repaired inside the event that reads it (R134). No meaning raises a fault. -/
inductive Fault where
  deriving DecidableEq, Repr

/-- The reasons a step can be refused. -/
inductive Refusal where
  /-- A command of the table that has no meaning yet; raised by an arm of `exec` alone, and safe: nothing is then claimed
  about it. No arm raises it now. -/
  | notModelled (mnemonic : String)
  deriving DecidableEq, Repr

/-- The whole state of the part. Records are indexed by their numbers; `pending` and `freeCount` are the model's own
(log entries 1 and 4). -/
structure State where
  /-- R11. -/
  mode       : Mode
  /-- R10, the map-committed flag. -/
  committed  : Bool
  /-- R1, the Map Store's separate copy of the static block fields. -/
  map        : Vector BlockStatic 1024
  /-- R1, R18, the block records. -/
  blocks     : Vector BlockRec 1024
  /-- R2, R103. -/
  ports      : Vector PortRec 192
  /-- R3. -/
  bays       : Vector BayRec 32
  /-- R4. -/
  fences     : Vector Fence 16
  /-- R57, R20, R21. -/
  vehicles   : Vector VehicleRec 128
  /-- R86; none is a free slot. -/
  orders     : Vector (Option OrderRec) 256
  /-- R89. -/
  queues     : Queues
  /-- R109, the dispatch trigger. -/
  trigger    : Bool
  /-- R135; none is the empty capture record. -/
  capture    : Option Capture
  /-- R135, the correction count, 0 to 255. -/
  corrections : Nat
  /-- R136, the scrub cursor. -/
  cursor     : RecRef
  /-- R136, R152: milliseconds left of the interval being timed; none while the walk is stopped. -/
  scrubTimer : Option Nat
  /-- R147. -/
  msBase     : Millis
  /-- R148. -/
  fabClock   : Word
  /-- R148, the second divider, 0 to 999. -/
  divider    : Nat
  /-- R149. -/
  timing     : Timing
  /-- R49. -/
  weights    : Weights
  /-- R153. -/
  submitSeq  : Word
  /-- R153. -/
  waiterSeq  : Word
  /-- R153. -/
  idleSeq    : Word
  /-- R155 to R165. -/
  links      : Vector Link 6
  /-- The model's own: how many free choices have been taken. -/
  freeCount  : Nat
  /-- The commands waiting, first in first out. -/
  pending    : List Instr
  deriving DecidableEq, Repr

/-- The part after hard reset with the given roles (R17, R42, R56, R85, R108, R131, R146 to R149, R165). -/
def State.hardReset (roles : Vector Role 6) : State :=
  { mode := .setup, committed := false
    map := .replicate 1024 .unused, blocks := .replicate 1024 .reset
    ports := .replicate 192 .reset, bays := .ofFn BayRec.reset, fences := .replicate 16 .reset
    vehicles := .replicate 128 .reset, orders := .replicate 256 none, queues := .reset
    trigger := false, capture := none, corrections := 0, cursor := .block 0
    scrubTimer := some defaultTiming.scrub.toNat
    msBase := 0, fabClock := 0, divider := 0, timing := defaultTiming, weights := defaultWeights
    submitSeq := 0, waiterSeq := 0, idleSeq := 0
    links := roles.map Link.reset, freeCount := 0, pending := [] }

/-- The machine right after reset. The spec reads the roles from the straps of the board; DESIGN CHOICE (log entry 5): the
roles of the worked example of spec/01, with its two unnamed links disabled. -/
def State.reset : State :=
  .hardReset #v[.service, .bay, .bay, .scheduler, .disabled, .disabled]

end Sys2Proof.Machine
end

