-- ==== Sys2Proof/Machine/Flags.lean ====
section
/-! DEFINITION. The flag words of the wire: the attention summary (R173, R177) and the notice subscription mask (R175, R177). -/

namespace Sys2Proof.Machine

/-- The attention causes (R173). -/
inductive Cause where
  | noticesDropped | rxFault | overrun | modeChanged | integrity
  deriving DecidableEq, Repr

/-- R173: a cause is set, or stays set. -/
def Attention.set (a : Attention) : Cause → Attention
  | .noticesDropped => { a with noticesDropped := true }
  | .rxFault => { a with rxFault := true }
  | .overrun => { a with overrun := true }
  | .modeChanged => { a with modeChanged := true }
  | .integrity => { a with integrity := true }

/-- One bit of a flag word. -/
def bit (b : Bool) (weight : Byte) : Byte := if b then weight else 0

/-- R177: the status byte, bit 0 NOTICES_DROPPED to bit 4 INTEGRITY, bits 5 to 7 clear. -/
def Attention.byte (a : Attention) : Byte :=
  bit a.noticesDropped 1 ||| bit a.rxFault 2 ||| bit a.overrun 4 ||| bit a.modeChanged 8 ||| bit a.integrity 16

/-- R174, R177: the causes a CLEAR_ATTENTION mask names; none when it sets one of bits 5 to 7. -/
def Attention.ofMask (m : Byte) : Option Attention :=
  if m.toNat < 32 then
    some ⟨m.getLsbD 0, m.getLsbD 1, m.getLsbD 2, m.getLsbD 3, m.getLsbD 4⟩
  else none

/-- R174: the summary without the causes named. -/
def Attention.without (a named : Attention) : Attention :=
  { noticesDropped := a.noticesDropped && !named.noticesDropped
    rxFault := a.rxFault && !named.rxFault
    overrun := a.overrun && !named.overrun
    modeChanged := a.modeChanged && !named.modeChanged
    integrity := a.integrity && !named.integrity }

/-- R177: a link's notice subscription mask, bit 0 VEHICLE_STATE, bit 1 PORT_STATE. -/
def Link.maskByte (k : Link) : Byte := bit k.maskVehicle 1 ||| bit k.maskPort 2

/-- R175, R177: the settings a SET_NOTICE_MASK mask gives (VEHICLE_STATE, PORT_STATE); none when it sets another bit. -/
def noticeMask? (m : Byte) : Option (Bool × Bool) :=
  if m.toNat < 4 then some (m.getLsbD 0, m.getLsbD 1) else none

end Sys2Proof.Machine
end

