-- ==== Sys2Proof/Machine/Wire.lean ====
section
/-! DEFINITION. What goes on a transmit line: the encodings of R177, the check of R158, the notice bodies of R180 and the
reply body of R179. Fields of more than one byte go most significant byte first. -/

namespace Sys2Proof.Machine

/-! ## Field encodings (R177) -/

namespace Enc

/-- One byte holding a count, a setting or a number. -/
def num (n : Nat) : List Byte := [.ofNat 8 n]

/-- Two bytes holding a number. -/
def num2 (n : Nat) : List Byte := bytes2 (.ofNat 16 n)

def flag (b : Bool) : List Byte := [if b then 1 else 0]

/-- A one-byte value or none (FFh). -/
def opt1 {α : Type} (f : α → List Byte) : Option α → List Byte
  | some a => f a
  | none => [0xFF]

/-- A two-byte value or none (FFFFh). -/
def opt2 {α : Type} (f : α → List Byte) : Option α → List Byte
  | some a => f a
  | none => [0xFF, 0xFF]

def vehicle (v : VehicleId) : List Byte := num v.val
def block (b : BlockId) : List Byte := num2 b.val
def bay (a : BayId) : List Byte := num a.val
def port (p : PortId) : List Byte := num p.val
def slot (o : Slot) : List Byte := num2 o.val
def link (l : LinkId) : List Byte := num l.val
def fence (f : FenceId) : List Byte := num f.val

/-- R177: the remaining time of a countdown, FFFFh when stopped. -/
def remaining (c : Option Nat) : List Byte := opt2 num2 c

/-- R177: elapsed milliseconds stop at FFFFFFFFh. -/
def elapsed (n : Nat) : List Byte := bytes4 (.ofNat 32 (min n 0xFFFFFFFF))

def carrierField : Carrier → CarrierField
  | .none => .replicate 8 0x20
  | .unknown => .replicate 8 0x3F
  | .id c => c

def carrier (c : Carrier) : List Byte := (carrierField c).toList

def holder : Holder → List Byte
  | .none => [0xFF]
  | .vehicle v => vehicle v
  | .unknown => [0xFE]

end Enc

open Enc

def Mode.code : Mode → Byte
  | .setup => 0 | .run => 1 | .halted => 2

def BlockKind.code : BlockKind → Byte
  | .unused => 0 | .lane => 1 | .merge => 2 | .diverge => 3 | .port => 4 | .park => 5

def VState.code : VState → Byte
  | .offline => 0 | .idle => 1 | .offered => 2 | .toSource => 3 | .toDest => 4 | .loadedIdle => 5 | .withdrawn => 6
  | .stalled => 7

def StallCause.code : StallCause → Byte
  | .lost => 0 | .fault => 1 | .integrity => 2

def OState.code : OState → Byte
  | .queued => 0 | .offered => 1 | .toSource => 2 | .carrying => 3

def Cls.code : Cls → Byte
  | .hot => 0 | .express => 1 | .standard => 2 | .bulk => 3

def ResKind.code : ResKind → Byte
  | .pick => 0 | .drop => 1

def Rate.code : Rate → Byte
  | .r57600 => 0 | .r115200 => 1 | .r230400 => 2 | .r460800 => 3 | .r921600 => 4

def ResultCode.code : ResultCode → Byte
  | .ok => 0x00 | .queued => 0x01 | .partialGrant => 0x02 | .mismatch => 0x03 | .tooLate => 0x04 | .invalidMap => 0x06
  | .converted => 0x07 | .integrity => 0x08 | .role => 0x10 | .mode => 0x11 | .range => 0x12 | .unknown => 0x13
  | .notYours => 0x14 | .state => 0x15 | .notHeld => 0x16 | .held => 0x17 | .full => 0x18 | .duplicate => 0x19

def ClaimReason.code : ClaimReason → Byte
  | .fenced => 0 | .frozen => 1 | .waitFull => 2 | .cycle => 3

def MapObject.code : MapObject → Byte
  | .block => 0 | .port => 1 | .bay => 2

def MapReason.code : MapReason → Byte
  | .badSuccessor => 0 | .successorCount => 1 | .predecessorCount => 2 | .portMismatch => 3 | .portOrphan => 4
  | .noBayOwner => 5 | .distanceSelf => 6

def RedirectReason.code : RedirectReason → Byte
  | .down => 0 | .reserved => 1

def PickOutcome.code : PickOutcome → Byte
  | .picked => 0 | .sourceEmpty => 1 | .carrierMismatch => 2

def DropFailOutcome.code : DropFailOutcome → Byte
  | .rerouted => 0 | .refused => 1

def Disposition.code : Disposition → Byte
  | .requeued => 0 | .suspended => 1

def OrderKind.code : OrderKind → Byte
  | .assigned => 0 | .picked => 1 | .requeued => 2 | .promoted => 3 | .suspended => 4 | .resumed => 5 | .rerouted => 6
  | .done => 7 | .failed => 8

def OrderCause.code : OrderCause → Byte
  | .declined => 0x00 | .timeout => 0x01 | .mismatch => 0x02 | .stalled => 0x03 | .evicted => 0x04
  | .sourceEmpty => 0x10 | .carrierMismatch => 0x11 | .dropRefused => 0x12 | .vehicleEvicted => 0x13 | .integrity => 0x14

def WithdrawCause.code : WithdrawCause → Byte
  | .timeout => 0 | .cancelled => 1 | .stalled => 2 | .integrity => 3

def RerouteCause.code : RerouteCause → Byte
  | .redirect => 0 | .dropFail => 1

def WaitReason.code : WaitReason → Byte
  | .stalled => 0 | .frozen => 1

def ModeCause.code : ModeCause → Byte
  | .commit => 0 | .reopen => 1 | .halt => 2 | .resume => 3 | .softReset => 4

def IntegrityCause.code : IntegrityCause → Byte
  | .record => 0 | .chain => 1

def Finder.code : Finder → Byte
  | .access => 0 | .scrub => 1

def ErrorKind.code : ErrorKind → Byte
  | .corrected => 0 | .uncorrectable => 1

/-- R177: the table a record lies in, BLOCK, VEHICLE or ORDER. -/
def RecRef.table : RecRef → Byte
  | .block _ => 0 | .vehicle _ => 1 | .order _ => 2

/-- R179: the index in that table, two bytes. -/
def RecRef.index : RecRef → Nat
  | .block b => b.val | .vehicle v => v.val | .order o => o.val

/-- A table and an index (R179). -/
def Enc.record (r : RecRef) : List Byte := [RecRef.table r] ++ num2 (RecRef.index r)

/-- A reservation's slot and kind, each none when absent (R179, R180). -/
def Enc.reservation (r : Option Reservation) : List Byte :=
  opt2 slot (r.map (·.slot)) ++ opt1 (fun k => [ResKind.code k]) (r.map (·.kind))

def Enc.vstate (s : Option VState) : List Byte := opt1 (fun x => [VState.code x]) s

/-! ## Frames -/

/-- One bit of the check's register (R158): polynomial x^16 + x^12 + x^5 + 1. -/
def crcBit (crc : Half) : Half := if crc.msb then (crc <<< 1) ^^^ 0x1021 else crc <<< 1

/-- One byte, most significant bit first (R158). -/
def crcByte (crc : Half) (b : Byte) : Half :=
  crcBit (crcBit (crcBit (crcBit (crcBit (crcBit (crcBit (crcBit (crc ^^^ (b ++ (0 : Byte))))))))))

/-- R158: the check over a length byte and a body, from all ones. -/
def crc (bytes : List Byte) : Half := bytes.foldl crcByte 0xFFFF

/-- R177: lead byte, length byte, body, check. -/
def frame (body : List Byte) : List Byte :=
  let len : Byte := .ofNat 8 body.length
  [0xE7, len] ++ body ++ bytes2 (crc (len :: body))

/-- R180: the kind of a notice and its fields. -/
def Notice.bytes : Notice → List Byte
  | .grant v b holds bid => [0x60, 0] ++ vehicle v ++ block b ++ num holds ++ num bid
  | .waitCancelled v b reason holds => [0x61, 0] ++ vehicle v ++ block b ++ [reason.code] ++ num holds
  | .assign v o srcPort srcBlock destPort destBlock c =>
    [0x62, 0] ++ vehicle v ++ slot o ++ opt1 port srcPort ++ opt2 block srcBlock ++ port destPort
      ++ opt2 block destBlock ++ carrier c
  | .withdraw v o cause => [0x63, 0] ++ vehicle v ++ slot o ++ [cause.code]
  | .reroute v o cause dest destBlock alt =>
    [0x64, 0] ++ vehicle v ++ slot o ++ [cause.code] ++ port dest ++ opt2 block destBlock ++ opt1 port alt
  | .orderState o tag kind cause cls v c dest clock =>
    [0x65, 0] ++ slot o ++ bytes2 tag ++ [kind.code] ++ opt1 (fun x => [OrderCause.code x]) cause ++ [cls.code]
      ++ opt1 vehicle v ++ carrier c ++ port dest ++ bytes4 clock
  | .orderLost o clock => [0x65, 0] ++ slot o ++ [OrderKind.failed.code, OrderCause.integrity.code] ++ bytes4 clock
  | .integrity cause r finder v clock =>
    [0x66, 0, cause.code] ++ record r ++ [finder.code] ++ opt1 vehicle v ++ bytes4 clock
  | .mode previous present cause => [0x67, 0, previous.code, present.code, cause.code]
  | .vehicleState v previous present cause owner position =>
    [0x68, 0] ++ vehicle v ++ [previous.code, present.code] ++ opt1 (fun x => [StallCause.code x]) cause
      ++ opt1 link owner ++ opt2 block position
  | .portState p b down r => [0x69, 0] ++ port p ++ opt2 block b ++ flag down ++ reservation r

/-- R179: reply kind, frame tag, result code, status byte, outcome fields. -/
def Reply.bytes (r : Reply) : List Byte := [r.kind, r.tag, r.code.code, r.status.byte] ++ r.fields

/-- The bytes of the frame on the transmit line (R177). -/
def TxFrame.bytes (t : TxFrame) : List Byte :=
  match t.body with
  | .reply r => frame r.bytes
  | .notice n => frame n.bytes

end Sys2Proof.Machine
end

