-- ==== Sys2Proof/Machine/Ops.lean ====
section
/-! DEFINITION. The named operations on the state: records by number, notices and attention on the links, replies, the
transmitters, the class queues, ports and fences, sequence counters, and the entries to IDLE and LOADED_IDLE. -/

namespace Sys2Proof.Machine

/-! ## Records by number -/

def State.block (s : State) (b : BlockId) : BlockRec := s.blocks[b.val]

def State.setBlock (s : State) (b : BlockId) (r : BlockRec) : State := { s with blocks := s.blocks.set b.val r }

def State.updBlock (s : State) (b : BlockId) (f : BlockRec → BlockRec) : State := s.setBlock b (f (s.block b))

def State.vehicle (s : State) (v : VehicleId) : VehicleRec := s.vehicles[v.val]

def State.setVehicle (s : State) (v : VehicleId) (r : VehicleRec) : State :=
  { s with vehicles := s.vehicles.set v.val r }

def State.updVehicle (s : State) (v : VehicleId) (f : VehicleRec → VehicleRec) : State :=
  s.setVehicle v (f (s.vehicle v))

/-- The order in a slot, none when the slot is free (R86). -/
def State.order (s : State) (o : Slot) : Option OrderRec := s.orders[o.val]

def State.setOrder (s : State) (o : Slot) (r : Option OrderRec) : State := { s with orders := s.orders.set o.val r }

def State.updOrder (s : State) (o : Slot) (f : OrderRec → OrderRec) : State := s.setOrder o ((s.order o).map f)

def State.port (s : State) (p : PortId) : PortRec := s.ports[p.val]

def State.setPort (s : State) (p : PortId) (r : PortRec) : State := { s with ports := s.ports.set p.val r }

def State.bay (s : State) (a : BayId) : BayRec := s.bays[a.val]

def State.setBay (s : State) (a : BayId) (r : BayRec) : State := { s with bays := s.bays.set a.val r }

def State.fence (s : State) (f : FenceId) : Fence := s.fences[f.val]

def State.setFence (s : State) (f : FenceId) (r : Fence) : State := { s with fences := s.fences.set f.val r }

def State.link (s : State) (l : LinkId) : Link := s.links[l.val]

def State.setLink (s : State) (l : LinkId) (k : Link) : State := { s with links := s.links.set l.val k }

def State.updLink (s : State) (l : LinkId) (f : Link → Link) : State := s.setLink l (f (s.link l))

/-- The Map Store's copy of a block's static fields (R1). Router checks and the walks of the rail read this copy
(DEDUCED, log entry 8). -/
def State.static (s : State) (b : BlockId) : BlockStatic := s.map[b.val]

/-- Every vehicle number, ascending. -/
@[irreducible] def allVehicles : List VehicleId := List.finRange 128

/-- Every block number, ascending. -/
@[irreducible] def allBlocks : List BlockId := List.finRange 1024

/-- The live slots, ascending (R86). -/
def State.liveSlots (s : State) : List Slot := (List.finRange 256).filter fun o => (s.order o).isSome

/-- R11: the RUN output pin. -/
def State.runPin (s : State) : Bool := s.mode = .run

def State.setTrigger (s : State) : State := { s with trigger := true }

/-! ## Map facts -/

/-- R1: a block that is part of the rail. -/
def State.used (s : State) (b : BlockId) : Bool := (s.static b).kind ≠ .unused

/-- R62: the link that owns the bay of a block. -/
def State.bayOwner (s : State) (b : BlockId) : Option LinkId := (s.bay (s.static b).bay).owner

/-- R2: a port whose record names a block. -/
def State.placed (s : State) (p : PortId) : Bool := (s.port p).block.isSome

/-- R52: one fence slot covers a block. -/
def Fence.covers (f : Fence) (b : BlockId) : Bool := f.active && f.first ≤ b && b ≤ f.last

/-- R52: at least one active fence slot covers the block. -/
def State.fenced (s : State) (b : BlockId) : Bool := s.fences.toList.any (·.covers b)

/-- R103: a port that is neither DOWN nor reserved. -/
def State.usable (s : State) (p : PortId) : Bool := !(s.port p).down && (s.port p).reservation.isNone

/-! ## Notices and attention -/

/-- R163: a notice enters at the tail, or is discarded with NOTICES_DROPPED when 32 are queued. No kind is routed to a
DISABLED link (R155). -/
def Link.enqueue (n : Notice) (k : Link) : Link :=
  if k.role = .disabled then k
  else if k.queue.length < 32 then { k with queue := k.queue ++ [n] }
  else { k with attention := k.attention.set .noticesDropped }

/-- R173: a cause is set on a link; a DISABLED link's summary stays clear (R155). -/
def Link.attend (c : Cause) (k : Link) : Link :=
  if k.role = .disabled then k else { k with attention := k.attention.set c }

def State.notify (s : State) (l : LinkId) (n : Notice) : State := s.updLink l (Link.enqueue n)

def State.attend (s : State) (l : LinkId) (c : Cause) : State := s.updLink l (Link.attend c)

/-- R176: a notice to an owning link goes nowhere when there is none. -/
def State.notifyOwner (s : State) (owner : Option LinkId) (n : Notice) : State :=
  match owner with
  | some l => s.notify l n
  | none => s

/-- R176: a notice to every link of a kind. -/
def State.notifyWhere (s : State) (p : Link → Bool) (n : Notice) : State :=
  { s with links := s.links.map fun k => if p k then k.enqueue n else k }

/-- R145: INTEGRITY to every SERVICE link, with INTEGRITY attention set there. -/
def State.notifyIntegrity (s : State) (cause : IntegrityCause) (r : RecRef) (f : Finder) (v : Option VehicleId) : State :=
  { s with links := s.links.map fun k =>
      if k.role = .service then (k.enqueue (.integrity cause r f v s.fabClock)).attend .integrity else k }

/-- R12: MODE to every link that is not DISABLED, with MODE_CHANGED attention set there. -/
def State.notifyMode (s : State) (previous : Mode) (cause : ModeCause) : State :=
  { s with links := s.links.map fun k => (k.enqueue (.mode previous s.mode cause)).attend .modeChanged }

/-- R12: a change of mode with its notices. -/
def State.changeMode (s : State) (m : Mode) (cause : ModeCause) : State :=
  { s with mode := m }.notifyMode s.mode cause

/-- The vehicle's position, the first block of its holding list (R20). -/
def VehicleRec.position (r : VehicleRec) : Option BlockId := r.holds.head?

/-- R61: VEHICLE_STATE to every subscribed link, naming the state before the event. -/
def State.noteVehicle (s : State) (v : VehicleId) (previous : VState) : State :=
  let r := s.vehicle v
  s.notifyWhere (·.maskVehicle)
    (.vehicleState v previous r.state (if r.state = .stalled then r.cause else none) r.owner r.position)

/-- R61: VEHICLE_STATE when the event changed the vehicle's state or owning link. -/
def State.noteVehicleIfChanged (s : State) (v : VehicleId) (before : VehicleRec) : State :=
  if (s.vehicle v).state ≠ before.state ∨ (s.vehicle v).owner ≠ before.owner then s.noteVehicle v before.state else s

/-- R86: the destination in use. -/
def OrderRec.destInUse (r : OrderRec) : PortId := if r.altInUse then r.alt.getD r.dest else r.dest

/-- R106: ORDER_STATE to the order's origin, with the order's fields as they are in `r`. -/
def State.noteOrder (s : State) (o : Slot) (r : OrderRec) (kind : OrderKind) (cause : Option OrderCause) : State :=
  s.notify r.origin (.orderState o r.tag kind cause r.cls r.vehicle r.carrier r.destInUse s.fabClock)

/-! ## Replies and transmitters -/

/-- What a request answers: its result code and outcome fields (R167). -/
structure Answer where
  code   : ResultCode
  fields : List Byte
  deriving DecidableEq, Repr

/-- A reply with no outcome field, as most refusals have (R167, R179). -/
def Answer.plain (c : ResultCode) : Answer := ⟨c, []⟩

/-- R161, R167: the reply stands in the request slot, its status byte the attention summary as it is now (R173). -/
def State.placeReply (s : State) (l : LinkId) (kind tag : Byte) (a : Answer) : State :=
  s.updLink l fun k => { k with slot := some ⟨⟨kind, tag, a.code, k.attention, a.fields⟩, false⟩ }

/-- R162: an idle transmitter begins a reply not yet begun, else the oldest notice. -/
def Link.choose (k : Link) : Link :=
  if k.role = .disabled then k
  else if k.tx.isSome then k
  else
    match k.slot, k.queue with
    | some ⟨r, false⟩, _ => { k with slot := some ⟨r, true⟩, tx := some ⟨.reply r, k.rate⟩ }
    | _, n :: rest => { k with queue := rest, tx := some ⟨.notice n, k.rate⟩ }
    | _, [] => k

/-- R162: transmitters choose at the end of an event, never within one. -/
def State.endEvent (s : State) : State := { s with links := s.links.map Link.choose }

/-! ## Class queues (R89) -/

def Queues.get (q : Queues) : Cls → List Slot
  | .hot => q.hot
  | .express => q.express
  | .standard => q.standard
  | .bulk => q.bulk

def Queues.set (q : Queues) (c : Cls) (os : List Slot) : Queues :=
  match c with
  | .hot => { q with hot := os }
  | .express => { q with express := os }
  | .standard => { q with standard := os }
  | .bulk => { q with bulk := os }

/-- The slot leaves whichever queue holds it; the entries after it close up. -/
def Queues.remove (q : Queues) (o : Slot) : Queues :=
  ⟨q.hot.filter (· ≠ o), q.express.filter (· ≠ o), q.standard.filter (· ≠ o), q.bulk.filter (· ≠ o)⟩

/-- The submit sequence of the order in a slot. -/
def State.submitSeqOf (s : State) (o : Slot) : Word :=
  match s.order o with
  | some r => r.submitSeq
  | none => 0

/-- R89: after every entry with a lower sequence, before every entry with a higher one. -/
def insertBySeq (seq : Slot → Word) (o : Slot) : List Slot → List Slot
  | [] => [o]
  | x :: xs => if seq o < seq x then o :: x :: xs else x :: insertBySeq seq o xs

/-- The order in the slot joins the queue of its present class. -/
def State.enterQueue (s : State) (o : Slot) : State :=
  match s.order o with
  | some r => { s with queues := s.queues.set r.cls (insertBySeq s.submitSeqOf o (s.queues.get r.cls)) }
  | none => s

def State.leaveQueue (s : State) (o : Slot) : State := { s with queues := s.queues.remove o }

/-- R111: the slots in the order the Dispatch Engine scans them. -/
def Queues.scanOrder (q : Queues) : List Slot := q.hot ++ q.express ++ q.standard ++ q.bulk

/-! ## Port reservations (R103, R104) -/

def State.reserve (s : State) (p : PortId) (o : Slot) (k : ResKind) : State :=
  s.setPort p { s.port p with reservation := some ⟨o, k⟩ }

/-- The same for a port that an order may not have. -/
def State.reserve? (s : State) (o : Slot) (k : ResKind) : Option PortId → State
  | some p => s.reserve p o k
  | none => s

/-- R104: a release by the order that holds the reservation; the trigger is set when the port becomes usable. -/
def State.releasePort (s : State) (o : Slot) (p : PortId) : State :=
  match (s.port p).reservation with
  | some r =>
    if r.slot = o then
      let s' := s.setPort p { s.port p with reservation := none }
      if (s.port p).down then s' else s'.setTrigger
    else s
  | none => s

/-- R104: the same for a port that an order may not have. -/
def State.releasePort? (s : State) (o : Slot) : Option PortId → State
  | some p => s.releasePort o p
  | none => s

def PortRec.names (r : PortRec) (o : Slot) : Bool :=
  match r.reservation with
  | some x => x.slot = o
  | none => false

/-- R100, R141: every reservation naming the slot is released. -/
def State.releaseAllPorts (s : State) (o : Slot) : State :=
  { s with
    ports := s.ports.map fun r => if r.names o then { r with reservation := none } else r
    trigger := s.trigger || s.ports.toList.any fun r => r.names o && !r.down }

/-! ## Checked reads, as the operations below are given them -/

/-- A checked read of a record: the state after it, and whether the record was found uncorrectable (R132). -/
abbrev Reader := RecRef → State → State × Bool

/-- Read records one after another; true when any was found uncorrectable. -/
def readAll (rd : Reader) : List RecRef → State → State × Bool
  | [], s => (s, false)
  | r :: rs, s =>
    let (s1, bad) := rd r s
    let (s2, more) := readAll rd rs s1
    (s2, bad || more)

/-- Read records one after another up to the first found uncorrectable. -/
def readUntilBad (rd : Reader) : List RecRef → State → State × Bool
  | [], s => (s, false)
  | r :: rs, s =>
    let (s1, bad) := rd r s
    if bad then (s1, true) else readUntilBad rd rs s1

def vehicleRefs : List RecRef := allVehicles.map .vehicle

def State.orderRefs (s : State) : List RecRef := s.liveSlots.map .order

/-! ## Sequence counters (R153, R154) -/

/-- R154: the place of a value among the values still compared, from 1. -/
def rank (values : List Word) (x : Word) : Word := .ofNat 32 ((values.filter (· < x)).length + 1)

def counterTop : Word := 0xFFFFFFFF

def State.idleValues (s : State) : List Word :=
  (s.vehicles.toList.filter fun r => r.state = .idle).map (·.idleSeq)

/-- R154, idle sequence: the sequences of IDLE vehicles are renumbered, every other becomes 0. True when a record read was
found uncorrectable (log entry 36). -/
def State.renumberIdle (rd : Reader) (s : State) : State × Bool :=
  let (s, bad) := readAll rd vehicleRefs s
  let values := s.idleValues
  ({ s with
    vehicles := s.vehicles.map fun r => { r with idleSeq := if r.state = .idle then rank values r.idleSeq else 0 }
    idleSeq := .ofNat 32 values.length }, bad)

def State.submitValues (s : State) : List Word := (s.orders.toList.filterMap id).map (·.submitSeq)

/-- R154, submit sequence: the sequences of all live orders are renumbered. A damaged order is freed and the submission goes
on without it (R107). -/
def State.renumberSubmit (rd : Reader) (s : State) : State :=
  let s := (readAll rd s.orderRefs s).1
  let values := s.submitValues
  { s with
    orders := s.orders.map fun x => x.map fun r => { r with submitSeq := rank values r.submitSeq }
    submitSeq := .ofNat 32 values.length }

def State.waiterValues (s : State) : List Word := (s.blocks.toList.flatMap (·.waiters)).map (·.seq)

/-- R154, waiter sequence: the sequences of all waiter entries are renumbered. The blocks with an entry are read in ascending
number (log entry 31). True when a record read was found uncorrectable (log entry 36). -/
def State.renumberWaiters (rd : Reader) (s : State) : State × Bool :=
  let refs := (allBlocks.filter fun b => !(s.block b).waiters.isEmpty).map RecRef.block
  let (s, bad) := readAll rd refs s
  let values := s.waiterValues
  ({ s with
    blocks := s.blocks.map fun r => { r with waiters := r.waiters.map fun w => { w with seq := rank values w.seq } }
    waiterSeq := .ofNat 32 values.length }, bad)

/-- R153: incremented before use, renumbered at its top. True when the renumbering met a damaged record. -/
def State.nextIdleSeq (rd : Reader) (s : State) : State × Word × Bool :=
  let (s, bad) := if s.idleSeq = counterTop then s.renumberIdle rd else (s, false)
  ({ s with idleSeq := s.idleSeq + 1 }, s.idleSeq + 1, bad)

def State.nextSubmitSeq (rd : Reader) (s : State) : State × Word :=
  let s := if s.submitSeq = counterTop then s.renumberSubmit rd else s
  ({ s with submitSeq := s.submitSeq + 1 }, s.submitSeq + 1)

/-- R154: the waiter sequence counter made ready for the next entry. True when the renumbering met a damaged record. -/
def State.readyWaiterSeq (rd : Reader) (s : State) : State × Bool :=
  if s.waiterSeq = counterTop then s.renumberWaiters rd else (s, false)

/-! ## Entries to IDLE and LOADED_IDLE -/

/-- R59: into IDLE with a new idle sequence and the trigger set, or into WITHDRAWN when drain-pending is set. True when the
renumbering of R154 met a damaged record, which makes a request's code INTEGRITY (R168, log entry 36). -/
def State.enterIdle (rd : Reader) (s : State) (v : VehicleId) : State × Bool :=
  if (s.vehicle v).drain then
    (s.updVehicle v fun r => { r with state := .withdrawn, drain := false, order := none, carrier := .none }, false)
  else
    let (s, n, bad) := s.nextIdleSeq rd
    ((s.updVehicle v fun r => { r with state := .idle, idleSeq := n, order := none, carrier := .none }).setTrigger, bad)

/-- R60: into LOADED_IDLE with the carrier the event records, the trigger set, drain-pending kept. -/
def State.enterLoadedIdle (s : State) (v : VehicleId) (c : Carrier) : State :=
  (s.updVehicle v fun r => { r with state := .loadedIdle, order := none, carrier := c }).setTrigger

/-! ## Countdowns -/

/-- A countdown started at a setting of units of 100 ms (R147). -/
def units (b : Byte) : Nat := b.toNat * 100

/-- R68: the silence countdown restarts at the limit when the vehicle is in service and not STALLED; none starts while the
limit is 0. -/
def State.restartSilence (s : State) (v : VehicleId) : State :=
  if s.timing.silence = 0 then s
  else s.updVehicle v fun r =>
    if r.state = .offline ∨ r.state = .stalled then r else { r with silence := some (units s.timing.silence) }

end Sys2Proof.Machine
end

