-- ==== Sys2Proof/Machine/Book.lean ====
section
/-! DEFINITION. The mechanisms of the order book used by several events: promotion (R101), requeue (R98), suspension (R99),
freeing (R100), binding (R92). -/

namespace Sys2Proof.Machine

/-- R101: the promotion time of a class in seconds; HOT has none. -/
def promoTime (t : Timing) : Cls → Nat
  | .hot => 0
  | .express => t.promoExpress.toNat
  | .standard => t.promoStandard.toNat
  | .bulk => t.promoBulk.toNat

/-- R101: the next class up. -/
def Cls.up : Cls → Cls
  | .hot => .hot
  | .express => .hot
  | .standard => .express
  | .bulk => .standard

/-- R101: the time since class entry. -/
def State.inClass (s : State) (r : OrderRec) : Nat := (s.msBase - r.classEntry).toNat

/-- R101: a QUEUED order whose time in its class reaches the promotion time of the class, that time not being 0. -/
def State.promotionDue (s : State) (r : OrderRec) : Bool :=
  r.state = .queued && promoTime s.timing r.cls ≠ 0 && promoTime s.timing r.cls * 1000 ≤ s.inClass r

/-- R101: one class up, with a new class entry time, by submit sequence into the new queue. -/
def State.promote (s : State) (o : Slot) : State :=
  match s.order o with
  | none => s
  | some r =>
    let r' := { r with cls := r.cls.up, classEntry := s.msBase }
    ((((s.leaveQueue o).setOrder o (some r')).enterQueue o).noteOrder o r' .promoted none).setTrigger

/-- R98: the record of an order put back to the book on account of a vehicle, which becomes declined-by of an unbound
order. -/
def OrderRec.requeued (v : VehicleId) (r : OrderRec) : OrderRec :=
  { r with
    altInUse := false, vehicle := none, state := .queued, suspended := false
    declinedBy := if r.bound.isNone then some v else r.declinedBy }

/-- R98: back to the book. `v` is the vehicle concerned. A requeued order whose waiting time already reaches its promotion time is promoted straight after (R98, R101). -/
def State.requeue (s : State) (o : Slot) (v : VehicleId) (cause : OrderCause) : State :=
  match s.order o with
  | none => s
  | some r =>
    let s := (s.releasePort? o r.source).releasePort o r.destInUse
    let r' := r.requeued v
    let s := (((s.setOrder o (some r')).enterQueue o).noteOrder o r' .requeued (some cause)).setTrigger
    if s.promotionDue r' then s.promote o else s

/-- R99: a CARRYING order is suspended. -/
def State.suspend (s : State) (o : Slot) : State :=
  match s.order o with
  | none => s
  | some r =>
    let r' := { r with suspended := true }
    (s.setOrder o (some r')).noteOrder o r' .suspended none

/-- R99: a suspended order is un-suspended. -/
def State.unsuspend (s : State) (o : Slot) : State :=
  match s.order o with
  | none => s
  | some r =>
    let r' := { r with suspended := false }
    (s.setOrder o (some r')).noteOrder o r' .resumed none

/-- R100: the order leaves its queue, every reservation naming its slot is released, the slot becomes free. -/
def State.freeOrder (s : State) (o : Slot) : State := ((s.leaveQueue o).releaseAllPorts o).setOrder o none

/-- R100, R106: an order ends with an ORDER_STATE that carries its fields as they stood (log entry 28). -/
def State.endOrder (s : State) (o : Slot) (kind : OrderKind) (cause : Option OrderCause) : State :=
  match s.order o with
  | none => s
  | some r => (s.noteOrder o r kind cause).freeOrder o

/-- R92: the QUEUED order that names a carrier. -/
def State.queuedNaming (s : State) (c : Carrier) : Option Slot :=
  s.liveSlots.find? fun o =>
    match s.order o with
    | some r => r.state = .queued && r.carrier = c
    | none => false

/-- R92: the order is bound to the vehicle and its source dropped; declined-by is kept (log entry 17). -/
def State.bind (s : State) (o : Slot) (v : VehicleId) : State :=
  s.updOrder o fun r => { r with source := none, bound := some v }

/-- R66, R125: the QUEUED order that names the recorded carrier, when it is an id, is bound to the vehicle. -/
def State.bindCarrier (s : State) (v : VehicleId) (c : Carrier) : State × Option Slot :=
  match c with
  | .id _ =>
    match s.queuedNaming c with
    | some o => (s.bind o v, some o)
    | none => (s, none)
  | _ => (s, none)

/-- A live order that is not QUEUED names the carrier (R65, R125). -/
def State.workedNaming (s : State) (c : Carrier) : Bool :=
  s.liveSlots.any fun o =>
    match s.order o with
    | some r => r.state ≠ .queued && r.carrier = c
    | none => false

/-- A live order names the carrier (R90). -/
def State.liveNaming (s : State) (c : Carrier) : Bool :=
  s.liveSlots.any fun o =>
    match s.order o with
    | some r => r.carrier = c
    | none => false

/-- The vehicle that carries a carrier id (R88: at most one). -/
def State.vehicleCarrying (s : State) (c : Carrier) : Option VehicleId :=
  allVehicles.find? fun v => (s.vehicle v).carrier = c

/-- A vehicle other than `v` carries the carrier (R65, R125). -/
def State.otherCarrying (s : State) (v : VehicleId) (c : Carrier) : Bool :=
  allVehicles.any fun w => w ≠ v && (s.vehicle w).carrier = c

/-- The block of a port (R2). -/
def State.portBlock (s : State) (p : PortId) : Option BlockId := (s.port p).block

/-- The block of an optional port. -/
def State.portBlock? (s : State) (p : Option PortId) : Option BlockId := p.bind s.portBlock

/-- R129: REROUTE to the owning link of the order's vehicle. -/
def State.noteReroute (s : State) (v : VehicleId) (o : Slot) (cause : RerouteCause) (dest : PortId)
    (alt : Option PortId) : State :=
  s.notifyOwner (s.vehicle v).owner (.reroute v o cause dest (s.portBlock dest) alt)

/-- R129: WITHDRAW to the vehicle's owning link. -/
def State.noteWithdraw (s : State) (v : VehicleId) (o : Slot) (cause : WithdrawCause) : State :=
  s.notifyOwner (s.vehicle v).owner (.withdraw v o cause)

end Sys2Proof.Machine
end

