-- ==== Sys2Proof/Machine/Integrity.lean ====
section
/-! DEFINITION. The Integrity Monitor: checked reads (R132 to R135), the repair of each table (R137 to R141) and their
cascades (R142).

A repair reads other records, and each of those reads is checked and may repair in turn. The repairs are therefore written
over a `Reader` for the records they read, and `checkedRead` ties the knot on a bound of nested repairs: every repair first
writes its own record afresh, so a cascade nests at most once for each record. -/

namespace Sys2Proof.Machine

/-! ## What a read finds (R132) -/

/-- R132: no flipped bit is clean, one is corrected, two are detected; of three or more the spec says nothing (log entry 9). -/
def checkBlock (r : BlockRec) : ReadCheck BlockRec :=
  match r.flips.length with
  | 0 => .clean r
  | 1 => .correctable r
  | 2 => .uncorrectable
  | _ => Config.manyFlipsBlock r

def checkVehicle (r : VehicleRec) : ReadCheck VehicleRec :=
  match r.flips.length with
  | 0 => .clean r
  | 1 => .correctable r
  | 2 => .uncorrectable
  | _ => Config.manyFlipsVehicle r

def checkOrder (r : OrderRec) : ReadCheck OrderRec :=
  match r.flips.length with
  | 0 => .clean r
  | 1 => .correctable r
  | 2 => .uncorrectable
  | _ => Config.manyFlipsOrder r

/-! ## The capture record (R135) -/

/-- R133, R134: the capture record is filled when empty, else its more-errors flag is set. -/
def State.captureError (s : State) (r : RecRef) (k : ErrorKind) (f : Finder) : State :=
  match s.capture with
  | none => { s with capture := some ⟨r, k, f, s.fabClock, false⟩ }
  | some c => { s with capture := some { c with more := true } }

/-- R133: the correction count rises by 1, stopping at 255, and the capture record is filled. -/
def State.countCorrection (s : State) (r : RecRef) (f : Finder) : State :=
  { s with corrections := min 255 (s.corrections + 1) }.captureError r .corrected f

/-! ## Freezing a block -/

/-- R37, R137: the waiting-on field of one vehicle that names the block is cleared, with WAIT_CANCELLED, reason FROZEN. -/
def State.dropWaitAt (s : State) (b : BlockId) (v : VehicleId) : State :=
  let r := s.vehicle v
  if r.waitingOn = some b then
    (s.setVehicle v { r with waitingOn := none }).notifyOwner r.owner (.waitCancelled v b .frozen r.holds.length)
  else s

/-- R37, R137: the waits of the vehicles at the block end, in the order given, each vehicle read and checked. Each wait ends
as its vehicle is read, before the next is read (log entry 46). -/
def State.dropWaits (rd : Reader) (b : BlockId) : List VehicleId → State → State
  | [], s => s
  | v :: vs, s => State.dropWaits rd b vs ((rd (.vehicle v) s).1.dropWaitAt b v)

/-- R37: the block becomes FROZEN with holder unknown and no waiters, and the waits of these vehicles at it end. -/
def State.freeze (rd : Reader) (s : State) (b : BlockId) (vs : List VehicleId) : State :=
  (s.updBlock b fun r => { r with holder := .unknown, frozen := true, waiters := [] }).dropWaits rd b vs

/-- R137: the static part comes back from the Map Store's copy, the dynamic part is lost. All vehicles are searched for the
block in their waiting-on, in ascending number, since the list they stood in is lost. -/
def State.repairBlock (rd : Reader) (s : State) (b : BlockId) : State :=
  (s.updBlock b fun r => { r with fixed := s.static b, flips := [] }).freeze rd b allVehicles

/-! ## Rebuilding a vehicle -/

/-- R138: the record a rebuild starts from: STALLED, cause INTEGRITY, everything else lost. -/
def VehicleRec.lost : VehicleRec := { VehicleRec.reset with state := .stalled, cause := some .integrity, carrier := .unknown }

def Waiter.isOf (v : VehicleId) (w : Waiter) : Bool := w.vehicle = v

/-- The vehicle's entry leaves a block's waiter list; the others close up (R22). -/
def State.removeEntry (s : State) (b : BlockId) (v : VehicleId) : State :=
  s.updBlock b fun r => { r with waiters := r.waiters.filter fun w => !w.isOf v }

/-- R139, R140 step 1: one block of the pass. The accumulators are the blocks found, last first, and the block at which an
entry of the vehicle was found. -/
def State.passBlock (rd : Reader) (v : VehicleId) (b : BlockId)
    (acc : State × List BlockId × Option BlockId) : State × List BlockId × Option BlockId :=
  let (s, found, wait) := acc
  let s := (rd (.block b) s).1
  let r := s.block b
  let (s, wait) := if r.waiters.any (·.isOf v) then (s.removeEntry b v, some b) else (s, wait)
  (s, if r.holder = .vehicle v then b :: found else found, wait)

/-- R139: the pass over the block records. -/
def State.pass (rd : Reader) (v : VehicleId) :
    List BlockId → State × List BlockId × Option BlockId → State × List BlockId × Option BlockId
  | [], acc => acc
  | b :: bs, acc => State.pass rd v bs (State.passBlock rd v b acc)

/-- R139: from a block, take each time the one successor that is a found block; none when there are two. The walk ends at
a block with no found successor, or at a block it has been at. `walked` is last first. -/
def walkChain (succs : BlockId → List BlockId) (found : List BlockId) : Nat → BlockId → List BlockId → Option (List BlockId)
  | 0, _, walked => some walked
  | n + 1, b, walked =>
    match found.filter fun x => (succs b).contains x with
    | [] => some walked
    | [x] => if walked.contains x then some walked else walkChain succs found n x (x :: walked)
    | _ => none

/-- R139: the found blocks as one chain, rear to front; none when they do not form one. -/
def oneChain (succs : BlockId → List BlockId) (found : List BlockId) : Option (List BlockId) :=
  match found.filter fun x => !(found.any fun y => (succs y).contains x) with
  | [start] =>
    match walkChain succs found found.length start [start] with
    | some walked => if walked.length = found.length then some walked.reverse else none
    | none => none
  | _ => none

/-- R37: the vehicles of the block's waiter list, head first. -/
def BlockRec.waiting (r : BlockRec) : List VehicleId := r.waiters.map (·.vehicle)

/-- R139: each block of a broken chain, ascending, is frozen, its waiters removed head first by R37, since the list they
stand in is not lost (log entry 39), and told with an INTEGRITY notice of cause CHAIN. One block is done whole, the reads of
its waiters and any repair within them included, before the next (log entry 38). -/
def State.freezeChain (rd : Reader) (f : Finder) (v : VehicleId) : List BlockId → State → State
  | [], s => s
  | b :: bs, s => State.freezeChain rd f v bs ((s.freeze rd b (s.block b).waiting).notifyIntegrity .chain (.block b) f (some v))

/-- R139: the holding list and, from it, the owning link (R138). -/
def State.rebuildHolds (rd : Reader) (f : Finder) (s : State) (v : VehicleId) (found : List BlockId) : State :=
  match found with
  | [] => s
  | _ =>
    match oneChain (fun b => (s.static b).succs) found with
    | some chain => s.updVehicle v fun r => { r with holds := chain, owner := chain.head?.bind s.bayOwner }
    | none => s.freezeChain rd f v found

/-- R140 step 2: the live order whose vehicle field names the vehicle. -/
def State.orderOf (s : State) (v : VehicleId) : Option Slot :=
  s.liveSlots.find? fun o =>
    match s.order o with
    | some r => r.vehicle = some v
    | none => false

/-- R82, R140 step 3: the QUEUED order bound to the vehicle. -/
def State.queuedBoundTo (s : State) (v : VehicleId) : Option Slot :=
  s.liveSlots.find? fun o =>
    match s.order o with
    | some r => r.state = .queued && r.bound = some v
    | none => false

/-- R140 step 3: the carrier, from the order the binding search found and from the QUEUED order bound to the vehicle. -/
def State.rebuiltCarrier (s : State) (v : VehicleId) (working : Option OrderRec) : Carrier :=
  let queued := ((s.queuedBoundTo v).bind s.order).map (·.carrier)
  match working with
  | some r =>
    if r.state = .carrying then r.carrier
    else if r.state = .offered ∧ r.bound = some v then r.carrier
    else queued.getD .none
  | none => queued.getD .unknown

/-- R74, R140 steps 2 and 3: the order binding and the carrier. -/
def State.rebuildOrder (s : State) (v : VehicleId) : State :=
  match s.orderOf v with
  | none => s.updVehicle v fun r => { r with carrier := s.rebuiltCarrier v none }
  | some o =>
    let c := s.rebuiltCarrier v (s.order o)
    if (s.order o).any (·.state = .carrying) then
      (s.updVehicle v fun r => { r with carrier := c, order := some o, saved := some .toDest }).suspend o
    else
      ((s.updVehicle v fun r => { r with carrier := c }).requeue o v .stalled).noteWithdraw v o .stalled

/-- R138 to R140: a lost vehicle record, rebuilt from the other tables; in SETUP it becomes OFFLINE. The live orders are all
read before the one found is dealt with (log entry 46). -/
def State.repairVehicle (rd : Reader) (f : Finder) (s : State) (v : VehicleId) : State :=
  if s.mode = .setup then s.setVehicle v .reset
  else
    let s := s.setVehicle v .lost
    let (s, found, wait) := State.pass rd v allBlocks (s, [], none)
    let s := s.rebuildHolds rd f v found.reverse
    let s := match wait with
      | some b =>
        s.notifyOwner (s.vehicle v).owner (.waitCancelled v b .stalled (s.vehicle v).holds.length)
      | none => s
    let s := (readAll rd s.orderRefs s).1
    (s.rebuildOrder v).noteVehicle v .stalled

/-! ## Repairing an order -/

/-- R141 step 4: the vehicle whose order field names the slot, in the state it was in. -/
def State.releaseVehicleOf (rd : Reader) (o : Slot) (v : VehicleId) (s : State) : State :=
  let r := s.vehicle v
  if r.order = some o then
    let s := (s.setVehicle v { r with order := none, offer := none }).noteWithdraw v o .integrity
    match r.state with
    | .offered =>
      (if r.carrier = .none then (s.enterIdle rd v).1 else s.enterLoadedIdle v r.carrier).noteVehicle v r.state
    | .toSource => (s.enterIdle rd v).1.noteVehicle v r.state
    | .toDest => (s.enterLoadedIdle v r.carrier).noteVehicle v r.state
    | .stalled =>
      if r.saved = some .toDest then s.updVehicle v fun r => { r with saved := some .loadedIdle } else s
    | _ => s
  else s

/-- R141 step 4: the vehicle records in ascending number, each read and checked. The vehicle found moves at once, and the
records after it are still read; R141 says neither, and it is the model's choice (log entry 46). -/
def State.releaseVehiclesOf (rd : Reader) (o : Slot) : List VehicleId → State → State
  | [], s => s
  | v :: vs, s => State.releaseVehiclesOf rd o vs (State.releaseVehicleOf rd o v (rd (.vehicle v) s).1)

/-- R141: a lost order frees what it held. -/
def State.repairOrder (rd : Reader) (s : State) (o : Slot) : State :=
  let s := s.freeOrder o
  let s := s.notifyWhere (·.role = .scheduler) (.orderLost o s.fabClock)
  State.releaseVehiclesOf rd o allVehicles s

/-! ## Checked reads (R132 to R134, R142) -/

/-- R134: the capture record, the INTEGRITY notice, then the repair of the record's table. -/
def State.repair (rd : Reader) (f : Finder) (s : State) (r : RecRef) : State :=
  let s := (s.captureError r .uncorrectable f).notifyIntegrity .record r f none
  match r with
  | .block b => s.repairBlock rd b
  | .vehicle v => s.repairVehicle rd f v
  | .order o => s.repairOrder rd o

/-- A checked read of one record, with `rd` for the reads of its repair: what the check finds, and what the record and the
state then are. A record that reads clean is left as it is; one corrected is written back with a new check word. -/
def State.readWith (rd : Reader) (f : Finder) (r : RecRef) (s : State) : State × Bool :=
  match r with
  | .block b =>
    if (s.block b).flips = [] then (s, false)
    else match checkBlock (s.block b) with
      | .clean x => (s.setBlock b { x with flips := [] }, false)
      | .correctable x => ((s.setBlock b { x with flips := [] }).countCorrection r f, false)
      | .uncorrectable => (s.repair rd f r, true)
  | .vehicle v =>
    if (s.vehicle v).flips = [] then (s, false)
    else match checkVehicle (s.vehicle v) with
      | .clean x => (s.setVehicle v { x with flips := [] }, false)
      | .correctable x => ((s.setVehicle v { x with flips := [] }).countCorrection r f, false)
      | .uncorrectable => (s.repair rd f r, true)
  | .order o =>
    match s.order o with
    | none => (s, false)
    | some x =>
      if x.flips = [] then (s, false)
      else match checkOrder x with
        | .clean y => (s.setOrder o (some { y with flips := [] }), false)
        | .correctable y => ((s.setOrder o (some { y with flips := [] })).countCorrection r f, false)
        | .uncorrectable => (s.repair rd f r, true)

/-- Checked reads nested to a depth. At depth 0 nothing is read; `cascadeDepth` is more than the records there are, and
each nested repair is of a record that the outer ones have not written, so depth 0 is never reached (R142). -/
def readNested : Nat → Finder → Reader
  | 0, _ => fun _ s => (s, false)
  | n + 1, f => fun r s => s.readWith (readNested n .access) f r

/-- One more than the 1024 blocks, 128 vehicles and 256 slots. -/
def cascadeDepth : Nat := 1409

/-- A checked read by a scrub step (R133). -/
def scrubRead : Reader := readNested cascadeDepth .scrub

/-- A checked read by anything else (R133: finder ACCESS). -/
def read : Reader := readNested cascadeDepth .access

end Sys2Proof.Machine
end

