-- ==== Sys2Proof/Machine/Track.lean ====
section
/-! DEFINITION. Track: grants, arbiters and bids (R43 to R48, R55), releases (R31, R41), waits (R21, R35) and the wait
cycle (R29). -/

namespace Sys2Proof.Machine

/-- Read a block record, checked; true when it was found uncorrectable. -/
def State.readBlock (s : State) (b : BlockId) : State × Bool := read (.block b) s

/-- Read a vehicle record, checked; true when it was found uncorrectable. -/
def State.readVehicle (s : State) (v : VehicleId) : State × Bool := read (.vehicle v) s

/-- Read an order record, checked; true when it was found uncorrectable. -/
def State.readOrder (s : State) (o : Slot) : State × Bool := read (.order o) s

/-- R23, R31: the holder becomes the vehicle and the block joins the front of its holding list, in one step (R19). -/
def State.grant (s : State) (b : BlockId) (v : VehicleId) : State :=
  (s.updBlock b fun r => { r with holder := .vehicle v }).updVehicle v fun r => { r with holds := r.holds ++ [b] }

/-! ## The arbiter -/

/-- R45: the weight of a class. -/
def classWeight (w : Weights) : Cls → Nat
  | .hot => w.hot.toNat
  | .express => w.express.toNat
  | .standard => w.standard.toNat
  | .bulk => w.bulk.toNat

/-- R45: the weight of a waiting vehicle, from the order its order field names, else the NONE weight. -/
def State.weightOf (s : State) (v : VehicleId) : Nat :=
  match (s.vehicle v).order.bind s.order with
  | some r => classWeight s.weights r.cls
  | none => s.weights.none.toNat

/-- R44: the whole aging steps since the entry time, at most 55. -/
def State.ageOf (s : State) (w : Waiter) : Nat := min 55 ((s.msBase - w.entry).toNat / units s.timing.aging)

/-- R44: weight plus age. -/
def State.bid (s : State) (w : Waiter) : Nat := s.weightOf w.vehicle + s.ageOf w

/-- R46: the better of two entries: the higher bid, then the lower waiter sequence. -/
def State.better (s : State) (a b : Waiter) : Waiter :=
  if s.bid a > s.bid b then a
  else if s.bid b > s.bid a then b
  else if b.seq < a.seq then b
  else a

/-- R46: the entry an arbiter chooses. -/
def State.winner (s : State) : List Waiter → Option Waiter
  | [] => none
  | w :: ws => some (ws.foldl s.better w)

/-- R55: the records of a waiting vehicle and of the order it works are read, checked; true when one was found
uncorrectable. R55 says what becomes of the arbitration; what becomes of the request around it is log entry 36. -/
def State.readWaiter (s : State) (v : VehicleId) : State × Bool :=
  let (s, badVehicle) := s.readVehicle v
  match (s.vehicle v).order with
  | some o =>
    let (s, badOrder) := s.readOrder o
    (s, badVehicle || badOrder)
  | none => (s, badVehicle)

/-- R55: the waiters of the list as it stands when the arbiter runs, head first, each vehicle's record and then that of its
order. The spec gives these reads no order; it is the model's choice (log entry 45). -/
def State.readWaiters : List Waiter → State → State × Bool
  | [], s => (s, false)
  | w :: ws, s =>
    let (s1, bad) := s.readWaiter w.vehicle
    let (s2, more) := State.readWaiters ws s1
    (s2, bad || more)

/-- R43: the block has no holder, is not FROZEN and has a waiter. -/
def BlockRec.contested (r : BlockRec) : Bool := r.holder = .none && !r.frozen && !r.waiters.isEmpty

/-- R46, R47: the winner's entry leaves the list, its wait ends, it is granted the block and its owning link is told. -/
def State.award (s : State) (b : BlockId) (w : Waiter) : State :=
  let bid := s.bid w
  let s := ((s.removeEntry b w.vehicle).updVehicle w.vehicle fun r => { r with waitingOn := none }).grant b w.vehicle
  let r := s.vehicle w.vehicle
  s.notifyOwner r.owner (.grant w.vehicle b r.holds.length bid)

/-- R43: the arbiter of a block is asked to run. The mode and the fences are looked at first, then the block record is read;
the winner is chosen after every waiter has been read, among the entries the repairs have left (R55). True when a record
was found uncorrectable. -/
def State.arbitrate (s : State) (b : BlockId) : State × Bool :=
  if s.mode = .halted ∨ s.fenced b then (s, false)
  else
    let (s, bad) := s.readBlock b
    if bad ∨ !(s.block b).contested then (s, bad)
    else
      let (s, bad) := State.readWaiters (s.block b).waiters s
      if (s.block b).contested then
        match s.winner (s.block b).waiters with
        | some w => (s.award b w, bad)
        | none => (s, bad)
      else (s, bad)

/-- R43, R55: the arbiter asked by SET_FENCE, CLEAR_FENCE, RESUME or THAW, whose reply no damage changes. -/
def State.askArbiter (s : State) (b : BlockId) : State := (s.arbitrate b).1

/-- R48: arbiters asked one after another. -/
def State.askArbiters (s : State) (bs : List BlockId) : State := bs.foldl State.askArbiter s

/-! ## Releases -/

/-- R31: one block, whose record has been read, leaves the vehicle's holding list. A FROZEN block is not touched; another
becomes free and is offered to its arbiter. True when the arbiter met a damaged record of a waiter: neither R41 nor R55 says
what the releasing request then answers; by R168 it is completed with code INTEGRITY (log entry 36). -/
def State.release (s : State) (v : VehicleId) (b : BlockId) : State × Bool :=
  let s' := s.updVehicle v fun r => { r with holds := r.holds.filter (· ≠ b) }
  if (s.block b).frozen then (s', false)
  else (s'.updBlock b fun r => { r with holder := .none }).arbitrate b

/-- R41: what a run of releases did: how many blocks left the list, the first block found damaged, and whether any record,
of a block or of a waiter, was found damaged (R168). -/
structure Released where
  count   : Nat
  damaged : Option BlockId
  bad     : Bool
  deriving DecidableEq, Repr

/-- R31, R41: POSITION, RELEASE_AHEAD and RECOVER: one at a time, stopping at a block found damaged. -/
def State.releaseUntil (s : State) (v : VehicleId) : List BlockId → State × Released
  | [] => (s, ⟨0, none, false⟩)
  | b :: bs =>
    let (s1, badBlock) := s.readBlock b
    if badBlock then (s1, ⟨0, some b, true⟩)
    else
      let (s2, bad) := s1.release v b
      let (s3, r) := State.releaseUntil s2 v bs
      (s3, ⟨r.count + 1, r.damaged, bad || r.bad⟩)

/-- R31, R41: LEAVE and EVICT: one at a time to the end; a block found damaged is released as the FROZEN block it now is. -/
def State.releaseEvery (s : State) (v : VehicleId) : List BlockId → State × Released
  | [] => (s, ⟨0, none, false⟩)
  | b :: bs =>
    let (s1, badBlock) := s.readBlock b
    let (s2, bad) := s1.release v b
    let (s3, r) := State.releaseEvery s2 v bs
    (s3, ⟨r.count + 1, if badBlock then some b else r.damaged, badBlock || bad || r.bad⟩)

/-! ## Waits -/

/-- R35: what taking back a vehicle's wait did: the block whose entry was removed, and the waited block when its record was
found damaged, in which case its repair has ended the wait (R37, log entry 13). -/
structure Unwaited where
  removed : Option BlockId
  damaged : Option BlockId
  deriving DecidableEq, Repr

/-- R35: the vehicle's waiter entry, if any, is removed and its waiting-on cleared, with no notice. -/
def State.endWait (s : State) (v : VehicleId) : State × Unwaited :=
  match (s.vehicle v).waitingOn with
  | none => (s, ⟨none, none⟩)
  | some b =>
    let (s1, bad) := s.readBlock b
    if bad then (s1, ⟨none, some b⟩)
    else ((s1.removeEntry b v).updVehicle v fun r => { r with waitingOn := none }, ⟨some b, none⟩)

/-- R36: the same with WAIT_CANCELLED, reason STALLED, to the owning link; true when the waited block was damaged. -/
def State.cancelWait (s : State) (v : VehicleId) : State × Bool :=
  let (s, u) := s.endWait v
  match u.removed with
  | some b =>
    let r := s.vehicle v
    (s.notifyOwner r.owner (.waitCancelled v b .stalled r.holds.length), u.damaged.isSome)
  | none => (s, u.damaged.isSome)

/-- R29: the chain of waits from block `b` reaches vehicle `v`. Every record of the chain is read, checked (R41). The chain
ends after at most 128 vehicles; were it longer, the wait would be refused. -/
def State.closesCycle (v : VehicleId) : Nat → BlockId → State → State × Bool
  | 0, _, s => (s, true)
  | n + 1, b, s =>
    let s := (s.readBlock b).1
    match (s.block b).holder with
    | .vehicle w =>
      if w = v then (s, true)
      else
        let s := (s.readVehicle w).1
        match (s.vehicle w).waitingOn with
        | some b' => State.closesCycle v n b' s
        | none => (s, false)
    | _ => (s, false)

/-- R22, R27, R153: a waiter entry with the next waiter sequence at the tail of the block's list. -/
def State.enterWait (s : State) (v : VehicleId) (b : BlockId) : State :=
  let s := { s with waiterSeq := s.waiterSeq + 1 }
  (s.updBlock b fun r => { r with waiters := r.waiters ++ [⟨v, s.waiterSeq, s.msBase⟩] }).updVehicle v
    fun r => { r with waitingOn := some b }

/-! ## Ownership -/

/-- R64: the owning link becomes the one that owns the bay of the position block. -/
def State.setOwner (s : State) (v : VehicleId) : State :=
  s.updVehicle v fun r => { r with owner := r.position.bind s.bayOwner }

end Sys2Proof.Machine
end

