-- ==== Sys2Proof/Machine/Engine.lean ====
section
/-! DEFINITION. The Dispatch Engine: one decision (R110 to R115). -/

namespace Sys2Proof.Machine

/-- R111, second condition: the destination chosen, and whether it is the alternate. -/
def State.chooseDest (s : State) (r : OrderRec) : Option (PortId × Bool) :=
  if s.usable r.dest then some (r.dest, false)
  else (r.alt.filter s.usable).map fun p => (p, true)

/-- R112: the reach limit of a class. -/
def reachLimit (t : Timing) : Cls → Byte
  | .hot => t.reachHot
  | .express => t.reachExpress
  | .standard => t.reachStandard
  | .bulk => t.reachBulk

/-- R112: IDLE, drain-pending clear, not declined-by. -/
def State.candidate (s : State) (r : OrderRec) (v : VehicleId) : Bool :=
  (s.vehicle v).state = .idle && !(s.vehicle v).drain && r.declinedBy ≠ some v

/-- R112: the distance from the bay of the vehicle's position block, as its block record has it (log entry 8), to the bay
of the block on which the source port stands. -/
def State.distance (s : State) (v : VehicleId) (source : BlockId) : Option Byte :=
  (s.vehicle v).position.map fun b => (s.bay (s.block b).fixed.bay).row[(s.static source).bay.val]

/-- R112: eligible, with its distance. -/
def State.eligible (s : State) (r : OrderRec) (source : BlockId) (v : VehicleId) : Option (VehicleId × Byte) :=
  if s.candidate r v then
    ((s.distance v source).filter fun d => d ≠ 255 && d ≤ reachLimit s.timing r.cls).map fun d => (v, d)
  else none

/-- R112: the nearer of two, then the one with the lower idle sequence. -/
def State.nearer (s : State) (a b : VehicleId × Byte) : VehicleId × Byte :=
  if b.2 < a.2 then b
  else if a.2 < b.2 then a
  else if (s.vehicle b.1).idleSeq < (s.vehicle a.1).idleSeq then b
  else a

/-- R112: the vehicle chosen for an unbound order. -/
def State.nearest (s : State) (r : OrderRec) (source : BlockId) : Option VehicleId :=
  match allVehicles.filterMap (s.eligible r source) with
  | [] => none
  | x :: xs => some (xs.foldl s.nearer x).1

/-- R130: a vehicle is weighed: its record is read, and its position block's when it passes the first three tests of R112
alone, so no block is read for the order's declined-by vehicle (log entry 43). -/
def State.weigh (r : OrderRec) (s : State) (v : VehicleId) : State :=
  let s := (s.readVehicle v).1
  if s.candidate r v then
    match (s.vehicle v).position with
    | some b => (s.readBlock b).1
    | none => s
  else s

/-- R111, R112: the vehicle for an order whose source port stands on a block, chosen on the state after all are weighed. A
vehicle that a repair within the weighing has made IDLE after its own turn may be chosen, its position block unread (log
entry 37). -/
def State.findVehicle (s : State) (r : OrderRec) (source : BlockId) : State × Option VehicleId :=
  let s := allVehicles.foldl (State.weigh r) s
  (s, s.nearest r source)

/-- R111: whether an order can go, and to which vehicle and destination. -/
def State.consider (s : State) (r : OrderRec) : State × Option (VehicleId × Bool) :=
  match r.source, r.bound with
  | some p, _ =>
    match s.usable p, s.chooseDest r, s.portBlock p with
    | true, some (_, alternate), some b =>
      let (s, v) := s.findVehicle r b
      (s, v.map fun v => (v, alternate))
    | _, _, _ => (s, none)
  | none, some v =>
    let s := (s.readVehicle v).1
    if (s.vehicle v).state = .loadedIdle then (s, (s.chooseDest r).map fun d => (v, d.2)) else (s, none)
  | none, none => (s, none)

/-- R114: the record of an order offered to a vehicle, with the destination or the alternate in use. -/
def OrderRec.offeredTo (v : VehicleId) (alternate : Bool) (r : OrderRec) : OrderRec :=
  { r with state := .offered, vehicle := some v, declinedBy := none, altInUse := alternate }

/-- R114: the record of a vehicle that an order is offered to. -/
def VehicleRec.offeredOrder (o : Slot) (limit : Byte) (r : VehicleRec) : VehicleRec :=
  { r with state := .offered, order := some o, offer := some (units limit), timedOut := none }

/-- R114: the offer, in one step. -/
def State.offer (s : State) (o : Slot) (r : OrderRec) (v : VehicleId) (alternate : Bool) : State :=
  let was := (s.vehicle v).state
  let r' := r.offeredTo v alternate
  let s := (s.leaveQueue o).setOrder o (some r')
  let s := s.updVehicle v (·.offeredOrder o s.timing.offer)
  let s := (s.reserve? o .pick r.source).reserve r'.destInUse o .drop
  let s := s.notifyOwner (s.vehicle v).owner
    (.assign v o r.source (s.portBlock? r.source) r'.destInUse (s.portBlock r'.destInUse) r.carrier)
  (s.noteVehicle v was).setTrigger

/-- R111, R130: the scan. A damaged order is passed over; each order is looked at as it stands when the scan reaches it. -/
def State.scan : List Slot → State → State
  | [], s => s
  | o :: os, s =>
    let (s, bad) := s.readOrder o
    match bad, s.order o with
    | false, some r =>
      match s.consider r with
      | (s, some (v, alternate)) => s.offer o r v alternate
      | (s, none) => State.scan os s
    | _, _ => State.scan os s

/-- R110: one decision. Outside RUN, or with the trigger clear, the engine makes none. The trigger is cleared as the scan
begins: an offer sets it again, and so does a repair within the scan (log entry 30). -/
def execDispatchDecision (s : State) : Host.Outcome State Fault Refusal :=
  if s.mode ≠ .run ∨ !s.trigger then .next s
  else .next (State.scan s.queues.scanOrder { s with trigger := false }).endEvent

end Sys2Proof.Machine
end

