-- ==== Sys2Proof/Machine/Operands.lean ====
section
/-! DEFINITION. The operand forms of the requests: what a field of R177 stands for, none when it is out of range. -/

namespace Sys2Proof.Machine

/-- A number of `Fin n`, none when it is not below `n`. -/
def below (n k : Nat) : Option (Fin n) := if h : k < n then some ⟨k, h⟩ else none

/-- R177: vehicle, 00h to 7Fh. -/
def vehicle? (b : Byte) : Option VehicleId := below 128 b.toNat

/-- R177: block, 0000h to 03FFh. -/
def block? (h : Half) : Option BlockId := below 1024 h.toNat

/-- R177: bay, 00h to 1Fh. -/
def bay? (b : Byte) : Option BayId := below 32 b.toNat

/-- R177: port, 00h to BFh. -/
def port? (b : Byte) : Option PortId := below 192 b.toNat

/-- R177: order slot, 0000h to 00FFh. -/
def slot? (h : Half) : Option Slot := below 256 h.toNat

/-- R177: link, 00h to 05h. -/
def link? (b : Byte) : Option LinkId := below 6 b.toNat

/-- R177: fence slot, 00h to 0Fh. -/
def fence? (b : Byte) : Option FenceId := below 16 b.toNat

/-- R177: a port or none (FFh). The outer none is out of range. -/
def portOrNone? (b : Byte) : Option (Option PortId) :=
  if b = 0xFF then some none else (port? b).map some

/-- R177: a block or none (FFFFh). -/
def blockOrNone? (h : Half) : Option (Option BlockId) :=
  if h = 0xFFFF then some none else (block? h).map some

/-- R177: a link or none (FFh). -/
def linkOrNone? (b : Byte) : Option (Option LinkId) :=
  if b = 0xFF then some none else (link? b).map some

/-- R177: the classes. -/
def cls? (b : Byte) : Option Cls :=
  match b.toNat with
  | 0 => some .hot
  | 1 => some .express
  | 2 => some .standard
  | 3 => some .bulk
  | _ => none

/-- R177: the block kinds. -/
def blockKind? (b : Byte) : Option BlockKind :=
  match b.toNat with
  | 0 => some .unused
  | 1 => some .lane
  | 2 => some .merge
  | 3 => some .diverge
  | 4 => some .port
  | 5 => some .park
  | _ => none

/-- R177: the line rates. -/
def rate? (b : Byte) : Option Rate :=
  match b.toNat with
  | 0 => some .r57600
  | 1 => some .r115200
  | 2 => some .r230400
  | 3 => some .r460800
  | 4 => some .r921600
  | _ => none

/-- R177: the port actions, true for DOWN (01h), false for UP (00h). -/
def portAction? (b : Byte) : Option Bool :=
  match b.toNat with
  | 0 => some false
  | 1 => some true
  | _ => none

/-- A printable character, codes 33 to 126 (00_scope, "Carrier ids"). -/
def printable (c : Byte) : Bool := 0x21 ≤ c.toNat && c.toNat ≤ 0x7E

/-- R177: characters from 21h to 7Eh, then 20h to the end. -/
def idTail : List Byte → Bool
  | [] => true
  | c :: cs => if c = 0x20 then cs.all (· = 0x20) else printable c && idTail cs

/-- R177: a field whose first character is printable and that is padded with spaces alone. -/
def isCarrierId (f : CarrierField) : Bool := printable f[0] && idTail f.toList

/-- R177: what a carrier field stands for, none when it is malformed. -/
def carrier? (f : CarrierField) : Option Carrier :=
  if f = .replicate 8 0x20 then some .none
  else if f = .replicate 8 0x3F then some .unknown
  else if isCarrierId f then some (.id f)
  else none

/-- R90: a carrier field that is a carrier id, neither no carrier nor UNKNOWN. -/
def carrierId? (f : CarrierField) : Option Carrier :=
  match carrier? f with
  | some (.id c) => some (.id c)
  | _ => none

/-- The blocks a claim lists, none when one is out of range (R23). -/
def blocks? (hs : List Half) : Option (List BlockId) := hs.mapM block?

/-- The successors a block record of a used kind gives (R5, R178): one or two, the second ignored when the count is 1. -/
def succs? (r : BlockField) : Option (List BlockId) :=
  match r.count.toNat with
  | 1 => (block? r.succ1).map fun a => [a]
  | 2 => (block? r.succ1).bind fun a => (block? r.succ2).map fun b => [a, b]
  | _ => none

/-- R5: a block record of WRITE_BLOCKS, its ignored fields as R1 gives them; none when a field is out of range. -/
def blockRecord? (r : BlockField) : Option (BlockId × BlockStatic) :=
  (block? r.block).bind fun b =>
  (blockKind? r.kind).bind fun kind =>
  if kind = .unused then some (b, .unused)
  else
    (bay? r.bay).bind fun bay =>
    (succs? r).bind fun succs =>
    if kind = .port then (port? r.port).map fun p => (b, ⟨kind, bay, succs, some p⟩)
    else some (b, ⟨kind, bay, succs, none⟩)

/-- R6: a port record of WRITE_PORTS. -/
def portRecord? (r : PortField) : Option (PortId × Option BlockId) :=
  (port? r.port).bind fun p => (blockOrNone? r.block).map fun b => (p, b)

/-- R149: the only settings that can be out of range are an offer acceptance limit of 0 and an aging step of 0. -/
def timingInRange (t : Timing) : Bool := t.offer ≠ 0 && t.aging ≠ 0

/-- R49: every weight is 0 to 200. -/
def weightsInRange (w : Weights) : Bool :=
  w.hot.toNat ≤ 200 && w.express.toNat ≤ 200 && w.standard.toNat ≤ 200 && w.bulk.toNat ≤ 200 && w.none.toNat ≤ 200

end Sys2Proof.Machine
end

