-- ==== Sys2Proof/Machine/Stall.lean ====
section
/-! DEFINITION. Stalls (R72, R73), the withdrawal of an offer (R119) and the handling of an evicted vehicle's order (R82). -/

namespace Sys2Proof.Machine

/-- The order that the vehicle's order field names is read, checked (log entries 11 and 44); true when it was damaged, in
which case its repair has already moved the vehicle, or left it STALLED (R141). -/
def State.readOrderOf (s : State) (v : VehicleId) : State × Bool :=
  match (s.vehicle v).order with
  | some o => s.readOrder o
  | none => (s, false)

/-- R72: the saved state and the cause are recorded, the countdowns stop; the rest is kept. -/
def VehicleRec.stall (r : VehicleRec) (c : StallCause) : VehicleRec :=
  { r with saved := some r.state, state := .stalled, cause := some c, silence := none, offer := none }

/-- The order in the slot is bound to the vehicle (R92). -/
def State.boundTo (s : State) (o : Slot) (v : VehicleId) : Bool :=
  match s.order o with
  | some r => r.bound = some v
  | none => false

/-- R73, R107: the order was lost to a repair within the stall; the vehicle's saved state is the one R73 gives. Its carrier
tells whether the order was bound (R141, log entry 44). -/
def VehicleRec.orderLost (r : VehicleRec) : VehicleRec :=
  { r with saved := some (if r.carrier = .none then .idle else .loadedIdle) }

/-- R73: what a stall does to the order of a vehicle that was in state `was`. A suspended order lost to a repair has left
LOADED_IDLE saved (R141). -/
def State.stallOrder (s : State) (v : VehicleId) (was : VState) : State × Option (Slot × Disposition) :=
  match (s.vehicle v).order with
  | none => (if was = .offered ∨ was = .toSource then s.updVehicle v VehicleRec.orderLost else s, none)
  | some o =>
    match was with
    | .offered =>
      let saved := if s.boundTo o v then VState.loadedIdle else .idle
      let s := (s.requeue o v .stalled).updVehicle v fun r => { r with order := none, saved := some saved }
      (s.noteWithdraw v o .stalled, some (o, .requeued))
    | .toSource =>
      let s := (s.requeue o v .stalled).updVehicle v fun r => { r with order := none, saved := some .idle }
      (s.noteWithdraw v o .stalled, some (o, .requeued))
    | .toDest => (s.suspend o, some (o, .suspended))
    | _ => (s, none)

/-- What a stall did: the slot it requeued or suspended, and whether it met a damaged record (R168). -/
structure Stalled where
  order : Option (Slot × Disposition)
  bad   : Bool
  deriving DecidableEq, Repr

/-- R72, R73: a vehicle whose record has been read becomes STALLED. R72 comes whole before its order is read or touched: the
record, then the wait; a damaged order's repair finds it STALLED (log entry 44). Notices in order: WAIT_CANCELLED, then
WITHDRAW or ORDER_STATE, then VEHICLE_STATE. -/
def State.stall (s : State) (v : VehicleId) (c : StallCause) : State × Stalled :=
  let was := (s.vehicle v).state
  let (s, badBlock) := (s.updVehicle v (·.stall c)).cancelWait v
  let (s, badOrder) := s.readOrderOf v
  let (s, d) := s.stallOrder v was
  (s.noteVehicle v was, ⟨d, badOrder || badBlock⟩)

/-- R119, R83: the offer countdown stops; a TIMEOUT leaves its slot as the timed-out offer. -/
def VehicleRec.offerOver (o : Slot) (cause : OrderCause) (r : VehicleRec) : VehicleRec :=
  { r with offer := none, timedOut := if cause = .timeout then some o else r.timedOut }

/-- R119: an offer ends without the order being taken. The vehicle's record and its order's have been read. True when the
entry to IDLE met a damaged record. -/
def State.withdrawOffer (s : State) (v : VehicleId) (o : Slot) (cause : OrderCause) : State × Bool :=
  let bound := s.boundTo o v
  let c := (s.vehicle v).carrier
  let s := (s.updVehicle v (·.offerOver o cause)).requeue o v cause
  let (s, bad) := if bound then (s.enterLoadedIdle v c, false) else s.enterIdle read v
  let s := if cause = .timeout then s.noteWithdraw v o .timeout else s
  (s.noteVehicle v .offered, bad)

/-- R82 step 1: the order of a vehicle being evicted; the slot requeued or failed. -/
def State.evictOrder (s : State) (v : VehicleId) : State × Option Slot :=
  match (s.vehicle v).order with
  | none => (s, none)
  | some o =>
    match (s.vehicle v).state with
    | .offered => (s.requeue o v .evicted, some o)
    | .toSource => (s.requeue o v .evicted, some o)
    | _ => (s.endOrder o .failed (some .vehicleEvicted), some o)

/-- R82 step 3: a QUEUED order bound to the vehicle is unbound. -/
def State.unbind (s : State) (v : VehicleId) : State :=
  match s.queuedBoundTo v with
  | some o => s.updOrder o fun r => { r with bound := none }
  | none => s

/-- R81: the vehicle becomes OFFLINE. -/
def VehicleRec.evicted (r : VehicleRec) : VehicleRec :=
  { r with
    state := .offline, owner := none, cause := none, saved := none, timedOut := none, drain := false
    silence := none, offer := none, order := none, carrier := .none }

end Sys2Proof.Machine
end

