-- ==== Sys2Proof/Machine/Request.lean ====
section
/-! DEFINITION. The Request Router: the role and mode permissions, the check order (R166), and the taking of a request
(R161, R167). -/

namespace Sys2Proof.Machine

/-- R169: the roles that may send a request kind. -/
def ReqKind.permits : ReqKind → Role → Bool
  | _, .disabled => false
  | .status, _ | .clearAttention, _ | .setNoticeMask, _ | .queryVehicle, _ | .queryOrder, _ | .queryBlock, _
  | .queryPort, _ => true
  | .submitOrder, r | .cancelOrder, r | .redirectOrder, r | .reclassOrder, r => r = .scheduler
  | .setPortState, r | .setClock, r => r = .scheduler || r = .service
  | .join, r | .leave, r | .position, r | .claim, r | .releaseAhead, r | .accept, r | .decline, r | .pickDone, r
  | .dropDone, r | .dropFail, r | .fault, r | .recover, r | .heartbeat, r => r = .bay
  | .writeBlocks, r | .writePorts, r | .writeBay, r | .commitMap, r | .reopenMap, r | .setFence, r | .clearFence, r
  | .setTiming, r | .setWeights, r | .setLinkRate, r | .drain, r | .restore, r | .evict, r | .thaw, r
  | .readCapture, r | .clearCapture, r | .halt, r | .resume, r | .softReset, r => r = .service

/-- R11: the modes that permit a request kind. -/
def ReqKind.allowedIn : ReqKind → Mode → Bool
  | .writeBlocks, m | .writePorts, m | .writeBay, m | .commitMap, m => m = .setup
  | .reopenMap, m | .halt, m | .resume, m | .join, m | .submitOrder, m => m ≠ .setup
  | .claim, m => m = .run
  | _, _ => true

/-- R157: a frame that completes leaves the receiver in HUNT with no partial frame (log entry 6). -/
def State.receiverToHunt (s : State) (l : LinkId) : State :=
  s.updLink l fun k => { k with rx := .hunt, gapTimer := false }

/-- The checks of stages 1 and 2 and the body length of stage 3 (R166), then the request's own checks and effect. -/
def State.carryOut (s : State) (h : Hdr) (kind : ReqKind) (body : State → State × Answer) : State × Answer :=
  if !ReqKind.permits kind (s.link h.link).role then (s, .plain .role)
  else if !ReqKind.allowedIn kind s.mode then (s, .plain .mode)
  else if !h.fits then (s, .plain .range)
  else body s

/-- R161: a frame that passed its check on a link. A DISABLED link takes none (R155); a link whose request slot holds a
reply discards it with OVERRUN; otherwise it is carried out and its reply placed, with the given reply kind. -/
def State.takeFrame (s : State) (l : LinkId) (replyKind tag : Byte) (run : State → State × Answer) : State :=
  if (s.link l).role = .disabled then s
  else
    let s := s.receiverToHunt l
    match (s.link l).slot with
    | some _ => s.attend l .overrun
    | none =>
      let (s, a) := run s
      s.placeReply l replyKind tag a

/-- R161, R166, R167: a request is taken whole; the reply to a request carries its kind code plus 80h (R177). -/
def State.request (s : State) (h : Hdr) (kind : ReqKind) (body : State → State × Answer) :
    Host.Outcome State Fault Refusal :=
  .next (s.takeFrame h.link (kind.code + 0x80) h.tag fun s => s.carryOut h kind body).endEvent

/-- R168: the result code of a request that is carried out to its end: its own, or INTEGRITY when a record it needed was
found uncorrectable on the way. -/
def ResultCode.unless (bad : Bool) (code : ResultCode) : ResultCode := if bad then .integrity else code

/-- The same for OK. -/
def okOr (bad : Bool) : ResultCode := .unless bad .ok

/-- R63, R84: the first read of the vehicle a BAY request is about. A damaged one is repaired and the request answered
INTEGRITY with `damaged`; otherwise the request goes on. -/
def State.withVehicle (s : State) (v : VehicleId) (damaged : State → List Byte)
    (go : State → State × Answer) : State × Answer :=
  let (s, bad) := s.readVehicle v
  if bad then (s, ⟨.integrity, damaged s⟩) else go s

/-- R63: the vehicle is read, and the requesting link must be its owning link. -/
def State.withOwned (s : State) (l : LinkId) (v : VehicleId) (damaged : State → List Byte)
    (go : State → State × Answer) : State × Answer :=
  s.withVehicle v damaged fun s =>
    if (s.vehicle v).owner = some l then go s else (s, .plain .notYours)

/-- A field of a request, out of range when there is none (R166 stage 3). -/
def inRange {α : Type} (x : Option α) (s : State) (go : α → State × Answer) : State × Answer :=
  match x with
  | some a => go a
  | none => (s, .plain .range)

end Sys2Proof.Machine
end

