-- ==== Sys2Proof/Machine/Handshake.lean ====
section
/-! DEFINITION. The transfer handshake: ACCEPT, DECLINE, PICK_DONE, DROP_DONE and DROP_FAIL (R116 to R130). -/

namespace Sys2Proof.Machine

open Enc

/-- The vehicle's state, as a reply field. -/
def State.stateField (s : State) (v : VehicleId) : List Byte := [(s.vehicle v).state.code]

/-- A request of the handshake is accepted: the silence countdown restarts (R68) and the answer is computed after it. -/
def State.accepted (s : State) (v : VehicleId) (code : ResultCode) (fields : State → List Byte) : State × Answer :=
  let s := s.restartSilence v
  (s, ⟨code, fields s⟩)

/-- R130: the vehicle's order is read; a damaged one is repaired and the request answered INTEGRITY. -/
def State.withOrderOf (s : State) (v : VehicleId) (o : Slot) (damaged : State → List Byte)
    (go : OrderRec → State → State × Answer) : State × Answer :=
  let (s, bad) := s.readOrder o
  if bad then s.accepted v .integrity damaged
  else match s.order o with
    | some r => go r s
    | none => (s, .plain .state)

/-! ## ACCEPT and DECLINE -/

/-- R116 steps 4 and 5, R120: the offer that an ACCEPT or a DECLINE names. -/
def State.withOffer (s : State) (l : LinkId) (v : VehicleId) (o : Slot) (go : OrderRec → State → State × Answer) :
    State × Answer :=
  s.withOwned l v (·.stateField v) fun s =>
    if (s.vehicle v).state = .offered ∧ (s.vehicle v).order = some o then s.withOrderOf v o (·.stateField v) go
    else if (s.vehicle v).state ≠ .stalled ∧ (s.vehicle v).timedOut = some o then
      s.accepted v .tooLate (·.stateField v)
    else (s, .plain .state)

/-- The three values an offer holds and an ACCEPT echoes (R115, R117). -/
structure Echo where
  source  : Option BlockId
  dest    : Option BlockId
  carrier : Carrier
  deriving DecidableEq, Repr

/-- R117: the values of an order's offer. -/
def State.offerEcho (s : State) (r : OrderRec) : Echo := ⟨s.portBlock? r.source, s.portBlock r.destInUse, r.carrier⟩

/-- R118, R179: which echoes differ, bit 0 source, bit 1 destination, bit 2 carrier. -/
def Echo.differing (a b : Echo) : Byte :=
  bit (a.source ≠ b.source) 1 ||| bit (a.dest ≠ b.dest) 2 ||| bit (a.carrier ≠ b.carrier) 4

/-- R117: the offer is taken. A bound order with no source goes straight to CARRYING. -/
def State.takeOffer (s : State) (v : VehicleId) (o : Slot) (r : OrderRec) : State :=
  let r' := { r with state := if r.source.isSome then .toSource else .carrying }
  let s := s.updVehicle v fun x =>
    { x with offer := none, state := if r.source.isSome then .toSource else .toDest }
  ((s.setOrder o (some r')).noteOrder o r' .assigned none).noteVehicle v .offered

/-- R116 to R118: ACCEPT. -/
def execAccept (h : Hdr) (vehicle : Byte) (slot source dest : Half) (carrier : CarrierField) (s : State) :
    Host.Outcome State Fault Refusal :=
  s.request h .accept fun s =>
    inRange (vehicle? vehicle) s fun v => inRange (slot? slot) s fun o => inRange (blockOrNone? source) s fun source =>
    inRange (block? dest) s fun dest => inRange (carrier? carrier) s fun c =>
    s.withOffer h.link v o fun r s =>
      let offer := s.offerEcho r
      let mask := offer.differing ⟨source, some dest, c⟩
      if mask = 0 then (s.takeOffer v o r).accepted v .ok (·.stateField v)
      else
        let (s, bad) := s.withdrawOffer v o .mismatch
        if bad then s.accepted v .integrity (·.stateField v)
        else
          s.accepted v .mismatch fun _ =>
            opt2 Enc.block offer.source ++ opt2 Enc.block offer.dest ++ Enc.carrier offer.carrier ++ [mask]

/-- R120: DECLINE. -/
def execDecline (h : Hdr) (vehicle : Byte) (slot : Half) (s : State) : Host.Outcome State Fault Refusal :=
  s.request h .decline fun s =>
    inRange (vehicle? vehicle) s fun v => inRange (slot? slot) s fun o =>
    s.withOffer h.link v o fun _ s =>
      let (s, bad) := s.withdrawOffer v o .declined
      s.accepted v (okOr bad) (·.stateField v)

/-! ## PICK_DONE -/

/-- The vehicle of a request that must be in a state with an order: its order, read (R122, R126, R127). -/
def State.withWork (s : State) (l : LinkId) (v : VehicleId) (must : VState) (damaged : State → List Byte)
    (go : Slot → OrderRec → State → State × Answer) : State × Answer :=
  s.withOwned l v damaged fun s =>
    match (s.vehicle v).order with
    | some o => if (s.vehicle v).state = must then s.withOrderOf v o damaged (go o) else (s, .plain .state)
    | none => (s, .plain .state)

/-- R122, R126: the vehicle's position block is the block of a port. -/
def State.standsAt (s : State) (v : VehicleId) (p : Option PortId) : Bool :=
  (s.vehicle v).position.isSome && (s.vehicle v).position = s.portBlock? p

/-- The fields of PICK_DONE's reply (R122, R179). -/
def State.pickFields (s : State) (v : VehicleId) (outcome : Option PickOutcome) (bound : Option Slot) : List Byte :=
  opt1 (fun x => [PickOutcome.code x]) outcome ++ s.stateField v ++ carrier (s.vehicle v).carrier ++ opt2 slot bound

/-- R123: the pick is made. -/
def State.pick (s : State) (v : VehicleId) (o : Slot) (r : OrderRec) : State :=
  let s := s.releasePort? o r.source
  let r' := { r with state := .carrying }
  let s := (s.setOrder o (some r')).updVehicle v fun x => { x with state := .toDest, carrier := r.carrier }
  (s.noteOrder o r' .picked none).noteVehicle v .toSource

/-- R124: the source was empty. True when the entry to IDLE met a damaged record. -/
def State.pickEmpty (s : State) (v : VehicleId) (o : Slot) : State × Bool :=
  let (s, bad) := (s.endOrder o .failed (some .sourceEmpty)).enterIdle read v
  (s.noteVehicle v .toSource, bad)

/-- R125 step 2: the carrier the vehicle records. -/
def State.recordedCarrier (s : State) (v : VehicleId) (c : Carrier) : Carrier :=
  if s.otherCarrying v c ∨ s.workedNaming c then .unknown else c

/-- R125: the vehicle has another carrier. VEHICLE_STATE comes last. -/
def State.pickOther (s : State) (v : VehicleId) (o : Slot) (c : Carrier) : State × Option Slot :=
  let s := s.endOrder o .failed (some .carrierMismatch)
  let c := s.recordedCarrier v c
  let s := s.enterLoadedIdle v c
  let (s, bound) := s.bindCarrier v c
  (s.noteVehicle v .toSource, bound)

/-- The search of R125 step 2 for a mismatched id: all vehicles are read, then all live orders (log entry 41), before step 1
ends the order, so a repair's notices come before FAILED(CARRIER_MISMATCH) (log entry 42). The pick goes on against the
records as the repairs leave them (R130); true when one was found damaged (log entry 11). -/
def State.readPickSearch (s : State) (c : Carrier) : State × Bool :=
  match c with
  | .id _ =>
    let (s, badVehicle) := readAll read vehicleRefs s
    let (s, badOrder) := readAll read s.orderRefs s
    (s, badVehicle || badOrder)
  | _ => (s, false)

/-- R122 to R125: PICK_DONE. The search of R125 step 2 is read before step 1 (log entry 42). -/
def execPickDone (h : Hdr) (vehicle : Byte) (carrier : CarrierField) (s : State) : Host.Outcome State Fault Refusal :=
  s.request h .pickDone fun s =>
    inRange (vehicle? vehicle) s fun v => inRange (carrier? carrier) s fun c =>
    s.withWork h.link v .toSource (·.pickFields v none none) fun o r s =>
      if !s.standsAt v r.source then (s, .plain .state)
      else if c = r.carrier then (s.pick v o r).accepted v .ok (·.pickFields v (some .picked) none)
      else if c = .none then
        let (s, bad) := s.pickEmpty v o
        s.accepted v (okOr bad) (·.pickFields v (some .sourceEmpty) none)
      else
        let (s, bad) := s.readPickSearch c
        let (s, bound) := s.pickOther v o c
        s.accepted v (okOr bad) (·.pickFields v (some .carrierMismatch) bound)

/-! ## DROP_DONE and DROP_FAIL -/

/-- R126: the order is delivered. True when the entry to IDLE met a damaged record. -/
def State.deliver (s : State) (v : VehicleId) (o : Slot) : State × Bool :=
  let (s, bad) := (s.endOrder o .done none).enterIdle read v
  (s.noteVehicle v .toDest, bad)

/-- R126: DROP_DONE. -/
def execDropDone (h : Hdr) (vehicle : Byte) (s : State) : Host.Outcome State Fault Refusal :=
  s.request h .dropDone fun s =>
    inRange (vehicle? vehicle) s fun v =>
    s.withWork h.link v .toDest (·.stateField v) fun o r s =>
      if !s.standsAt v (some r.destInUse) then (s, .plain .state)
      else
        let (s, bad) := s.deliver v o
        s.accepted v (okOr bad) (·.stateField v)

/-- The fields of DROP_FAIL's reply: REFUSED has no destination left (R179, log entry 15). -/
def State.dropFailFields (s : State) (outcome : Option DropFailOutcome) (p : Option PortId) : List Byte :=
  opt1 (fun x => [DropFailOutcome.code x]) outcome ++ opt1 Enc.port p ++ opt2 Enc.block (s.portBlock? p)

/-- An INTEGRITY answer has no outcome and carries the destination in use of the order that the repair has left the vehicle,
with its block (R74, R140, R179); none when it has left none. -/
def State.dropFailDamaged (s : State) (v : VehicleId) : List Byte :=
  s.dropFailFields none (((s.vehicle v).order.bind s.order).map (·.destInUse))

/-- R127: the alternate an order can turn to. -/
def State.turnTarget (s : State) (r : OrderRec) : Option PortId :=
  if r.altInUse then none else r.alt.filter s.usable

/-- R127: the turn to the alternate. -/
def State.turn (s : State) (v : VehicleId) (o : Slot) (r : OrderRec) (p : PortId) : State :=
  let r' := { r with altInUse := true }
  let s := (((s.releasePort o r.destInUse).reserve p o .drop).setOrder o (some r')).noteReroute v o .dropFail p none
  s.noteOrder o r' .rerouted none

/-- R128: the order ends DROP_REFUSED, its carrier still on the vehicle. -/
def State.refuseDrop (s : State) (v : VehicleId) (o : Slot) : State :=
  ((s.endOrder o .failed (some .dropRefused)).enterLoadedIdle v (s.vehicle v).carrier).noteVehicle v .toDest

/-- R127, R128: DROP_FAIL. -/
def execDropFail (h : Hdr) (vehicle : Byte) (s : State) : Host.Outcome State Fault Refusal :=
  s.request h .dropFail fun s =>
    inRange (vehicle? vehicle) s fun v =>
    s.withWork h.link v .toDest (·.dropFailDamaged v) fun o r s =>
      match s.turnTarget r with
      | some p => (s.turn v o r p).accepted v .ok (·.dropFailFields (some .rerouted) (some p))
      | none => (s.refuseDrop v o).accepted v .ok (·.dropFailFields (some .refused) none)

end Sys2Proof.Machine
end

