-- ==== Sys2Proof/Machine/Links.lean ====
section
/-! DEFINITION. The Link Interfaces: hard reset, link reset, dropped frames, overrun, the end of a transmission, and line
rates (R17, R155 to R165). -/

namespace Sys2Proof.Machine

/-- R157: in LENGTH, BODY and CHECK the receiver is in a frame. -/
def Rx.inFrame : Rx → Bool
  | .hunt => false
  | _ => true

/-- R159: the partial frame is discarded, the receiver hunts, RX_FAULT is set. -/
def Link.dropFrame (k : Link) : Link :=
  { k with rx := .hunt, gapTimer := false, attention := k.attention.set .rxFault }

/-- R164: a link takes a new rate; a frame in reception is discarded with RX_FAULT. The frame being sent keeps the rate it
began at (`TxFrame.rate`). -/
def Link.takeRate (r : Rate) (k : Link) : Link :=
  if k.rx.inFrame then { k with rate := r }.dropFrame else { k with rate := r }

/-- R164: a pending change, if any, is applied to the link it names. -/
def State.applyRate (s : State) : Option (LinkId × Rate) → State
  | some (l, r) => s.updLink l (Link.takeRate r)
  | none => s

/-- R17: the whole part in its start state, the roles read from the straps. The waiting commands are the model's own and
stay (log entry 23). -/
def execHardReset (straps : Straps) (s : State) : Host.Outcome State Fault Refusal :=
  .next { State.hardReset (straps.map Role.ofStrap) with pending := s.pending, freeCount := s.freeCount }

/-- R160: everything of the link but its role, and a pending rate change of its own applied after that. A DISABLED link
ignores breaks (R155). -/
def execLinkReset (l : LinkId) (s : State) : Host.Outcome State Fault Refusal :=
  if (s.link l).role = .disabled then .next s
  else .next ((s.setLink l (Link.reset (s.link l).role)).applyRate (s.link l).pendingRate).endEvent

/-- R159: drop the frame in reception; out of a frame nothing is dropped (log entry 7). -/
def State.dropFrame (s : State) (l : LinkId) : State :=
  if (s.link l).role ≠ .disabled ∧ (s.link l).rx.inFrame then s.updLink l Link.dropFrame else s

/-- R159: a bad length byte, a failed check or a framing error. -/
def execFrameDropped (l : LinkId) (s : State) : Host.Outcome State Fault Refusal := .next (s.dropFrame l)

/-- R159: the gap timer reaches 4 character times. -/
def execRxGapTimeout (l : LinkId) (s : State) : Host.Outcome State Fault Refusal := .next (s.dropFrame l)

/-- R161: a frame passes its check while the slot holds a reply. With an empty slot there is no overrun (log entry 7). -/
def execOverrun (l : LinkId) (s : State) : Host.Outcome State Fault Refusal :=
  if (s.link l).role ≠ .disabled ∧ (s.link l).slot.isSome then .next ((s.receiverToHunt l).attend l .overrun)
  else .next s

/-- R166, R177: a kind code that names no request is answered ROLE with reply kind FFh. -/
def execUnknownKindRequest (l : LinkId) (tag : Byte) (s : State) : Host.Outcome State Fault Refusal :=
  .next (s.takeFrame l 0xFF tag fun s => (s, .plain .role)).endEvent

/-- R161, R162, R164: the frame being sent has left the line. A reply empties the slot and applies a pending rate. -/
def execTransmitComplete (l : LinkId) (s : State) : Host.Outcome State Fault Refusal :=
  match (s.link l).tx with
  | none => .next s
  | some ⟨.notice _, _⟩ => .next (s.updLink l fun k => { k with tx := none }).endEvent
  | some ⟨.reply _, _⟩ =>
    .next ((s.updLink l fun k => { k with tx := none, slot := none, pendingRate := none }).applyRate
      (s.link l).pendingRate).endEvent

/-- R164: SET_LINK_RATE: the change is pending on the requesting link until this reply has left. -/
def execSetLinkRate (h : Hdr) (link rate : Byte) (s : State) : Host.Outcome State Fault Refusal :=
  s.request h .setLinkRate fun s =>
    inRange (link? link) s fun l => inRange (rate? rate) s fun r =>
    (s.updLink h.link fun k => { k with pendingRate := some (l, r) },
      ⟨.ok, Enc.link l ++ [(s.link l).rate.code]⟩)

end Sys2Proof.Machine
end

