-- ==== Sys2Proof/Machine/MapRequests.lean ====
section
/-! DEFINITION. The map writes, COMMIT_MAP (R5 to R10) and the requests that change the mode: REOPEN_MAP, HALT, RESUME,
SOFT_RESET (R13 to R16). -/

namespace Sys2Proof.Machine

open Enc

/-! ## Map writes -/

/-- R5: one static record, written into both copies; the block record is read first and receives a new check word. -/
def State.writeBlock (s : State) (b : BlockId) (x : BlockStatic) : State × Bool :=
  let (s, bad) := s.readBlock b
  ({ s with map := s.map.set b.val x }.updBlock b fun r => { r with fixed := x, flips := [] }, bad)

/-- R5: the records in list order; true when a record was found damaged. -/
def State.writeBlocks : List (BlockId × BlockStatic) → State → State × Bool
  | [], s => (s, false)
  | (b, x) :: rest, s =>
    let (s1, bad) := s.writeBlock b x
    let (s2, more) := State.writeBlocks rest s1
    (s2, bad || more)

/-- R5: WRITE_BLOCKS. -/
def execWriteBlocks (h : Hdr) (records : List BlockField) (s : State) : Host.Outcome State Fault Refusal :=
  s.request h .writeBlocks fun s =>
    if records = [] ∨ 16 < records.length then (s, .plain .range)
    else
      inRange (records.mapM blockRecord?) s fun rs =>
      let (s, bad) := State.writeBlocks rs s
      ({ s with committed := false }, ⟨okOr bad, num rs.length⟩)

/-- R6: the placement of a port; its DOWN flag and reservation are left. -/
def State.writePort (s : State) (r : PortId × Option BlockId) : State :=
  s.setPort r.1 { s.port r.1 with block := r.2 }

/-- R6: WRITE_PORTS. -/
def execWritePorts (h : Hdr) (records : List PortField) (s : State) : Host.Outcome State Fault Refusal :=
  s.request h .writePorts fun s =>
    if records = [] ∨ 32 < records.length then (s, .plain .range)
    else
      inRange (records.mapM portRecord?) s fun rs =>
      ({ rs.foldl State.writePort s with committed := false }, ⟨.ok, num rs.length⟩)

/-- R7: WRITE_BAY. -/
def execWriteBay (h : Hdr) (bay owner : Byte) (row : Vector Byte 32) (s : State) : Host.Outcome State Fault Refusal :=
  s.request h .writeBay fun s =>
    inRange (bay? bay) s fun a => inRange (linkOrNone? owner) s fun owner =>
    ({ s.setBay a ⟨owner, row⟩ with committed := false }, ⟨.ok, num 1⟩)

/-! ## COMMIT_MAP (R9) -/

/-- The object that failed, its number and the reason (R10). -/
structure MapFault where
  object : MapObject
  number : Nat
  reason : MapReason
  deriving DecidableEq, Repr

/-- R1: the used blocks whose successor lists contain a block, each counted once. -/
def State.predecessorCount (s : State) (b : BlockId) : Nat :=
  (allBlocks.filter fun x => s.used x && (s.static x).succs.contains b).length

/-- R9, check 1 of a block. -/
def State.successorsFit (s : State) (b : BlockId) : Bool :=
  (s.static b).succs.all fun x => s.used x && x ≠ b

/-- R9, check 2 of a block. -/
def BlockStatic.countFits (x : BlockStatic) : Bool :=
  match x.kind, x.succs with
  | .diverge, [a, b] => a ≠ b
  | .diverge, _ => false
  | _, [_] => true
  | _, _ => false

/-- R9, check 3 of a block. -/
def State.predecessorsFit (s : State) (b : BlockId) : Bool :=
  s.predecessorCount b = if (s.static b).kind = .merge then 2 else 1

/-- R9, check 4 of a block. -/
def State.portFits (s : State) (b : BlockId) : Bool :=
  (s.static b).kind ≠ .port || (s.static b).port.any fun p => s.portBlock p = some b

/-- R9: the four checks of a block in order. -/
def State.blockFault (s : State) (b : BlockId) : Option MapFault :=
  if !s.used b then none
  else if !s.successorsFit b then some ⟨.block, b.val, .badSuccessor⟩
  else if !(s.static b).countFits then some ⟨.block, b.val, .successorCount⟩
  else if !s.predecessorsFit b then some ⟨.block, b.val, .predecessorCount⟩
  else if !s.portFits b then some ⟨.block, b.val, .portMismatch⟩
  else none

/-- R9: a placed port is named back by the block its record names. -/
def State.portFault (s : State) (p : PortId) : Option MapFault :=
  match s.portBlock p with
  | none => none
  | some b =>
    if (s.static b).kind = .port ∧ (s.static b).port = some p then none else some ⟨.port, p.val, .portOrphan⟩

/-- R9: a bay that is the bay of at least one used block. -/
def State.bayInUse (s : State) (a : BayId) : Bool := allBlocks.any fun b => s.used b && (s.static b).bay = a

/-- R9: the owning link of a bay is a BAY link. -/
def State.bayOwned (s : State) (a : BayId) : Bool := (s.bay a).owner.any fun l => (s.link l).role = .bay

/-- R9: the two checks of a bay in order. -/
def State.bayFault (s : State) (a : BayId) : Option MapFault :=
  if s.bayInUse a ∧ !s.bayOwned a then some ⟨.bay, a.val, .noBayOwner⟩
  else if (s.bay a).row[a.val] ≠ 0 then some ⟨.bay, a.val, .distanceSelf⟩
  else none

/-- R9: the three passes, stopping at the first failure. -/
def State.mapFault (s : State) : Option MapFault :=
  (allBlocks.findSome? s.blockFault).or
    (((List.finRange 192).findSome? s.portFault).or ((List.finRange 32).findSome? s.bayFault))

/-- R9, R10: COMMIT_MAP. -/
def execCommitMap (h : Hdr) (s : State) : Host.Outcome State Fault Refusal :=
  s.request h .commitMap fun s =>
    match s.mapFault with
    | some f => (s, ⟨.invalidMap, [f.object.code] ++ num2 f.number ++ [f.reason.code]⟩)
    | none => ({ s with committed := true }.changeMode .run .commit, .plain .ok)

/-! ## Mode changes -/

/-- R13, R15: a vehicle is in service. -/
def State.anyInService (s : State) : Bool := allVehicles.any fun v => (s.vehicle v).state ≠ .offline

/-- The vehicles are read before a request that needs them all OFFLINE; a damaged one ends it (R138, log entry 11). -/
def State.withRoster (s : State) (go : State → State × Answer) : State × Answer :=
  let (s, bad) := readUntilBad read vehicleRefs s
  if bad then (s, .plain .integrity) else go s

/-- R13: REOPEN_MAP. -/
def execReopenMap (h : Hdr) (s : State) : Host.Outcome State Fault Refusal :=
  s.request h .reopenMap fun s =>
    s.withRoster fun s =>
    if s.anyInService ∨ s.liveSlots ≠ [] then (s, .plain .state)
    else (s.changeMode .setup .reopen, .plain .ok)

/-- R14: HALT. -/
def execHalt (h : Hdr) (s : State) : Host.Outcome State Fault Refusal :=
  s.request h .halt fun s =>
    (if s.mode = .run then s.changeMode .halted .halt else s, .plain .ok)

/-- R14: the mode, then the arbiters in ascending block number, the trigger, and the MODE notice. -/
def State.resume (s : State) : State :=
  (({ s with mode := .run }.askArbiters allBlocks).setTrigger).notifyMode .halted .resume

/-- R14: RESUME. -/
def execResume (h : Hdr) (s : State) : Host.Outcome State Fault Refusal :=
  s.request h .resume fun s =>
    (if s.mode = .halted then s.resume else s, .plain .ok)

/-- R15: a soft reset with a vehicle in service halts the part. -/
def State.convertReset (s : State) : State := if s.mode = .run then s.changeMode .halted .softReset else s

/-- R16: a FROZEN block becomes free with no waiters, its record written afresh. -/
def BlockRec.thawed (r : BlockRec) : BlockRec :=
  if r.frozen then { r with frozen := false, holder := .none, waiters := [], flips := [] } else r

/-- R16, R85: what a performed soft reset clears in a vehicle record. -/
def VehicleRec.softReset (r : VehicleRec) : VehicleRec := { r with timedOut := none, idleSeq := 0, flips := [] }

/-- R16: what a performed soft reset clears in a link. -/
def Link.softReset (k : Link) : Link := { k with queue := [], attention := .clear }

/-- R16, R42, R85, R108, R131, R146, R153: a soft reset performed. -/
def State.softReset (s : State) : State :=
  State.changeMode (m := if s.committed then .run else .setup) (cause := .softReset) { s with
    blocks := s.blocks.map BlockRec.thawed
    ports := s.ports.map fun r => { r with reservation := none }
    vehicles := s.vehicles.map VehicleRec.softReset
    orders := .replicate 256 none, queues := .reset, trigger := false
    capture := none, corrections := 0, cursor := .block 0
    submitSeq := 0, waiterSeq := 0, idleSeq := 0
    links := s.links.map Link.softReset }

/-- R15, R16: SOFT_RESET. -/
def execSoftReset (h : Hdr) (s : State) : Host.Outcome State Fault Refusal :=
  s.request h .softReset fun s =>
    s.withRoster fun s =>
    if s.anyInService then (s.convertReset, .plain .converted) else (s.softReset, .plain .ok)

end Sys2Proof.Machine
end

