-- ==== Sys2Proof/Machine/Orders.lean ====
section
/-! DEFINITION. The scheduler's requests (R90 to R97, R105) and SET_CLOCK (R148). -/

namespace Sys2Proof.Machine

open Enc

/-! ## SUBMIT_ORDER -/

/-- R90 step 3: every port given is placed and the ports given are pairwise distinct. -/
def State.portsFit (s : State) (source : Option PortId) (dest : PortId) (alt : Option PortId) : Bool :=
  source.all s.placed && s.placed dest && alt.all s.placed
    && source ≠ some dest && alt ≠ some dest && (source.isNone || source ≠ alt)

/-- R90 step 4, R91 step 3: LOADED_IDLE, or STALLED with that state saved. -/
def VehicleRec.bindable (r : VehicleRec) : Bool :=
  r.state = .loadedIdle || (r.state = .stalled && r.saved = some .loadedIdle)

/-- R91 step 3: the vehicle that a new order for the carrier is bound to. -/
def State.bindTarget (s : State) (c : Carrier) : Option VehicleId :=
  allVehicles.find? fun v => (s.vehicle v).carrier = c && (s.vehicle v).bindable

/-- R90 step 5: a vehicle other than the one the order is bound to carries the carrier. -/
def State.carriedElsewhere (s : State) (c : Carrier) : Bool :=
  allVehicles.any fun v => (s.vehicle v).carrier = c && s.bindTarget c ≠ some v

/-- R90 step 6: a live order of the link has the tag. -/
def State.tagLive (s : State) (l : LinkId) (tag : Half) : Bool :=
  s.liveSlots.any fun o => (s.order o).any fun r => r.origin = l ∧ r.tag = tag

/-- R91 step 1. -/
def State.freeSlot (s : State) : Option Slot := (List.finRange 256).find? fun o => (s.order o).isNone

/-- R91: the order takes effect in slot `o`. The submit sequence is taken before the record is written, so a renumbering
reads no half-written order. -/
def State.takeOrder (s : State) (l : LinkId) (o : Slot) (tag : Half) (c : Carrier) (source : Option PortId)
    (dest : PortId) (alt : Option PortId) (cls : Cls) : State × Answer :=
  let (s, n) := s.nextSubmitSeq read
  let bound := s.bindTarget c
  let r : OrderRec :=
    { origin := l, tag := tag, carrier := c, source := if bound.isSome then none else source, dest := dest, alt := alt
      altInUse := false, cls := cls, submitSeq := n, classEntry := s.msBase, state := .queued, suspended := false
      vehicle := none, bound := bound, declinedBy := none, flips := [] }
  (((s.setOrder o (some r)).enterQueue o).setTrigger, ⟨.ok, slot o ++ [cls.code] ++ opt1 Enc.vehicle bound⟩)

/-- A submission answered INTEGRITY: no slot, class or bound vehicle (R179). -/
def submitDamaged : Answer := ⟨.integrity, [0xFF, 0xFF, 0xFF, 0xFF]⟩

/-- R90 steps 5 to 7. All live orders are read before the first test on them, and all vehicles before the test on them, so a
submission answered DUPLICATE has read, and repaired, records past the first match (log entry 41). Damaged orders are freed
and the checks go on (R107). -/
def State.submitChecks (s : State) (l : LinkId) (tag : Half) (c : Carrier) (source : Option PortId)
    (dest : PortId) (alt : Option PortId) (cls : Cls) : State × Answer :=
  let s := (readAll read s.orderRefs s).1
  if s.liveNaming c then (s, .plain .duplicate)
  else
    let (s, bad) := readUntilBad read vehicleRefs s
    if bad then (s, submitDamaged)
    else if s.carriedElsewhere c then (s, .plain .duplicate)
    else if s.tagLive l tag then (s, .plain .duplicate)
    else match s.freeSlot with
      | none => (s, .plain .full)
      | some o => s.takeOrder l o tag c source dest alt cls

/-- R90, R91: SUBMIT_ORDER. -/
def execSubmitOrder (h : Hdr) (tag : Half) (carrier : CarrierField) (source dest alt cls : Byte) (s : State) :
    Host.Outcome State Fault Refusal :=
  s.request h .submitOrder fun s =>
    inRange (carrierId? carrier) s fun c => inRange (portOrNone? source) s fun source =>
    inRange (port? dest) s fun dest => inRange (portOrNone? alt) s fun alt => inRange (cls? cls) s fun cls =>
    if !s.portsFit source dest alt then (s, .plain .range)
    else if source.isSome then s.submitChecks h.link tag c source dest alt cls
    else
      let (s, bad) := readUntilBad read vehicleRefs s
      if bad then (s, submitDamaged)
      else if (s.bindTarget c).isNone then (s, .plain .state)
      else s.submitChecks h.link tag c source dest alt cls

/-! ## The order a request names (R93) -/

/-- R93, R107: the named order is read; it must be live under the tag and of the requesting link. `conflict` is a range
test on the order named (R95), made before ownership. -/
def State.withOrder (s : State) (l : LinkId) (o : Slot) (tag : Half) (conflict : OrderRec → Bool)
    (damaged : State → List Byte) (go : OrderRec → State → State × Answer) : State × Answer :=
  let (s, bad) := s.readOrder o
  if bad then (s, ⟨.integrity, damaged s⟩)
  else match s.order o with
    | none => (s, .plain .unknown)
    | some r =>
      if r.tag ≠ tag then (s, .plain .unknown)
      else if conflict r then (s, .plain .range)
      else if r.origin ≠ l then (s, .plain .notYours)
      else go r s

/-- The vehicle of an order is read before the request's first effect (log entry 11). -/
def State.withVehicleOf (s : State) (r : OrderRec) (damaged : State → List Byte) (go : State → State × Answer) :
    State × Answer :=
  match r.vehicle with
  | some v => s.withVehicle v damaged go
  | none => go s

/-! ## CANCEL_ORDER -/

/-- R94: the reply's fields, from the order as it stands. -/
def State.cancelFields (s : State) (o : Slot) : List Byte :=
  match s.order o with
  | some r => [r.state.code] ++ opt1 Enc.vehicle r.vehicle
  | none => [0xFF, 0xFF]

/-- R94, rows OFFERED and TO_SOURCE: the vehicle is told, its order field cleared, and it enters IDLE, or LOADED_IDLE from
the offer of an order bound to it. True when the entry to IDLE met a damaged record. -/
def State.cancelVehicle (s : State) (o : Slot) (v : VehicleId) (bound : Bool) : State × Bool :=
  let s := s.noteWithdraw v o .cancelled
  let s := s.updVehicle v fun r => { r with offer := none, order := none }
  if bound then (s.enterLoadedIdle v (s.vehicle v).carrier, false) else s.enterIdle read v

/-- R94: the effects by the order's state. VEHICLE_STATE comes last (R61). -/
def State.cancel (s : State) (o : Slot) (r : OrderRec) : State × Bool :=
  match r.state, r.vehicle with
  | .queued, _ => (s.freeOrder o, false)
  | _, some v =>
    let was := (s.vehicle v).state
    let (s, bad) := s.cancelVehicle o v (r.state = .offered ∧ r.bound = some v)
    ((s.freeOrder o).noteVehicle v was, bad)
  | _, none => (s.freeOrder o, false)

/-- R94: CANCEL_ORDER. -/
def execCancelOrder (h : Hdr) (slot tag : Half) (s : State) : Host.Outcome State Fault Refusal :=
  s.request h .cancelOrder fun s =>
    inRange (slot? slot) s fun o =>
    s.withOrder h.link o tag (fun _ => false) (·.cancelFields o) fun r s =>
    if r.state = .carrying then (s, .plain .state)
    else
      s.withVehicleOf r (·.cancelFields o) fun s =>
      let fields := s.cancelFields o
      let (s, bad) := s.cancel o r
      (s, ⟨okOr bad, fields⟩)

/-! ## REDIRECT_ORDER -/

/-- R95: the new destination or alternate is the order's source. -/
def OrderRec.sourceConflict (r : OrderRec) (dest : PortId) (alt : Option PortId) : Bool :=
  r.source.any fun p => p = dest ∨ some p = alt

/-- R95 step 2: why the new destination is not usable by this order, with the reserving slot when it is reserved. -/
def State.redirectRefusal (s : State) (o : Slot) (dest : PortId) : Option (RedirectReason × Option Slot) :=
  if (s.port dest).down then some (.down, none)
  else match (s.port dest).reservation with
    | some x => if x.slot = o ∧ x.kind = .drop then none else some (.reserved, some x.slot)
    | none => none

/-- R96: TO_SOURCE or CARRYING, where the order holds a DROP reservation and has a vehicle to reroute. -/
def OrderRec.inField (r : OrderRec) : Bool := r.state = .toSource || r.state = .carrying

/-- R96: the effects in order. -/
def State.redirect (s : State) (o : Slot) (r : OrderRec) (dest : PortId) (alt : Option PortId) : State :=
  let s := if r.inField ∧ r.destInUse ≠ dest then s.releasePort o r.destInUse else s
  let s := s.setOrder o (some { r with dest := dest, alt := alt, altInUse := false })
  if r.inField then
    let s := s.reserve dest o .drop
    match r.vehicle with
    | some v => s.noteReroute v o .redirect dest alt
    | none => s
  else s

/-- An INTEGRITY answer carries the destination in use as the repair left it, twice (log entry 15). -/
def State.redirectDamaged (s : State) (o : Slot) : List Byte :=
  match s.order o with
  | some r => Enc.port r.destInUse ++ Enc.port r.destInUse
  | none => [0xFF, 0xFF]

/-- R95, R96: REDIRECT_ORDER. -/
def execRedirectOrder (h : Hdr) (slot tag : Half) (dest alt : Byte) (s : State) : Host.Outcome State Fault Refusal :=
  s.request h .redirectOrder fun s =>
    inRange (slot? slot) s fun o => inRange (port? dest) s fun dest => inRange (portOrNone? alt) s fun alt =>
    if !s.portsFit none dest alt then (s, .plain .range)
    else
      s.withOrder h.link o tag (·.sourceConflict dest alt) (·.redirectDamaged o) fun r s =>
      if r.state = .offered then (s, .plain .state)
      else match s.redirectRefusal o dest with
        | some (reason, x) => (s, ⟨.full, [reason.code] ++ opt2 Enc.slot x⟩)
        | none =>
          s.withVehicleOf r (·.redirectDamaged o) fun s =>
          (s.redirect o r dest alt, ⟨.ok, Enc.port r.destInUse ++ Enc.port dest⟩)

/-! ## RECLASS_ORDER -/

/-- R97: in QUEUED the order is queued anew by its submit sequence with a new class entry time; otherwise only its class
changes. -/
def State.reclass (s : State) (o : Slot) (r : OrderRec) (c : Cls) : State :=
  if r.state = .queued then
    ((s.leaveQueue o).setOrder o (some { r with cls := c, classEntry := s.msBase })).enterQueue o
  else s.setOrder o (some { r with cls := c })

/-- R97: RECLASS_ORDER. -/
def execReclassOrder (h : Hdr) (slot tag : Half) (cls : Byte) (s : State) : Host.Outcome State Fault Refusal :=
  s.request h .reclassOrder fun s =>
    inRange (slot? slot) s fun o => inRange (cls? cls) s fun c =>
    s.withOrder h.link o tag (fun _ => false) (fun _ => [0xFF]) fun r s =>
    ((s.reclass o r c).setTrigger, ⟨.ok, [r.cls.code]⟩)

/-! ## SET_PORT_STATE and SET_CLOCK -/

/-- R105: the flag is changed, PORT_STATE sent to the subscribed links, and the trigger set when an UP leaves the port
usable. -/
def State.setDown (s : State) (p : PortId) (down : Bool) : State :=
  if (s.port p).down = down then s
  else
    let s := s.setPort p { s.port p with down := down }
    let r := s.port p
    let s := s.notifyWhere (·.maskPort) (.portState p r.block down r.reservation)
    if s.usable p then s.setTrigger else s

/-- R105: SET_PORT_STATE. -/
def execSetPortState (h : Hdr) (port action : Byte) (s : State) : Host.Outcome State Fault Refusal :=
  s.request h .setPortState fun s =>
    inRange (port? port) s fun p => inRange (portAction? action) s fun down =>
    if s.mode ≠ .setup ∧ !s.placed p then (s, .plain .range)
    else
      let s := s.setDown p down
      (s, ⟨.ok, flag (s.port p).down ++ reservation (s.port p).reservation⟩)

/-- R148: SET_CLOCK: the clock takes the value and the divider restarts. -/
def execSetClock (h : Hdr) (seconds : Word) (s : State) : Host.Outcome State Fault Refusal :=
  s.request h .setClock fun s => ({ s with fabClock := seconds, divider := 0 }, ⟨.ok, bytes4 s.fabClock⟩)

end Sys2Proof.Machine
end

