-- ==== Sys2Proof/Machine/Query.lean ====
section
/-! DEFINITION. The seven requests of every role (R170 to R175): STATUS, CLEAR_ATTENTION, SET_NOTICE_MASK and the queries. -/

namespace Sys2Proof.Machine

open Enc

/-! ## STATUS (R170) -/

/-- The live orders of a class, QUEUED or not. -/
def State.classCount (s : State) (c : Cls) : Nat :=
  (s.orders.toList.filter fun x => x.any (·.cls = c)).length

/-- The vehicles in service, in any state but OFFLINE. -/
def State.inServiceCount (s : State) : Nat :=
  (s.vehicles.toList.filter fun r => r.state ≠ .offline).length

def State.statusFields (s : State) (l : LinkId) : List Byte :=
  [s.mode.code, (s.link l).attention.byte] ++ num (s.link l).queue.length
    ++ num2 (s.classCount .hot) ++ num2 (s.classCount .express) ++ num2 (s.classCount .standard)
    ++ num2 (s.classCount .bulk) ++ num s.inServiceCount

/-- R170: every live order and every vehicle is read, checked, and counted as the repairs leave it. The orders are read
first, then the vehicles (log entry 31). -/
def execStatus (h : Hdr) (s : State) : Host.Outcome State Fault Refusal :=
  s.request h .status fun s =>
    let (s, badOrder) := readAll read s.orderRefs s
    let (s, badVehicle) := readAll read vehicleRefs s
    (s, ⟨okOr (badOrder || badVehicle), s.statusFields h.link⟩)

/-! ## Attention and subscription -/

/-- R174: the causes named are cleared on the requesting link; the reply carries the summary before. -/
def execClearAttention (h : Hdr) (mask : Byte) (s : State) : Host.Outcome State Fault Refusal :=
  s.request h .clearAttention fun s =>
    inRange (Attention.ofMask mask) s fun named =>
    (s.updLink h.link fun k => { k with attention := k.attention.without named },
      ⟨.ok, [(s.link h.link).attention.byte]⟩)

/-- R175: the named link takes the mask; only a SERVICE link may name another. -/
def execSetNoticeMask (h : Hdr) (link mask : Byte) (s : State) : Host.Outcome State Fault Refusal :=
  s.request h .setNoticeMask fun s =>
    inRange (link? link) s fun l => inRange (noticeMask? mask) s fun m =>
    if (s.link h.link).role ≠ .service ∧ l ≠ h.link then (s, .plain .notYours)
    else
      (s.updLink l fun k => { k with maskVehicle := m.1, maskPort := m.2 },
        ⟨.ok, Enc.link l ++ [(s.link l).maskByte]⟩)

/-! ## Queries -/

/-- R171, R179: a vehicle record as QUERY_VEHICLE reports it. -/
def State.vehicleFields (s : State) (v : VehicleId) : List Byte :=
  let r := s.vehicle v
  Enc.vehicle v ++ vstate (some r.state) ++ opt1 (fun c => [StallCause.code c]) r.cause ++ vstate r.saved
    ++ opt1 Enc.link r.owner ++ opt2 slot r.order ++ carrier r.carrier ++ flag r.drain ++ bytes4 r.idleSeq
    ++ remaining r.silence ++ remaining r.offer ++ opt2 slot r.timedOut ++ opt2 Enc.block r.waitingOn
    ++ num r.holds.length ++ r.holds.flatMap Enc.block

/-- R171: QUERY_VEHICLE; a repaired record is reported with INTEGRITY. -/
def execQueryVehicle (h : Hdr) (vehicle : Byte) (s : State) : Host.Outcome State Fault Refusal :=
  s.request h .queryVehicle fun s =>
    inRange (vehicle? vehicle) s fun v =>
    let (s, bad) := s.readVehicle v
    (s, ⟨okOr bad, s.vehicleFields v⟩)

/-- R172: the position of a QUEUED order in its class queue, from the head. -/
def State.queuePosition (s : State) (o : Slot) (r : OrderRec) : Option Nat :=
  if r.state = .queued then (s.queues.get r.cls).idxOf? o else none

/-- R172, R179: an order slot as QUERY_ORDER reports it. -/
def State.orderFields (s : State) (o : Slot) : List Byte :=
  slot o ++
    match s.order o with
    | none => flag false
    | some r =>
      flag true ++ Enc.link r.origin ++ bytes2 r.tag ++ carrier r.carrier ++ opt1 Enc.port r.source ++ Enc.port r.dest
        ++ opt1 Enc.port r.alt ++ flag r.altInUse ++ [r.cls.code] ++ bytes4 r.submitSeq
        ++ elapsed (s.msBase - r.classEntry).toNat ++ [r.state.code] ++ flag r.suspended ++ opt1 Enc.vehicle r.vehicle
        ++ opt1 Enc.vehicle r.bound ++ opt1 Enc.vehicle r.declinedBy ++ opt2 Enc.block (s.portBlock? r.source)
        ++ opt2 Enc.block (s.portBlock r.destInUse) ++ opt2 num2 (s.queuePosition o r)

/-- R172: the search by tag among the live orders, ascending; a damaged record is repaired and passed over. -/
def State.searchTag (l : LinkId) (tag : Half) : List Slot → State → State × Option Slot
  | [], s => (s, none)
  | o :: os, s =>
    let s := (s.readOrder o).1
    if (s.order o).any fun r => r.origin = l ∧ r.tag = tag then (s, some o) else State.searchTag l tag os s

/-- R172: QUERY_ORDER by slot (selector 00h) or by tag (selector 01h). -/
def execQueryOrder (h : Hdr) (selector : Byte) (value : Half) (s : State) : Host.Outcome State Fault Refusal :=
  s.request h .queryOrder fun s =>
    if selector = 0 then
      inRange (slot? value) s fun o =>
      let (s, bad) := s.readOrder o
      (s, ⟨okOr bad, s.orderFields o⟩)
    else if selector = 1 then
      match State.searchTag h.link value s.liveSlots s with
      | (s, some o) => (s, ⟨.ok, s.orderFields o⟩)
      | (s, none) => (s, .plain .unknown)
    else (s, .plain .range)

/-- R171: the lowest-numbered active fence slot that covers the block. -/
def State.coveringFence (s : State) (b : BlockId) : Option FenceId :=
  (List.finRange 16).find? fun f => (s.fence f).covers b

/-- R171, R179: a block record as QUERY_BLOCK reports it. -/
def State.blockFields (s : State) (b : BlockId) : List Byte :=
  let r := s.block b
  Enc.block b ++ [r.fixed.kind.code] ++ Enc.bay r.fixed.bay ++ num r.fixed.succs.length ++ opt2 Enc.block r.fixed.succs[0]?
    ++ opt2 Enc.block r.fixed.succs[1]? ++ opt1 Enc.port r.fixed.port ++ holder r.holder ++ flag r.frozen
    ++ opt1 Enc.fence (s.coveringFence b) ++ num r.waiters.length
    ++ r.waiters.flatMap fun w => Enc.vehicle w.vehicle ++ bytes4 w.seq ++ elapsed (s.msBase - w.entry).toNat

/-- R171: QUERY_BLOCK; a repaired record is reported with INTEGRITY. -/
def execQueryBlock (h : Hdr) (block : Half) (s : State) : Host.Outcome State Fault Refusal :=
  s.request h .queryBlock fun s =>
    inRange (block? block) s fun b =>
    let (s, bad) := s.readBlock b
    (s, ⟨okOr bad, s.blockFields b⟩)

/-- R172: QUERY_PORT; port records carry no check word. -/
def execQueryPort (h : Hdr) (port : Byte) (s : State) : Host.Outcome State Fault Refusal :=
  s.request h .queryPort fun s =>
    inRange (port? port) s fun p =>
    let r := s.port p
    (s, ⟨.ok, Enc.port p ++ opt2 Enc.block r.block ++ flag r.down ++ reservation r.reservation ++ flag (s.usable p)⟩)

end Sys2Proof.Machine
end

