-- ==== Sys2Proof/Machine/Claims.lean ====
section
/-! DEFINITION. CLAIM, POSITION and RELEASE_AHEAD (R23 to R35, R41, R64). -/

namespace Sys2Proof.Machine

open Enc

/-! ## CLAIM -/

/-- R24 check 3: each listed block is a successor of the one before it. -/
def State.chained (s : State) (front : BlockId) : List BlockId → Bool
  | [] => true
  | b :: bs => (s.static front).succs.contains b && State.chained s b bs

/-- R24 check 3: the list goes on from the vehicle's front block. -/
def State.goesOn (s : State) (v : VehicleId) (bs : List BlockId) : Bool :=
  match (s.vehicle v).holds.getLast? with
  | some front => s.chained front bs
  | none => false

/-- R24 check 4: no listed block is held, none is listed twice. -/
def State.claimFresh (s : State) (v : VehicleId) (bs : List BlockId) : Bool :=
  bs.all (fun b => !(s.vehicle v).holds.contains b) && decide bs.Nodup

/-- How a claim walk ended (R30). -/
structure Walk where
  code    : ResultCode
  granted : Nat
  stop    : Option BlockId
  reason  : Option ClaimReason
  deriving DecidableEq, Repr

/-- R26, R27: the walk ends PARTIAL at a block. -/
def Walk.partialAt (n : Nat) (b : BlockId) (r : ClaimReason) : Walk := ⟨.partialGrant, n, some b, some r⟩

/-- R27: the claim tries to wait at a held block whose record has been read. The records of the chain of waits are read by
the cycle check, and those of a due renumbering before the entry is made; a chain freeze there may have frozen the block
itself, which is looked at again (log entries 12 and 36). -/
def State.tryWait (s : State) (v : VehicleId) (b : BlockId) (n : Nat) : State × Walk :=
  if 8 ≤ (s.block b).waiters.length then (s, .partialAt n b .waitFull)
  else
    let (s, cycle) := State.closesCycle v 130 b s
    if cycle then (s, .partialAt n b .cycle)
    else if (s.block b).frozen then (s, .partialAt n b .frozen)
    else
      let (s, bad) := s.readyWaiterSeq read
      if (s.block b).frozen then (s, ⟨.unless bad .partialGrant, n, some b, some .frozen⟩)
      else (s.enterWait v b, ⟨.unless bad .queued, n, some b, none⟩)

/-- R25 to R27: the claim walk; `n` blocks are granted so far. -/
def State.walk (v : VehicleId) : List BlockId → Nat → State → State × Walk
  | [], n, s => (s, ⟨.ok, n, none, none⟩)
  | b :: bs, n, s =>
    if s.fenced b then (s, .partialAt n b .fenced)
    else
      let s := (s.readBlock b).1
      if (s.block b).frozen then (s, .partialAt n b .frozen)
      else if (s.block b).holder = .none then State.walk v bs (n + 1) (s.grant b v)
      else s.tryWait v b n

/-- R30, R179: the fields of a claim's reply. -/
def Walk.fields (v : VehicleId) (w : Walk) : List Byte :=
  Enc.vehicle v ++ num w.granted ++ opt2 Enc.block w.stop ++ opt1 (fun r => [ClaimReason.code r]) w.reason

/-- R23 to R30: CLAIM. -/
def execClaim (h : Hdr) (vehicle : Byte) (blocks : List Half) (s : State) : Host.Outcome State Fault Refusal :=
  s.request h .claim fun s =>
    inRange (vehicle? vehicle) s fun v => inRange (blocks? blocks) s fun bs =>
    if bs = [] ∨ 5 < bs.length then (s, .plain .range)
    else if !bs.all s.used then (s, .plain .unknown)
    else
      s.withOwned h.link v (fun _ => Walk.fields v ⟨.integrity, 0, none, none⟩) fun s =>
      let r := s.vehicle v
      if r.state = .stalled ∨ r.waitingOn.isSome ∨ !s.goesOn v bs then (s, .plain .state)
      else if !s.claimFresh v bs then (s, .plain .duplicate)
      else if 6 < r.holds.length + bs.length then (s, .plain .full)
      else
        let (s, w) := State.walk v bs 0 s
        (s.restartSilence v, ⟨w.code, w.fields v⟩)

/-! ## POSITION -/

/-- The blocks behind the named block, rear first (R33). -/
def VehicleRec.behind (r : VehicleRec) (b : BlockId) : List BlockId := r.holds.takeWhile (· ≠ b)

/-- R63: the owning link, or the link that owns the bay of the named block. -/
def State.mayReport (s : State) (l : LinkId) (v : VehicleId) (b : BlockId) : Bool :=
  (s.vehicle v).owner = some l || s.bayOwner b = some l

/-- The bay of a vehicle's position block. -/
def State.bayOf (s : State) (v : VehicleId) : Option BayId := (s.vehicle v).position.map fun b => (s.static b).bay

/-- R33, R41, R64, R109: the releases, the owning link, the silence countdown, and the trigger when an IDLE vehicle has
changed bay. A change of the vehicle that a repair within the releases makes has the repair's own notice; R61 is applied to
the change of owner alone (log entry 40). -/
def State.reportPosition (s : State) (v : VehicleId) (b : BlockId) : State × Answer :=
  let bay := s.bayOf v
  let (s, rel) := State.releaseUntil s v ((s.vehicle v).behind b)
  let before := s.vehicle v
  let s := (s.setOwner v).restartSilence v
  let s := if (s.vehicle v).state = .idle ∧ s.bayOf v ≠ bay then s.setTrigger else s
  (s.noteVehicleIfChanged v before, ⟨okOr rel.bad, num rel.count ++ opt2 Enc.block rel.damaged⟩)

/-- R32, R33: POSITION. -/
def execPosition (h : Hdr) (vehicle : Byte) (block : Half) (s : State) : Host.Outcome State Fault Refusal :=
  s.request h .position fun s =>
    inRange (vehicle? vehicle) s fun v => inRange (block? block) s fun b =>
    if !s.used b then (s, .plain .unknown)
    else
      s.withVehicle v (fun _ => num 0 ++ opt2 Enc.block none) fun s =>
      if !s.mayReport h.link v b then (s, .plain .notYours)
      else if (s.vehicle v).state = .offline ∨ (s.vehicle v).state = .stalled then (s, .plain .state)
      else if !(s.vehicle v).holds.contains b then (s, .plain .notHeld)
      else s.reportPosition v b

/-! ## RELEASE_AHEAD -/

/-- The reply's fields (R34, R179). -/
def State.releaseAheadFields (s : State) (v : VehicleId) (count : Nat) (removed damaged : Option BlockId) : List Byte :=
  num count ++ opt2 Enc.block (s.vehicle v).holds.getLast? ++ opt2 Enc.block removed ++ opt2 Enc.block damaged

/-- R34: the wait ends, then `count` blocks are released, front first. A damaged waited block does not stop the releases
(log entry 13). -/
def State.releaseAhead (s : State) (v : VehicleId) (count : Nat) : State × Answer :=
  let (s, u) := s.endWait v
  let (s, rel) := State.releaseUntil s v ((s.vehicle v).holds.reverse.take count)
  let damaged := u.damaged.or rel.damaged
  let s := s.restartSilence v
  (s, ⟨okOr (u.damaged.isSome || rel.bad), s.releaseAheadFields v rel.count u.removed damaged⟩)

/-- R34: RELEASE_AHEAD. -/
def execReleaseAhead (h : Hdr) (vehicle count : Byte) (s : State) : Host.Outcome State Fault Refusal :=
  s.request h .releaseAhead fun s =>
    inRange (vehicle? vehicle) s fun v =>
    if 5 < count.toNat then (s, .plain .range)
    else
      s.withOwned h.link v (fun s => s.releaseAheadFields v 0 none none) fun s =>
      if (s.vehicle v).state = .offline ∨ (s.vehicle v).state = .stalled then (s, .plain .state)
      else if (s.vehicle v).holds.length ≤ count.toNat then (s, .plain .range)
      else s.releaseAhead v count.toNat

end Sys2Proof.Machine
end

