-- ==== Sys2Proof/Machine/Roster.lean ====
section
/-! DEFINITION. The roster requests: JOIN, LEAVE, HEARTBEAT, FAULT, RECOVER (R65 to R77) and DRAIN, RESTORE, EVICT
(R78 to R82). -/

namespace Sys2Proof.Machine

open Enc

/-! ## JOIN -/

/-- R65 step 6 for a carrier id: the vehicles are read, then the live orders, each table whole before the test on it (log
entry 41); a damaged record ends the request (log entry 11). -/
def State.joinCarrier (s : State) (v : VehicleId) (c : Carrier) (damaged : State → List Byte)
    (go : State → State × Answer) : State × Answer :=
  match c with
  | .id _ =>
    let (s, bad) := readUntilBad read vehicleRefs s
    if bad then (s, ⟨.integrity, damaged s⟩)
    else if s.otherCarrying v c then (s, .plain .duplicate)
    else
      let (s, bad) := readUntilBad read s.orderRefs s
      if bad then (s, ⟨.integrity, damaged s⟩)
      else if s.workedNaming c then (s, .plain .duplicate)
      else go s
  | _ => go s

/-- R38, R66 steps 1 and 2. -/
def State.joinRail (s : State) (l : LinkId) (v : VehicleId) (b : BlockId) : State :=
  (s.updBlock b fun r => { r with holder := .vehicle v }).updVehicle v fun r =>
    { r with
      holds := [b], waitingOn := none, owner := some l, cause := none, saved := none, drain := false, order := none
      timedOut := none }

/-- R66 step 3; true when the entry to IDLE met a damaged record. -/
def State.joinState (s : State) (v : VehicleId) (c : Carrier) : State × Bool :=
  if c = .none then s.enterIdle read v else (s.enterLoadedIdle v c, false)

/-- The fields of JOIN's reply (R179). -/
def State.joinFields (s : State) (v : VehicleId) (bound : Option Slot) : List Byte :=
  [(s.vehicle v).state.code] ++ opt2 slot bound

/-- R66: an accepted JOIN. -/
def State.joinVehicle (s : State) (l : LinkId) (v : VehicleId) (b : BlockId) (c : Carrier) : State × Answer :=
  let (s, bad) := (s.joinRail l v b).joinState v c
  let (s, bound) := s.bindCarrier v c
  let s := ((s.restartSilence v).setTrigger).noteVehicle v .offline
  (s, ⟨okOr bad, s.joinFields v bound⟩)

/-- R65, R66: JOIN. -/
def execJoin (h : Hdr) (vehicle : Byte) (block : Half) (carrier : CarrierField) (s : State) :
    Host.Outcome State Fault Refusal :=
  s.request h .join fun s =>
    inRange (vehicle? vehicle) s fun v => inRange (block? block) s fun b => inRange (carrier? carrier) s fun c =>
    if !s.used b ∨ s.bayOwner b ≠ some h.link then (s, .plain .range)
    else
      s.withVehicle v (·.joinFields v none) fun s =>
      if (s.vehicle v).state ≠ .offline then (s, .plain .state)
      else
        let (s, bad) := s.readBlock b
        if bad then (s, ⟨.integrity, s.joinFields v none⟩)
        else if (s.block b).holder ≠ .none ∨ (s.block b).frozen then (s, .plain .held)
        else s.joinCarrier v c (·.joinFields v none) fun s => s.joinVehicle h.link v b c

/-! ## LEAVE -/

/-- The fields of LEAVE's reply (R179). -/
def leaveFields (count : Nat) (removed damaged : Option BlockId) : List Byte :=
  num count ++ opt2 Enc.block removed ++ opt2 Enc.block damaged

/-- R67: what becomes of the roster fields. -/
def VehicleRec.left (r : VehicleRec) : VehicleRec :=
  { r with state := .offline, owner := none, silence := none, drain := false }

/-- R39, R41, R67: an accepted LEAVE. -/
def State.leaveRail (s : State) (v : VehicleId) : State × Answer :=
  let was := (s.vehicle v).state
  let (s, u) := s.endWait v
  let (s, rel) := State.releaseEvery s v (s.vehicle v).holds
  let damaged := u.damaged.or rel.damaged
  ((s.updVehicle v VehicleRec.left).noteVehicle v was,
    ⟨okOr (u.damaged.isSome || rel.bad), leaveFields rel.count u.removed damaged⟩)

/-- R67: LEAVE. -/
def execLeave (h : Hdr) (vehicle : Byte) (s : State) : Host.Outcome State Fault Refusal :=
  s.request h .leave fun s =>
    inRange (vehicle? vehicle) s fun v =>
    s.withOwned h.link v (fun _ => leaveFields 0 none none) fun s =>
    if (s.vehicle v).state = .idle ∨ (s.vehicle v).state = .withdrawn then s.leaveRail v else (s, .plain .state)

/-! ## HEARTBEAT -/

/-- R70, R179: the fields of HEARTBEAT's reply. -/
def State.heartbeatFields (s : State) (v : VehicleId) : List Byte :=
  let r := s.vehicle v
  [r.state.code] ++ opt1 (fun c => [StallCause.code c]) r.cause ++ vstate r.saved ++ flag r.drain ++ opt2 slot r.order
    ++ num r.holds.length

/-- R70: HEARTBEAT. -/
def execHeartbeat (h : Hdr) (vehicle : Byte) (s : State) : Host.Outcome State Fault Refusal :=
  s.request h .heartbeat fun s =>
    inRange (vehicle? vehicle) s fun v =>
    s.withOwned h.link v (·.heartbeatFields v) fun s =>
    let s := s.restartSilence v
    (s, ⟨.ok, s.heartbeatFields v⟩)

/-! ## FAULT -/

/-- R71, R179: the fields of FAULT's reply. -/
def faultFields (saved : Option VState) (d : Option (Slot × Disposition)) : List Byte :=
  vstate saved ++ opt2 slot (d.map (·.1)) ++ opt1 (fun x => [Disposition.code x]) (d.map (·.2))

/-- R71: FAULT. A rebuilt vehicle's order, when it still has one, was suspended by the rebuild (R74) and is reported so; an
order that the rebuild requeued is no longer the vehicle's, and slot and disposition are none (log entry 15). -/
def execFault (h : Hdr) (vehicle : Byte) (s : State) : Host.Outcome State Fault Refusal :=
  s.request h .fault fun s =>
    inRange (vehicle? vehicle) s fun v =>
    s.withOwned h.link v
      (fun s => faultFields (s.vehicle v).saved ((s.vehicle v).order.map fun o => (o, .suspended))) fun s =>
    if (s.vehicle v).state = .stalled then (s, .plain .state)
    else
      let (s, d) := s.stall v .fault
      (s, ⟨okOr d.bad, faultFields (s.vehicle v).saved d.order⟩)

/-! ## RECOVER -/

/-- The fields of RECOVER's reply (R179). -/
def State.recoverFields (s : State) (v : VehicleId) (count : Nat) (damaged : Option BlockId) : List Byte :=
  [(s.vehicle v).state.code] ++ num count ++ opt2 Enc.block damaged

/-- R77 steps 2 and 3: the vehicle returns to its saved state; true when an entry to IDLE met a damaged record. -/
def State.unstall (s : State) (v : VehicleId) : State × Bool :=
  let r := s.vehicle v
  let s := s.updVehicle v fun r => { r with cause := none, saved := none }
  match r.saved with
  | some .idle => s.enterIdle read v
  | some .loadedIdle => (s.enterLoadedIdle v r.carrier, false)
  | some .toDest =>
    let s := s.updVehicle v fun r => { r with state := .toDest }
    match r.order with
    | some o => (s.unsuspend o, false)
    | none => (s, false)
  | some x => (s.updVehicle v fun r => { r with state := x }, false)
  | none => (s, false)

/-- R77, R41: an accepted RECOVER. The suspended order is read first; when it was damaged its repair has saved LOADED_IDLE
and the vehicle recovers to that (log entry 11). A damaged block stops the releases and leaves the vehicle STALLED. -/
def State.recoverVehicle (s : State) (v : VehicleId) (b : BlockId) : State × Answer :=
  let (s, badOrder) := s.readOrderOf v
  let (s, rel) := State.releaseUntil s v ((s.vehicle v).behind b)
  let before := s.vehicle v
  let s := s.setOwner v
  let (s, badIdle) := if rel.damaged.isSome then (s, false) else s.unstall v
  let s := if rel.damaged.isSome then s else s.restartSilence v
  let s := s.noteVehicleIfChanged v before
  (s, ⟨okOr (badOrder || rel.bad || badIdle), s.recoverFields v rel.count rel.damaged⟩)

/-- R76: STALLED with cause LOST or FAULT. -/
def VehicleRec.recoverable (r : VehicleRec) : Bool :=
  r.state = .stalled && (r.cause = some .lost || r.cause = some .fault)

/-- R76, R77: RECOVER. -/
def execRecover (h : Hdr) (vehicle : Byte) (block : Half) (s : State) : Host.Outcome State Fault Refusal :=
  s.request h .recover fun s =>
    inRange (vehicle? vehicle) s fun v => inRange (block? block) s fun b =>
    if !s.used b then (s, .plain .unknown)
    else
      s.withVehicle v (fun s => s.recoverFields v 0 none) fun s =>
      if !s.mayReport h.link v b then (s, .plain .notYours)
      else if !(s.vehicle v).recoverable then (s, .plain .state)
      else if !(s.vehicle v).holds.contains b then (s, .plain .notHeld)
      else s.recoverVehicle v b

/-! ## DRAIN and RESTORE -/

/-- R78, R79, R179: state and drain-pending. -/
def State.drainFields (s : State) (v : VehicleId) : List Byte :=
  [(s.vehicle v).state.code] ++ flag (s.vehicle v).drain

/-- R78: the effect by state. -/
def State.drainVehicle (s : State) (v : VehicleId) : State :=
  match (s.vehicle v).state with
  | .idle => (s.updVehicle v fun r => { r with state := .withdrawn }).noteVehicle v .idle
  | .withdrawn => s
  | _ => s.updVehicle v fun r => { r with drain := true }

/-- R78: DRAIN. -/
def execDrain (h : Hdr) (vehicle : Byte) (s : State) : Host.Outcome State Fault Refusal :=
  s.request h .drain fun s =>
    inRange (vehicle? vehicle) s fun v =>
    s.withVehicle v (·.drainFields v) fun s =>
    if (s.vehicle v).state = .offline then (s, .plain .state)
    else
      let s := s.drainVehicle v
      (s, ⟨.ok, s.drainFields v⟩)

/-- R79: drain-pending is cleared; a WITHDRAWN vehicle then enters IDLE. True when that entry met a damaged record. -/
def State.restoreVehicle (s : State) (v : VehicleId) : State × Bool :=
  let was := (s.vehicle v).state
  let s := s.updVehicle v fun r => { r with drain := false }
  if was = .withdrawn then
    let (s, bad) := s.enterIdle read v
    (s.noteVehicle v .withdrawn, bad)
  else (s, false)

/-- R79: RESTORE. -/
def execRestore (h : Hdr) (vehicle : Byte) (s : State) : Host.Outcome State Fault Refusal :=
  s.request h .restore fun s =>
    inRange (vehicle? vehicle) s fun v =>
    s.withVehicle v (·.drainFields v) fun s =>
    if (s.vehicle v).state = .offline then (s, .plain .state)
    else
      let (s, bad) := s.restoreVehicle v
      (s, ⟨okOr bad, s.drainFields v⟩)

/-! ## EVICT -/

/-- The fields of EVICT's reply (R179). -/
def evictFields (count : Nat) (o : Option Slot) (c : Carrier) (damaged : Option BlockId) : List Byte :=
  num count ++ opt2 slot o ++ carrier c ++ opt2 Enc.block damaged

/-- R40, R81, R82: an in-service vehicle, whose record has been read, is taken out of service. Its order is read first and
all live orders before the binding is cleared (log entry 11); `bad` says that the vehicle's own record was damaged. -/
def State.evictVehicle (s : State) (v : VehicleId) (bad : Bool) : State × Answer :=
  let (s, badOrder) := s.readOrderOf v
  let before := s.vehicle v
  let (s, u) := s.endWait v
  let (s, rel) := State.releaseEvery s v (s.vehicle v).holds
  let (s, o) := s.evictOrder v
  let (s, badBook) := readAll read s.orderRefs s
  let s := ((s.unbind v).updVehicle v VehicleRec.evicted).noteVehicle v before.state
  let damaged := u.damaged.or rel.damaged
  (s, ⟨okOr (bad || badOrder || badBook || u.damaged.isSome || rel.bad), evictFields rel.count o before.carrier damaged⟩)

/-- R81: EVICT. A damaged record does not stop it (R84). -/
def execEvict (h : Hdr) (vehicle : Byte) (s : State) : Host.Outcome State Fault Refusal :=
  s.request h .evict fun s =>
    inRange (vehicle? vehicle) s fun v =>
    let (s, bad) := s.readVehicle v
    if (s.vehicle v).state = .offline then
      (s, if bad then ⟨.integrity, evictFields 0 none .none none⟩ else .plain .state)
    else s.evictVehicle v bad

end Sys2Proof.Machine
end

