-- ==== Sys2Proof/Machine/Service.lean ====
section
/-! DEFINITION. The console's settings: fences (R53, R54), timing and weights (R49, R149 to R152), THAW (R143) and the
capture record (R144). -/

namespace Sys2Proof.Machine

open Enc

/-! ## Fences -/

/-- A fence slot as a reply carries it (R53, R54). -/
def Fence.fields (f : Fence) : List Byte := flag f.active ++ Enc.block f.first ++ Enc.block f.last

/-- R53, R54: the slot takes its new value, then the arbiters of the blocks it covered before run, ascending. -/
def State.moveFence (s : State) (f : FenceId) (new : Fence) : State :=
  (s.setFence f new).askArbiters (allBlocks.filter (s.fence f).covers)

/-- R53: SET_FENCE. -/
def execSetFence (h : Hdr) (fence : Byte) (first last : Half) (s : State) : Host.Outcome State Fault Refusal :=
  s.request h .setFence fun s =>
    inRange (fence? fence) s fun f => inRange (block? first) s fun first => inRange (block? last) s fun last =>
    if last < first then (s, .plain .range)
    else (s.moveFence f ⟨true, first, last⟩, ⟨.ok, (s.fence f).fields⟩)

/-- R54: CLEAR_FENCE; the slot keeps its first and last block. -/
def execClearFence (h : Hdr) (fence : Byte) (s : State) : Host.Outcome State Fault Refusal :=
  s.request h .clearFence fun s =>
    inRange (fence? fence) s fun f =>
    (s.moveFence f { s.fence f with active := false }, ⟨.ok, (s.fence f).fields⟩)

/-! ## SET_TIMING -/

/-- R150: what the change of the silence limit does to a countdown. -/
def VehicleRec.silenceChange (old new : Byte) (r : VehicleRec) : VehicleRec :=
  if old ≠ 0 ∧ new = 0 then { r with silence := none }
  else if old = 0 ∧ new ≠ 0 ∧ r.state ≠ .offline ∧ r.state ≠ .stalled then { r with silence := some (units new) }
  else r

/-- R150: the vehicles are read when the limit changes from or to 0. -/
def State.applySilence (old new : Byte) (s : State) : State × Bool :=
  if (old = 0) = (new = 0) then (s, false)
  else
    let (s, bad) := readAll read vehicleRefs s
    ({ s with vehicles := s.vehicles.map (VehicleRec.silenceChange old new) }, bad)

/-- R102: one order of a queue: promoted when it is due under the new time. -/
def State.promoteIfDue (s : State) (o : Slot) : State × Bool :=
  let (s, bad) := s.readOrder o
  (if (s.order o).any s.promotionDue then s.promote o else s, bad)

def State.promoteAllDue : List Slot → State → State × Bool
  | [], s => (s, false)
  | o :: os, s =>
    let (s1, bad) := s.promoteIfDue o
    let (s2, more) := State.promoteAllDue os s1
    (s2, bad || more)

/-- R102: a promotion time is lowered; from 0, which is never, to another value is lowered too (log entry 21). -/
def lowered (old new : Nat) : Bool := new ≠ 0 && (old = 0 || new < old)

/-- R102: the promotions of one class. -/
def State.applyPromotion (old new : Timing) (c : Cls) (s : State) : State × Bool :=
  if lowered (promoTime old c) (promoTime new c) then State.promoteAllDue (s.queues.get c) s else (s, false)

/-- R109, R151: a change of any reach limit sets the trigger. -/
def sameReach (a b : Timing) : Bool :=
  a.reachHot = b.reachHot && a.reachExpress = b.reachExpress && a.reachStandard = b.reachStandard
    && a.reachBulk = b.reachBulk

/-- R152: the interval being timed, after a change of the scrub interval. -/
def scrubChange (old new : Byte) (timer : Option Nat) : Option Nat :=
  if new = 0 then none else if old = 0 then some new.toNat else timer

/-- R149 to R152: the settings are written together, then the effects in order. -/
def State.setTiming (s : State) (new : Timing) : State × Bool :=
  let old := s.timing
  let s := { s with timing := new }
  let (s, bad1) := s.applySilence old.silence new.silence
  let (s, bad2) := s.applyPromotion old new .bulk
  let (s, bad3) := s.applyPromotion old new .standard
  let (s, bad4) := s.applyPromotion old new .express
  let s := if sameReach old new then s else s.setTrigger
  ({ s with scrubTimer := scrubChange old.scrub new.scrub s.scrubTimer }, bad1 || bad2 || bad3 || bad4)

/-- R149: SET_TIMING. -/
def execSetTiming (h : Hdr) (t : Timing) (s : State) : Host.Outcome State Fault Refusal :=
  s.request h .setTiming fun s =>
    if !timingInRange t then (s, .plain .range)
    else
      let (s', bad) := s.setTiming t
      (s', ⟨okOr bad, s.timing.bytes⟩)

/-! ## SET_WEIGHTS -/

/-- R49: SET_WEIGHTS. -/
def execSetWeights (h : Hdr) (w : Weights) (s : State) : Host.Outcome State Fault Refusal :=
  s.request h .setWeights fun s =>
    if !weightsInRange w then (s, .plain .range)
    else ({ s with weights := w }, ⟨.ok, w.bytes⟩)

/-! ## THAW -/

/-- R143: the vehicle whose holding list contains the block. -/
def State.lister (s : State) (b : BlockId) : Option VehicleId :=
  allVehicles.find? fun v => (s.vehicle v).holds.contains b

/-- R143: the mark is cleared; the lister becomes the holder, or the block is free and its arbiter asked. -/
def State.thaw (s : State) (b : BlockId) : State × Answer :=
  let s := (readAll read vehicleRefs s).1
  match s.lister b with
  | some v =>
    (s.updBlock b fun r => { r with frozen := false, holder := .vehicle v }, ⟨.ok, holder (.vehicle v)⟩)
  | none =>
    ((s.updBlock b fun r => { r with frozen := false, holder := .none }).askArbiter b, ⟨.ok, holder .none⟩)

/-- R143: THAW. -/
def execThaw (h : Hdr) (block : Half) (s : State) : Host.Outcome State Fault Refusal :=
  s.request h .thaw fun s =>
    inRange (block? block) s fun b =>
    let (s, bad) := s.readBlock b
    if bad then (s, ⟨.integrity, holder (s.block b).holder⟩)
    else if !(s.block b).frozen then (s, .plain .state)
    else s.thaw b

/-! ## The capture record (R144) -/

/-- R179: the capture fields; an empty record reads as zeros. -/
def captureFields : Option Capture → List Byte
  | some c => flag true ++ Enc.record c.record ++ [c.kind.code, c.finder.code] ++ bytes4 c.stamp ++ flag c.more
  | none => List.replicate 11 0

/-- R144: READ_CAPTURE. -/
def execReadCapture (h : Hdr) (s : State) : Host.Outcome State Fault Refusal :=
  s.request h .readCapture fun s =>
    (s, ⟨.ok, captureFields s.capture ++ num s.corrections ++ Enc.record s.cursor⟩)

/-- R144: CLEAR_CAPTURE. -/
def execClearCapture (h : Hdr) (s : State) : Host.Outcome State Fault Refusal :=
  s.request h .clearCapture fun s =>
    ({ s with capture := none, corrections := 0 }, ⟨.ok, captureFields s.capture ++ num s.corrections⟩)

end Sys2Proof.Machine
end

