-- ==== Sys2Proof/Machine/Receive.lean ====
section
/-! DEFINITION. The receiver (R157 to R159): one character at a time, a frame that passes its check carried out as the
request it spells. -/

namespace Sys2Proof.Machine

/-- A frame that passed its check is the command it spells (R158, R161). No other command is spelt by a frame. -/
def runRequest (i : Instr) (s : State) : Host.Outcome State Fault Refusal :=
  match i with
  | .unknownKindRequest l tag => execUnknownKindRequest l tag s
  | .status h => execStatus h s
  | .clearAttention h m => execClearAttention h m s
  | .setNoticeMask h k m => execSetNoticeMask h k m s
  | .queryVehicle h v => execQueryVehicle h v s
  | .queryOrder h x y => execQueryOrder h x y s
  | .queryBlock h b => execQueryBlock h b s
  | .queryPort h p => execQueryPort h p s
  | .submitOrder h t c p d a q => execSubmitOrder h t c p d a q s
  | .cancelOrder h o t => execCancelOrder h o t s
  | .redirectOrder h o t d a => execRedirectOrder h o t d a s
  | .reclassOrder h o t q => execReclassOrder h o t q s
  | .setPortState h p a => execSetPortState h p a s
  | .setClock h w => execSetClock h w s
  | .join h v b c => execJoin h v b c s
  | .leave h v => execLeave h v s
  | .position h v b => execPosition h v b s
  | .claim h v bs => execClaim h v bs s
  | .releaseAhead h v n => execReleaseAhead h v n s
  | .accept h v o p d c => execAccept h v o p d c s
  | .decline h v o => execDecline h v o s
  | .pickDone h v c => execPickDone h v c s
  | .dropDone h v => execDropDone h v s
  | .dropFail h v => execDropFail h v s
  | .fault h v => execFault h v s
  | .recover h v b => execRecover h v b s
  | .heartbeat h v => execHeartbeat h v s
  | .writeBlocks h rs => execWriteBlocks h rs s
  | .writePorts h rs => execWritePorts h rs s
  | .writeBay h a k row => execWriteBay h a k row s
  | .commitMap h => execCommitMap h s
  | .reopenMap h => execReopenMap h s
  | .setFence h f x y => execSetFence h f x y s
  | .clearFence h f => execClearFence h f s
  | .setTiming h t => execSetTiming h t s
  | .setWeights h w => execSetWeights h w s
  | .setLinkRate h k r => execSetLinkRate h k r s
  | .drain h v => execDrain h v s
  | .restore h v => execRestore h v s
  | .evict h v => execEvict h v s
  | .thaw h b => execThaw h b s
  | .readCapture h => execReadCapture h s
  | .clearCapture h => execClearCapture h s
  | .halt h => execHalt h s
  | .resume h => execResume h s
  | .softReset h => execSoftReset h s
  | _ => .next s

/-- R158: the two check bytes against the check computed over the length byte and the body. -/
def checkAgrees (len : Byte) (body : List Byte) (first second : Byte) : Bool := crc (len :: body) = first ++ second

/-- R158: the command that a frame with a good check spells on a link, from its body: kind, frame tag, fields. -/
def frameCommand (l : LinkId) (body : List Byte) : Option Instr :=
  match body with
  | kind :: tag :: fields => some (requestOfFrame l kind tag fields)
  | _ => none

/-- R157, R158: the second check byte. -/
def State.completeFrame (s : State) (l : LinkId) (len : Byte) (body : List Byte) (first second : Byte) :
    Host.Outcome State Fault Refusal :=
  if checkAgrees len body first second then
    match frameCommand l body with
    | some i => runRequest i s
    | none => .next (s.updLink l Link.dropFrame)
  else .next (s.updLink l Link.dropFrame)

/-- R157: the receiver after a character in BODY. -/
def Rx.afterBody (len : Byte) (got : List Byte) : Rx :=
  if got.length < len.toNat then .body len got else .check len got none

/-- R157: a length byte of 2 to 250. -/
def lengthFits (c : Byte) : Bool := 2 ≤ c.toNat && c.toNat ≤ maxBody

/-- R157, R159: a character received without a framing error, by the receiver's state. -/
def State.receive (s : State) (l : LinkId) (c : Byte) : Host.Outcome State Fault Refusal :=
  match (s.link l).rx with
  | .hunt => .next (if c = 0xE7 then s.updLink l fun k => { k with rx := .length, gapTimer := true } else s)
  | .length => .next (s.updLink l fun k => if lengthFits c then { k with rx := .body c [] } else k.dropFrame)
  | .body len got => .next (s.updLink l fun k => { k with rx := Rx.afterBody len (got ++ [c]) })
  | .check len got none => .next (s.updLink l fun k => { k with rx := .check len got (some c) })
  | .check len got (some first) => s.completeFrame l len got first c

/-- R157, R159: CHARACTER_RECEIVED. A DISABLED link's receiver ignores the line (R155). -/
def execCharacterReceived (l : LinkId) (c : Byte) (framing : Bool) (s : State) : Host.Outcome State Fault Refusal :=
  if (s.link l).role = .disabled then .next s
  else if framing then .next (s.dropFrame l)
  else s.receive l c

end Sys2Proof.Machine
end

