-- ==== Sys2Proof/Machine/Timers.lean ====
section
/-! DEFINITION. The events the part makes by itself on the millisecond base (R69, R101, R121, R136, R148) and the flip of a
record's bit (R132). A timer event whose time is not up has no effect (log entry 2). -/

namespace Sys2Proof.Machine

/-- R69: the silence countdown of an in-service vehicle that is not STALLED has run out. -/
def VehicleRec.silent (r : VehicleRec) : Bool := r.silence = some 0 && r.state ≠ .offline && r.state ≠ .stalled

/-- R69, R84: the vehicle becomes STALLED, cause LOST; a damaged record is repaired instead. -/
def execSilenceExpiry (v : VehicleId) (s : State) : Host.Outcome State Fault Refusal :=
  if !(s.vehicle v).silent then .next s
  else
    let (s, bad) := s.readVehicle v
    .next (if bad then s else (s.stall v .lost).1).endEvent

/-- R121: the offer countdown has run out. -/
def VehicleRec.offerExpired (r : VehicleRec) : Bool := r.offer = some 0 && r.state = .offered

/-- R121, R130: the offer is withdrawn, cause TIMEOUT; a damaged vehicle or order has ended it by its repair. -/
def execOfferExpiry (v : VehicleId) (s : State) : Host.Outcome State Fault Refusal :=
  if !(s.vehicle v).offerExpired then .next s
  else
    let (s, badVehicle) := s.readVehicle v
    match badVehicle, (s.vehicle v).order with
    | false, some o =>
      let (s, badOrder) := s.readOrder o
      .next (if badOrder then s else (s.withdrawOffer v o .timeout).1).endEvent
    | _, _ => .next s.endEvent

/-- R101, R107: the order goes one class up; a damaged one is gone. -/
def execPromotion (o : Slot) (s : State) : Host.Outcome State Fault Refusal :=
  if !(s.order o).any s.promotionDue then .next s
  else
    let (s, bad) := s.readOrder o
    .next (if bad then s else s.promote o).endEvent

/-! ## The scrub walk (R136) -/

/-- R136: the record the step examines and what the cursor names next. -/
def State.scrubPlan (s : State) : RecRef × RecRef :=
  match s.cursor with
  | .block b => (.block b, if b = 1023 then .vehicle 0 else .block (b + 1))
  | .vehicle v => (.vehicle v, if v = 127 then .order 0 else .vehicle (v + 1))
  | .order o =>
    match s.liveSlots.find? fun n => o ≤ n with
    | some n => (.order n, if n = 255 then .block 0 else .order (n + 1))
    | none => (.block 0, .block 1)

/-- R136, R152: the interval after a step, at the setting in force. -/
def State.scrubInterval (s : State) : Option Nat := if s.timing.scrub = 0 then none else some s.timing.scrub.toNat

/-- R136: one record is read and checked, the cursor moves on, the next interval begins. -/
def execScrubStep (s : State) : Host.Outcome State Fault Refusal :=
  if s.scrubTimer ≠ some 0 then .next s
  else .next (scrubRead s.scrubPlan.1 { s with cursor := s.scrubPlan.2, scrubTimer := s.scrubInterval }).1.endEvent

/-! ## The fab clock (R148) -/

/-- R148: a nonzero clock advances, from its top to 1; a clock of 0 stays. -/
def advanceClock (c : Word) : Word := if c = 0 then 0 else if c = counterTop then 1 else c + 1

/-- R148: the divider passes 999. -/
def execFabClockAdvance (s : State) : Host.Outcome State Fault Refusal :=
  if s.divider ≠ 999 then .next s
  else .next { s with divider := 0, fabClock := advanceClock s.fabClock }

/-! ## Bit flips (R132) -/

/-- One bit flips, or flips back. -/
def toggle (bit : Nat) (flips : List Nat) : List Nat :=
  if flips.contains bit then flips.filter (· ≠ bit) else bit :: flips

/-- R132: a bit of a record flips. A free slot has no record that anything reads. -/
def execBitFlip (r : RecRef) (bit : Nat) (s : State) : Host.Outcome State Fault Refusal :=
  match r with
  | .block b => .next (s.updBlock b fun x => { x with flips := toggle bit x.flips })
  | .vehicle v => .next (s.updVehicle v fun x => { x with flips := toggle bit x.flips })
  | .order o => .next (s.updOrder o fun x => { x with flips := toggle bit x.flips })

end Sys2Proof.Machine
end

