-- ==== Sys2Proof/Machine/Dispatch.lean ====
section
/-! DEFINITION. The meaning of every command: one arm a row of spec/opcode_table.json. -/

namespace Sys2Proof.Machine

def exec (i : Instr) (s : State) : Host.Outcome State Fault Refusal :=
  match i with
  | .hardReset straps => Sys2Proof.Machine.execHardReset straps s
  | .linkReset l => Sys2Proof.Machine.execLinkReset l s
  | .frameDropped l => Sys2Proof.Machine.execFrameDropped l s
  | .rxGapTimeout l => Sys2Proof.Machine.execRxGapTimeout l s
  | .overrun l => Sys2Proof.Machine.execOverrun l s
  | .unknownKindRequest l tag => Sys2Proof.Machine.execUnknownKindRequest l tag s
  | .transmitComplete l => Sys2Proof.Machine.execTransmitComplete l s
  | .status h => Sys2Proof.Machine.execStatus h s
  | .clearAttention h mask => Sys2Proof.Machine.execClearAttention h mask s
  | .setNoticeMask h link mask => Sys2Proof.Machine.execSetNoticeMask h link mask s
  | .queryVehicle h vehicle => Sys2Proof.Machine.execQueryVehicle h vehicle s
  | .queryOrder h selector value => Sys2Proof.Machine.execQueryOrder h selector value s
  | .queryBlock h block => Sys2Proof.Machine.execQueryBlock h block s
  | .queryPort h port => Sys2Proof.Machine.execQueryPort h port s
  | .submitOrder h tag carrier source dest alt cls => Sys2Proof.Machine.execSubmitOrder h tag carrier source dest alt cls s
  | .cancelOrder h slot tag => Sys2Proof.Machine.execCancelOrder h slot tag s
  | .redirectOrder h slot tag dest alt => Sys2Proof.Machine.execRedirectOrder h slot tag dest alt s
  | .reclassOrder h slot tag cls => Sys2Proof.Machine.execReclassOrder h slot tag cls s
  | .setPortState h port action => Sys2Proof.Machine.execSetPortState h port action s
  | .setClock h seconds => Sys2Proof.Machine.execSetClock h seconds s
  | .join h vehicle block carrier => Sys2Proof.Machine.execJoin h vehicle block carrier s
  | .leave h vehicle => Sys2Proof.Machine.execLeave h vehicle s
  | .position h vehicle block => Sys2Proof.Machine.execPosition h vehicle block s
  | .claim h vehicle blocks => Sys2Proof.Machine.execClaim h vehicle blocks s
  | .releaseAhead h vehicle count => Sys2Proof.Machine.execReleaseAhead h vehicle count s
  | .accept h vehicle slot source dest carrier => Sys2Proof.Machine.execAccept h vehicle slot source dest carrier s
  | .decline h vehicle slot => Sys2Proof.Machine.execDecline h vehicle slot s
  | .pickDone h vehicle carrier => Sys2Proof.Machine.execPickDone h vehicle carrier s
  | .dropDone h vehicle => Sys2Proof.Machine.execDropDone h vehicle s
  | .dropFail h vehicle => Sys2Proof.Machine.execDropFail h vehicle s
  | .fault h vehicle => Sys2Proof.Machine.execFault h vehicle s
  | .recover h vehicle block => Sys2Proof.Machine.execRecover h vehicle block s
  | .heartbeat h vehicle => Sys2Proof.Machine.execHeartbeat h vehicle s
  | .writeBlocks h records => Sys2Proof.Machine.execWriteBlocks h records s
  | .writePorts h records => Sys2Proof.Machine.execWritePorts h records s
  | .writeBay h bay owner row => Sys2Proof.Machine.execWriteBay h bay owner row s
  | .commitMap h => Sys2Proof.Machine.execCommitMap h s
  | .reopenMap h => Sys2Proof.Machine.execReopenMap h s
  | .setFence h fence first last => Sys2Proof.Machine.execSetFence h fence first last s
  | .clearFence h fence => Sys2Proof.Machine.execClearFence h fence s
  | .setTiming h t => Sys2Proof.Machine.execSetTiming h t s
  | .setWeights h w => Sys2Proof.Machine.execSetWeights h w s
  | .setLinkRate h link rate => Sys2Proof.Machine.execSetLinkRate h link rate s
  | .drain h vehicle => Sys2Proof.Machine.execDrain h vehicle s
  | .restore h vehicle => Sys2Proof.Machine.execRestore h vehicle s
  | .evict h vehicle => Sys2Proof.Machine.execEvict h vehicle s
  | .thaw h block => Sys2Proof.Machine.execThaw h block s
  | .readCapture h => Sys2Proof.Machine.execReadCapture h s
  | .clearCapture h => Sys2Proof.Machine.execClearCapture h s
  | .halt h => Sys2Proof.Machine.execHalt h s
  | .resume h => Sys2Proof.Machine.execResume h s
  | .softReset h => Sys2Proof.Machine.execSoftReset h s
  | .silenceExpiry v => Sys2Proof.Machine.execSilenceExpiry v s
  | .offerExpiry v => Sys2Proof.Machine.execOfferExpiry v s
  | .promotion o => Sys2Proof.Machine.execPromotion o s
  | .scrubStep => Sys2Proof.Machine.execScrubStep s
  | .fabClockAdvance => Sys2Proof.Machine.execFabClockAdvance s
  | .dispatchDecision => Sys2Proof.Machine.execDispatchDecision s
  | .characterReceived l c framing => Sys2Proof.Machine.execCharacterReceived l c framing s
  | .bitFlip r bit => Sys2Proof.Machine.execBitFlip r bit s

end Sys2Proof.Machine
end

