-- ==== Sys2Proof/Machine/Tick.lean ====
section
/-! DEFINITION. What the part does by itself when no command waits (log entry 1): the Dispatch Engine asks for its next
decision, and otherwise one millisecond of the reference clock passes (R110, R147). -/

namespace Sys2Proof.Machine

/-- A countdown one millisecond later; at 0 its event is due and it stands (R147). -/
def countDown (c : Option Nat) : Option Nat := c.map (· - 1)

/-- R147: the countdowns of a vehicle one millisecond later. The check word follows (log entry 27). -/
def VehicleRec.tick (r : VehicleRec) : VehicleRec := { r with silence := countDown r.silence, offer := countDown r.offer }

/-- R147: the vehicles whose silence countdown has run out. -/
def State.dueSilences (s : State) : List Instr :=
  (allVehicles.filter fun v => (s.vehicle v).silent).map .silenceExpiry

/-- R147: the vehicles whose offer countdown has run out. -/
def State.dueOffers (s : State) : List Instr :=
  (allVehicles.filter fun v => (s.vehicle v).offerExpired).map .offerExpiry

/-- R101: the orders whose promotion is reached. -/
def State.duePromotions (s : State) : List Instr :=
  (s.liveSlots.filter fun o => (s.order o).any s.promotionDue).map .promotion

/-- R136: the scrub step, when the interval has elapsed. -/
def State.dueScrub (s : State) : List Instr := if s.scrubTimer = some 0 then [.scrubStep] else []

/-- R148: the event of the divider passing 999. It stands at 999 until that event takes it to 0. -/
def State.dueClock (before : State) : List Instr := if before.divider = 999 then [.fabClockAdvance] else []

/-- R147: events of one millisecond are taken in either order. Each next one is chosen among those left by a free value of
`Config`, numbered by `freeCount`; the last one left is no choice (log entry 3). -/
def orderEvents : Nat → List Instr → Nat → List Instr × Nat
  | 0, es, n => (es, n)
  | fuel + 1, es, n =>
    match es with
    | [] => ([], n)
    | [e] => ([e], n)
    | e :: e' :: rest =>
      let k := Config.tieChoice n % (rest.length + 2)
      let chosen := ((e :: e' :: rest)[k]?).getD e
      let (more, n') := orderEvents fuel ((e :: e' :: rest).eraseIdx k) (n + 1)
      (chosen :: more, n')

/-- R147: one millisecond of the base: every countdown and the divider move on, and what has become due joins the waiting
commands. -/
def State.tick (s : State) : State :=
  let t := { s with
    msBase := s.msBase + 1
    vehicles := s.vehicles.map VehicleRec.tick
    scrubTimer := countDown s.scrubTimer
    divider := if s.divider = 999 then 999 else s.divider + 1 }
  let due := s.dueClock ++ t.dueScrub ++ t.dueSilences ++ t.dueOffers ++ t.duePromotions
  let (events, n) := orderEvents due.length due s.freeCount
  { t with pending := t.pending ++ events, freeCount := n }

/-- R110, R147: the part with no command waiting. A decision takes no time of its own (log entry 1). -/
def State.idle (s : State) : State :=
  if s.trigger ∧ s.mode = .run then { s with pending := s.pending ++ [.dispatchDecision] } else s.tick

end Sys2Proof.Machine
end

