-- ==== Sys2Proof/Safety.lean ====
section
/-! DEFINITION. The vocabulary of the statements: a request that is taken and its answer, claims and releases as a whole, a
state with no damaged record, the laws of the tables and the invariant that every step keeps. -/

namespace Sys2Proof.Machine

/-! ## A request and its answer -/

/-- R161, R177: the link is not DISABLED (R155), its request slot is empty and the body length fits the kind. -/
abbrev State.free (s : State) (h : Hdr) : Prop :=
  (s.link h.link).role ≠ .disabled ∧ h.fits = true ∧ (s.link h.link).slot = none

/-- The same on a link of the given role (R155). -/
abbrev State.ready (s : State) (h : Hdr) (r : Role) : Prop :=
  (s.link h.link).role = r ∧ h.fits = true ∧ (s.link h.link).slot = none

/-- R161, R166 stages 1 and 2, R177: the link may send the kind in this mode, the body length fits and the request slot is
empty, so the request is taken and its own checks decide. -/
abbrev State.takes (s : State) (h : Hdr) (kind : ReqKind) : Prop :=
  ReqKind.permits kind (s.link h.link).role = true ∧ ReqKind.allowedIn kind s.mode = true ∧ h.fits = true ∧
    (s.link h.link).slot = none

/-- R161, R167: a link with a reply placed in its request slot, the frame that asked for it received. -/
def Link.replied (k : Link) (kind tag : Byte) (code : ResultCode) (fields : List Byte) : Link :=
  { k with rx := .hunt, gapTimer := false, slot := some ⟨⟨kind, tag, code, k.attention, fields⟩, false⟩ }

/-- R161, R162, R167: the end of a request's event: the reply in its slot, then every idle transmitter chooses. -/
def State.answered (s : State) (h : Hdr) (kind : ReqKind) (code : ResultCode) (fields : List Byte) : State :=
  { s with
    links := (s.links.set h.link.val
      ((s.link h.link).replied (kind.code + 0x80) h.tag code fields)).map Link.choose }

/-! ## What a link still has to say -/

/-- The reply a link holds, begun or not (R161). -/
def Link.heldReply (k : Link) : Option Reply := k.slot.map (·.reply)

/-- The notices of a link not yet fully sent: the one in transmission, then the queue (R162, R163). -/
def Link.notices (k : Link) : List Notice :=
  match k.tx with
  | some ⟨.notice n, _⟩ => n :: k.queue
  | _ => k.queue

/-! ## Claims and releases as a whole -/

/-- R25: every block is free, not fenced and not FROZEN, its check word agreeing. -/
def State.grantable (s : State) (bs : List BlockId) : Bool :=
  bs.all fun b => (s.block b).holder = .none && !(s.block b).frozen && !s.fenced b && (s.block b).flips.isEmpty

/-- R25: the blocks granted to a vehicle in list order. -/
def State.granted (s : State) (v : VehicleId) (bs : List BlockId) : State :=
  { s with
    blocks := .ofFn fun b => if b ∈ bs then { s.block b with holder := .vehicle v } else s.block b
    vehicles := s.vehicles.set v.val { s.vehicle v with holds := (s.vehicle v).holds ++ bs } }

/-- R43: no arbiter acts when these blocks are released: each is fenced or has no waiter, or the mode is HALTED. Their
check words agree. -/
def State.quiet (s : State) (bs : List BlockId) : Bool :=
  bs.all fun b =>
    (s.block b).flips.isEmpty && (s.mode = .halted || s.fenced b || (s.block b).waiters.isEmpty)

/-- R31: the blocks released from a vehicle's holding list, no arbiter acting. A FROZEN block only leaves the list. -/
def State.freed (s : State) (v : VehicleId) (bs : List BlockId) : State :=
  { s with
    blocks := .ofFn fun b =>
      if b ∈ bs ∧ (s.block b).frozen = false then { s.block b with holder := .none } else s.block b
    vehicles := s.vehicles.set v.val { s.vehicle v with holds := (s.vehicle v).holds.filter (· ∉ bs) } }

/-- R31, R48: the blocks released from a vehicle's holding list one at a time in list order, each that is not FROZEN offered
to its arbiter before the next is released. -/
def State.releasedInTurn (s : State) (v : VehicleId) : List BlockId → State
  | [] => s
  | b :: bs =>
    let t := s.setVehicle v { s.vehicle v with holds := (s.vehicle v).holds.filter (· ≠ b) }
    State.releasedInTurn
      (if (t.block b).frozen then t else (t.setBlock b { t.block b with holder := .none }).askArbiter b) v bs

/-- R35: the vehicle's waiter entry, if any, is gone and its waiting-on is clear. -/
def State.waitEnded (s : State) (v : VehicleId) : State :=
  match (s.vehicle v).waitingOn with
  | some b => (s.removeEntry b v).setVehicle v { s.vehicle v with waitingOn := none }
  | none => s

/-- The record of the block a vehicle waits on, when it waits, has a check word that agrees. -/
def State.waitClean (s : State) (v : VehicleId) : Bool :=
  (s.vehicle v).waitingOn.all fun b => (s.block b).flips.isEmpty

/-- R68: the silence countdown of an in-service vehicle that is not STALLED, restarted at the limit when there is one. -/
def VehicleRec.restarted (limit : Byte) (r : VehicleRec) : VehicleRec :=
  if limit = 0 ∨ r.state = .offline ∨ r.state = .stalled then r else { r with silence := some (limit.toNat * 100) }

/-- R59: a vehicle that enters IDLE with an idle sequence, or WITHDRAWN when drain-pending is set. -/
def VehicleRec.idled (n : Word) (r : VehicleRec) : VehicleRec :=
  if r.drain then { r with state := .withdrawn, drain := false, order := none, carrier := .none }
  else { r with state := .idle, idleSeq := n, order := none, carrier := .none }

/-- R60: a vehicle that enters LOADED_IDLE with a carrier. -/
def VehicleRec.loaded (c : Carrier) (r : VehicleRec) : VehicleRec :=
  { r with state := .loadedIdle, order := none, carrier := c }

/-- R59: the idle sequence counter and the trigger after a vehicle has entered IDLE, or WITHDRAWN in its place. -/
def State.afterIdle (s : State) (drain : Bool) : State :=
  if drain then s else { s with idleSeq := s.idleSeq + 1, trigger := true }

/-- R89: an order's record is written and its slot inserted in its class queue by submit sequence. -/
def State.queued (s : State) (o : Slot) (r : OrderRec) : State :=
  let t := s.setOrder o (some r)
  { t with queues := s.queues.set r.cls (insertBySeq t.submitSeqOf o (s.queues.get r.cls)) }

/-! ## The answer to a request that meets a damaged record -/

/-- R84, R107, R168: a request whose first read of record `r` finds it uncorrectable: the record is repaired, the request has no
other effect, and its answer is INTEGRITY with fields of the state that the repair leaves. -/
def State.answeredDamaged (s : State) (h : Hdr) (kind : ReqKind) (r : RecRef) (fields : State → List Byte) : State :=
  (read r s).1.answered h kind .integrity (fields (read r s).1)

/-- R68, R130, R168: the same for a request of the handshake that finds its vehicle's order uncorrectable. The vehicle has been
moved by the repair, and its silence countdown restarts, since the request counts as accepted. -/
def State.workAnsweredDamaged (s : State) (h : Hdr) (kind : ReqKind) (v : VehicleId) (o : Slot)
    (fields : State → List Byte) : State :=
  let t := (read (.order o) s).1
  let u := t.setVehicle v (VehicleRec.restarted s.timing.silence (t.vehicle v))
  u.answered h kind .integrity (fields u)

/-! ## No damaged record -/

/-- R132: every check word agrees. -/
def State.clean (s : State) : Bool :=
  s.blocks.all (fun r => r.flips.isEmpty) && s.vehicles.all (fun r => r.flips.isEmpty)
    && s.orders.all (fun x => x.all fun r => r.flips.isEmpty)

/-- R132: no record has more than the two flipped bits of which the spec says what a read finds (log entry 9). -/
def State.fewFlips (s : State) : Prop :=
  (∀ b, (s.block b).flips.length ≤ 2) ∧ (∀ v, (s.vehicle v).flips.length ≤ 2) ∧
    ∀ o r, s.order o = some r → r.flips.length ≤ 2

/-! ## The laws of the tables -/

/-- R8, R9, R13: in SETUP no vehicle is in service and no order is live; outside SETUP, and while the map is committed, a used
block's bay has an owning link. -/
def State.mapLaw (s : State) : Prop :=
  (s.mode = .setup → (∀ v, (s.vehicle v).state = .offline) ∧ ∀ o, s.order o = none) ∧
    (s.mode ≠ .setup ∨ s.committed = true → ∀ b, s.used b = true → s.bayOwner b ≠ none)

/-- R18, R19: a block's holder is unknown exactly when it is FROZEN, and it then has no waiters; the holder of another is the
one vehicle that lists it; no two vehicles list one block. -/
def State.holderLaw (s : State) : Prop :=
  (∀ b, ((s.block b).frozen = true ↔ (s.block b).holder = .unknown) ∧
    ((s.block b).frozen = true → (s.block b).waiters = []) ∧
    ((s.block b).frozen = false → ∀ v, (s.block b).holder = .vehicle v ↔ b ∈ (s.vehicle v).holds)) ∧
  ∀ v w b, b ∈ (s.vehicle v).holds → b ∈ (s.vehicle w).holds → v = w

/-- R20: a holding list has at most 6 used blocks, each once, each after the first a successor of the one before it; it is
empty for an OFFLINE vehicle and otherwise only for one STALLED with cause INTEGRITY. -/
def State.holdsLaw (s : State) : Prop :=
  ∀ v, let r := s.vehicle v
    r.holds.length ≤ 6 ∧ r.holds.Nodup ∧ (∀ b ∈ r.holds, s.used b = true) ∧
    (∀ x ∈ r.holds.zip r.holds.tail, x.2 ∈ (s.static x.1).succs) ∧
    (r.state = .offline → r.holds = []) ∧
    (r.holds = [] → r.state = .offline ∨ (r.state = .stalled ∧ r.cause = some .integrity))

/-- R21, R22, R28: a vehicle waits on the one block whose waiter list has its entry, a used successor of its front block, with
room for it in its holding list, and only in service and not STALLED; a waiter list has at most 8 entries, of distinct
vehicles, the holder not among them. -/
def State.waitLaw (s : State) : Prop :=
  (∀ v b, (s.vehicle v).waitingOn = some b ↔ ∃ w ∈ (s.block b).waiters, w.vehicle = v) ∧
  (∀ v b, (s.vehicle v).waitingOn = some b →
    (s.vehicle v).state ≠ .offline ∧ (s.vehicle v).state ≠ .stalled ∧ (s.vehicle v).holds.length ≤ 5 ∧
    s.used b = true ∧ ∃ front, (s.vehicle v).holds.getLast? = some front ∧ b ∈ (s.static front).succs) ∧
  ∀ b, (s.block b).waiters.length ≤ 8 ∧ ((s.block b).waiters.map (·.vehicle)).Nodup ∧
    ∀ w ∈ (s.block b).waiters, (s.block b).holder ≠ .vehicle w.vehicle

/-- R57: the stall cause and the saved state stand in STALLED alone, the offer countdown runs in OFFERED alone, the owning
link is none exactly when the holding list is empty, and the order field names a slot exactly in OFFERED, TO_SOURCE, TO_DEST
and STALLED with TO_DEST saved. -/
def State.rosterLaw (s : State) : Prop :=
  ∀ v, let r := s.vehicle v
    (r.cause ≠ none ↔ r.state = .stalled) ∧ (r.saved ≠ none → r.state = .stalled) ∧
    (r.cause = some .lost ∨ r.cause = some .fault → r.saved ≠ none) ∧
    (∀ x, r.saved = some x → x = .idle ∨ x = .loadedIdle ∨ x = .withdrawn ∨ x = .toDest) ∧
    (r.offer ≠ none → r.state = .offered) ∧ (r.owner = none ↔ r.holds = []) ∧
    (r.order ≠ none ↔ r.state = .offered ∨ r.state = .toSource ∨ r.state = .toDest ∨
      (r.state = .stalled ∧ r.saved = some .toDest))

/-- R57, R86, R90: a vehicle's order field and an order's vehicle field name each other, with matching states; a QUEUED order
has no vehicle; the ports of an order are distinct. -/
def State.orderLaw (s : State) : Prop :=
  (∀ v o, (s.vehicle v).order = some o ↔ ∃ r, s.order o = some r ∧ r.vehicle = some v) ∧
  ∀ o r, s.order o = some r →
    (r.state = .queued ↔ r.vehicle = none) ∧
    (∀ v, r.vehicle = some v →
      (r.state = .offered ∧ (s.vehicle v).state = .offered) ∨ (r.state = .toSource ∧ (s.vehicle v).state = .toSource) ∨
      (r.state = .carrying ∧ ((s.vehicle v).state = .toDest ∨ (s.vehicle v).state = .stalled))) ∧
    r.source ≠ some r.dest ∧ r.alt ≠ some r.dest ∧ (r.source = none ∨ r.source ≠ r.alt)

/-- R89: a queue holds exactly the QUEUED orders of its class, each once, by submit sequence. -/
def State.queueLaw (s : State) : Prop :=
  ∀ c, (∀ o, o ∈ s.queues.get c ↔ ∃ r, s.order o = some r ∧ r.state = .queued ∧ r.cls = c) ∧
    (s.queues.get c).Nodup ∧ (s.queues.get c).Pairwise fun x y => s.submitSeqOf x ≤ s.submitSeqOf y

/-- R103: the reservations are those of the orders: an OFFERED or TO_SOURCE order its source port for PICK, an order that is
not QUEUED its destination in use for DROP. -/
def State.reservationLaw (s : State) : Prop :=
  ∀ p o k, (s.port p).reservation = some ⟨o, k⟩ ↔
    ∃ r, s.order o = some r ∧
      ((k = .pick ∧ (r.state = .offered ∨ r.state = .toSource) ∧ r.source = some p) ∨
        (k = .drop ∧ r.state ≠ .queued ∧ r.destInUse = p))

/-- The laws that tie the tables together. -/
def State.lawful (s : State) : Prop :=
  s.mapLaw ∧ s.holderLaw ∧ s.holdsLaw ∧ s.waitLaw ∧ s.rosterLaw ∧ s.orderLaw ∧ s.queueLaw ∧ s.reservationLaw

/-! ## The invariant -/

/-- R155: a DISABLED link neither receives nor transmits, and its attention stays clear. -/
def Link.silent (k : Link) : Bool :=
  k.rx = .hunt && k.slot.isNone && k.tx.isNone && k.queue.isEmpty && k.attention = .clear

/-- R163: at most 32 notices; R155: a DISABLED link is silent. -/
def Link.sound (k : Link) : Bool := k.queue.length ≤ 32 && (k.role ≠ .disabled || k.silent)

/-- R155, R163 on every link; R49 and R149 on the settings; R135 on the correction count; R148 on the second divider. -/
def State.sound (s : State) : Bool :=
  s.links.all Link.sound && weightsInRange s.weights && timingInRange s.timing && s.corrections ≤ 255 && s.divider ≤ 999

end Sys2Proof.Machine
end

