-- ==== Sys2Proof/Certificates/Slice0/Obligations.lean ====
section
/-! DEFINITION. The statements for the provers, in the order of OBLIGATIONS.json. Each gives a command's next state whole, so
what it does not name is unchanged. `s.ready h role` says that the request slot of the link is empty and the frame has the
length of its kind; `s.answered h kind code fields` is the state with the reply placed and the transmitters having chosen. -/

open Sys2Proof Sys2Proof.Machine

/-! ## Steps -/

/-- The command at the front of the queue runs on the state with the queue's rest (log entry 1). -/
def Obligations.StepRunsFrontCommand : Prop :=
  ∀ (c : Instr) (rest : List Instr) (s : State),
    step { s with pending := c :: rest } = exec c { s with pending := rest }

/-- R110, R147: with no command waiting, the engine's decision joins the queue, else one millisecond passes. That a step on an
empty queue is the millisecond is the model's choice (log entry 1), and so is that the countdowns move without new check
words, a record's flipped bits staying as they are (log entry 27). -/
def Obligations.IdleStep : Prop :=
  ∀ s : State, s.pending = [] →
    (s.trigger = true ∧ s.mode = .run → step s = .next { s with pending := [.dispatchDecision] }) ∧
    (¬(s.trigger = true ∧ s.mode = .run) →
      ∃ t : State, step s = .next t ∧
        t = { s with
          msBase := s.msBase + 1
          vehicles := s.vehicles.map fun r => { r with silence := r.silence.map (· - 1), offer := r.offer.map (· - 1) }
          scrubTimer := s.scrubTimer.map (· - 1)
          divider := if s.divider = 999 then 999 else s.divider + 1
          pending := t.pending, freeCount := t.freeCount } ∧
        ∀ c : Instr, c ∈ t.pending ↔
          (c = .fabClockAdvance ∧ s.divider = 999) ∨
          (c = .scrubStep ∧ t.scrubTimer = some 0) ∨
          (∃ v, c = .silenceExpiry v ∧ (t.vehicle v).silence = some 0 ∧ (t.vehicle v).state ≠ .offline ∧
            (t.vehicle v).state ≠ .stalled) ∨
          (∃ v, c = .offerExpiry v ∧ (t.vehicle v).offer = some 0 ∧ (t.vehicle v).state = .offered) ∨
          ∃ o r, c = .promotion o ∧ t.order o = some r ∧ r.state = .queued ∧ promoTime t.timing r.cls ≠ 0 ∧
            promoTime t.timing r.cls * 1000 ≤ (t.msBase - r.classEntry).toNat)

/-- R167, R168: every command has its effect in every state; the part never stops. -/
def Obligations.EveryCommandAnswersNext : Prop :=
  ∀ (c : Instr) (s : State), ∃ t : State, exec c s = .next t

/-! ## Resets -/

/-- R17, R42, R56, R85, R108, R131, R146, R147, R148, R149, R165: the start state. The waiting commands and `freeCount` are
the model's own and stay (log entry 23); the first scrub interval is log entry 26. -/
def Obligations.HardResetStartState : Prop :=
  ∀ (straps : Straps) (s : State), ∃ t : State, exec (.hardReset straps) s = .next t ∧
    t.mode = .setup ∧ t.runPin = false ∧ t.committed = false ∧
    (∀ b, t.static b = ⟨.unused, 0, [], none⟩ ∧ t.block b = ⟨⟨.unused, 0, [], none⟩, .none, false, [], []⟩) ∧
    (∀ p, t.port p = ⟨none, false, none⟩) ∧
    (∀ a b : BayId, (t.bay a).owner = none ∧ (t.bay a).row[b.val] = if b = a then 0 else 255) ∧
    (∀ f, t.fence f = ⟨false, 0, 0⟩) ∧
    (∀ v, t.vehicle v = ⟨.offline, none, none, none, none, .none, false, 0, none, none, none, [], none, []⟩) ∧
    (∀ o, t.order o = none) ∧ (∀ c, t.queues.get c = []) ∧ t.trigger = false ∧
    t.capture = none ∧ t.corrections = 0 ∧ t.cursor = .block 0 ∧ t.scrubTimer = some 10 ∧
    t.msBase = 0 ∧ t.fabClock = 0 ∧ t.divider = 0 ∧
    t.timing = ⟨30, 20, 5, 600, 900, 0, 255, 255, 255, 255, 10⟩ ∧ t.weights = ⟨160, 120, 80, 40, 20⟩ ∧
    t.submitSeq = 0 ∧ t.waiterSeq = 0 ∧ t.idleSeq = 0 ∧
    (∀ l : LinkId, ((t.link l).role =
        if straps[l.val] = 0 then .disabled else if straps[l.val] = 1 then .scheduler
        else if straps[l.val] = 2 then .bay else .service) ∧
      t.link l = ⟨(t.link l).role, .r115200, .hunt, false, none, none, none, [], ⟨false, false, false, false, false⟩,
        false, false⟩) ∧
    t.pending = s.pending ∧ t.freeCount = s.freeCount

/-- R155, R160, R164, R165: a break resets its own link and applies the rate change that the discarded reply had pending.
That the transmitter is idle at once, a frame in transmission included, is the model's choice (log entry 22). -/
def Obligations.LinkResetOfOneLink : Prop :=
  ∀ (l : LinkId) (s : State),
    let fresh : Link := ⟨(s.link l).role, .r115200, .hunt, false, none, none, none, [],
      ⟨false, false, false, false, false⟩, false, false⟩
    ((s.link l).role = .disabled → exec (.linkReset l) s = .next s) ∧
    ((s.link l).role ≠ .disabled → (s.link l).pendingRate = none →
      exec (.linkReset l) s = .next (s.setLink l fresh).endEvent) ∧
    (∀ rate, (s.link l).role ≠ .disabled → (s.link l).pendingRate = some (l, rate) →
      exec (.linkReset l) s = .next (s.setLink l { fresh with rate := rate }).endEvent) ∧
    (∀ m rate, m ≠ l → (s.link l).role ≠ .disabled → (s.link l).pendingRate = some (m, rate) →
      exec (.linkReset l) s = .next ((s.setLink l fresh).setLink m
        (if (s.link m).rx = .hunt then { s.link m with rate := rate }
         else { s.link m with
           rate := rate, rx := .hunt, gapTimer := false
           attention := { (s.link m).attention with rxFault := true } })).endEvent)

/-! ## Links -/

/-- R155, R159, R161: a dropped frame sets RX_FAULT, a request for a busy slot sets OVERRUN, and neither does anything else.
Out of a frame, and with an empty slot, nothing happens (log entry 7). -/
def Obligations.ReceptionFaults : Prop :=
  ∀ (l : LinkId) (s : State),
    let k := s.link l
    let hunting : Link := { k with rx := .hunt, gapTimer := false }
    let overrun := s.setLink l { hunting with attention := { k.attention with overrun := true } }
    (∀ c, c = .frameDropped l ∨ c = .rxGapTimeout l →
      (k.role ≠ .disabled → k.rx ≠ .hunt →
        exec c s = .next (s.setLink l { hunting with attention := { k.attention with rxFault := true } })) ∧
      (k.role = .disabled ∨ k.rx = .hunt → exec c s = .next s)) ∧
    (k.role ≠ .disabled → k.slot.isSome →
      exec (.overrun l) s = .next overrun ∧
      ∀ i h kind fields, i.requestFields = some (h, kind, fields) → h.link = l → exec i s = .next overrun.endEvent) ∧
    (k.role = .disabled ∨ k.slot = none → exec (.overrun l) s = .next s)

/-- R161, R162, R164: an idle transmitter begins the reply, else the oldest notice; the end of a reply empties the request
slot and applies the pending rate change. That TRANSMIT_COMPLETE does nothing at an idle transmitter is the model's choice
(log entry 7). -/
def Obligations.TransmitterChoosesAndCompletes : Prop :=
  (∀ (k : Link) (r : Reply), k.role ≠ .disabled → k.tx = none → k.slot = some ⟨r, false⟩ →
    k.choose = { k with slot := some ⟨r, true⟩, tx := some ⟨.reply r, k.rate⟩ }) ∧
  (∀ (k : Link) (n : Notice) (rest : List Notice), k.role ≠ .disabled → k.tx = none →
    (∀ r, k.slot ≠ some ⟨r, false⟩) → k.queue = n :: rest →
    k.choose = { k with queue := rest, tx := some ⟨.notice n, k.rate⟩ }) ∧
  (∀ k : Link, (k.role = .disabled ∨ k.tx ≠ none ∨ ((∀ r, k.slot ≠ some ⟨r, false⟩) ∧ k.queue = [])) → k.choose = k) ∧
  (∀ (s : State) (l : LinkId), (s.endEvent.link l) = (s.link l).choose) ∧
  (∀ (s : State) (l : LinkId), (s.link l).tx = none → exec (.transmitComplete l) s = .next s) ∧
  (∀ (s : State) (l : LinkId) (n : Notice) (q : Rate), (s.link l).tx = some ⟨.notice n, q⟩ →
    exec (.transmitComplete l) s = .next (s.setLink l { s.link l with tx := none }).endEvent) ∧
  (∀ (s : State) (l : LinkId) (r : Reply) (q : Rate), (s.link l).tx = some ⟨.reply r, q⟩ →
    let t := s.setLink l { s.link l with tx := none, slot := none, pendingRate := none }
    ((s.link l).pendingRate = none → exec (.transmitComplete l) s = .next t.endEvent) ∧
    ∀ m rate, (s.link l).pendingRate = some (m, rate) →
      exec (.transmitComplete l) s = .next (t.setLink m
        (if (t.link m).rx = .hunt then { t.link m with rate := rate }
         else { t.link m with
           rate := rate, rx := .hunt, gapTimer := false
           attention := { (t.link m).attention with rxFault := true } })).endEvent)

/-- R155, R163: a notice goes to the tail of a queue of fewer than 32, is else discarded with NOTICES_DROPPED, and never
reaches a DISABLED link; no other link changes. R61, R62, R106, R129, R145, R176: which links each notice of the statements
goes to, and what VEHICLE_STATE, ORDER_STATE, WITHDRAW, REROUTE and INTEGRITY carry. That a DISABLED link's attention stays clear is
the model's reading (log entry 25). -/
def Obligations.FullQueueDropsNotice : Prop :=
  let sent (n : Notice) (k : Link) : Link :=
    if k.role = .disabled then k
    else if k.queue.length < 32 then { k with queue := k.queue ++ [n] }
    else { k with attention := { k.attention with noticesDropped := true } }
  let told (s t : State) (n : Notice) (hears : Link → LinkId → Bool) : Prop :=
    t = { s with links := t.links } ∧ ∀ l, t.link l = if hears (s.link l) l then sent n (s.link l) else s.link l
  (∀ (s : State) (l : LinkId) (n : Notice),
    ((s.link l).role ≠ .disabled → (s.link l).queue.length < 32 →
      s.notify l n = s.setLink l { s.link l with queue := (s.link l).queue ++ [n] }) ∧
    ((s.link l).role ≠ .disabled → 32 ≤ (s.link l).queue.length →
      s.notify l n = s.setLink l
        { s.link l with attention := { (s.link l).attention with noticesDropped := true } }) ∧
    ((s.link l).role = .disabled → s.notify l n = s)) ∧
  (∀ (n : Notice) (k : Link), k.enqueue n = sent n k) ∧
  (∀ (s : State) (l : LinkId) (n : Notice), told s (s.notify l n) n fun _ m => m = l) ∧
  (∀ (s : State) (owner : Option LinkId) (n : Notice), told s (s.notifyOwner owner n) n fun _ m => owner = some m) ∧
  (∀ (s : State) (p : Link → Bool) (n : Notice), told s (s.notifyWhere p n) n fun k _ => p k) ∧
  (∀ (s : State) (v : VehicleId) (previous : VState),
    told s (s.noteVehicle v previous)
      (.vehicleState v previous (s.vehicle v).state
        (if (s.vehicle v).state = .stalled then (s.vehicle v).cause else none) (s.vehicle v).owner
        (s.vehicle v).holds.head?)
      fun k _ => k.maskVehicle) ∧
  (∀ (s : State) (o : Slot) (r : OrderRec) (kind : OrderKind) (cause : Option OrderCause),
    told s (s.noteOrder o r kind cause)
      (.orderState o r.tag kind cause r.cls r.vehicle r.carrier (if r.altInUse then r.alt.getD r.dest else r.dest)
        s.fabClock)
      fun _ m => m = r.origin) ∧
  (∀ (s : State) (v : VehicleId) (o : Slot) (cause : WithdrawCause),
    told s (s.noteWithdraw v o cause) (.withdraw v o cause) fun _ m => (s.vehicle v).owner = some m) ∧
  (∀ (s : State) (v : VehicleId) (o : Slot) (cause : RerouteCause) (dest : PortId) (alt : Option PortId),
    told s (s.noteReroute v o cause dest alt) (.reroute v o cause dest (s.port dest).block alt)
      fun _ m => (s.vehicle v).owner = some m) ∧
  ∀ (s : State) (cause : IntegrityCause) (r : RecRef) (f : Finder) (v : Option VehicleId),
    let t := s.notifyIntegrity cause r f v
    t = { s with links := t.links } ∧
    ∀ l,
      let k := sent (.integrity cause r f v s.fabClock) (s.link l)
      ((s.link l).role = .service → t.link l = { k with attention := { k.attention with integrity := true } }) ∧
      ((s.link l).role ≠ .service → t.link l = s.link l)

/-- R157, R159: what one character does by the receiver's state, up to the first check byte, and what a framing error does. -/
def Obligations.ReceiverRows : Prop :=
  ∀ (l : LinkId) (c : Byte) (s : State),
    let k := s.link l
    let dropped := s.setLink l
      { k with rx := .hunt, gapTimer := false, attention := { k.attention with rxFault := true } }
    (k.role = .disabled → ∀ bad, exec (.characterReceived l c bad) s = .next s) ∧
    (k.role ≠ .disabled →
      (k.rx = .hunt → exec (.characterReceived l c true) s = .next s) ∧
      (k.rx ≠ .hunt → exec (.characterReceived l c true) s = .next dropped) ∧
      (k.rx = .hunt → c = 0xE7 →
        exec (.characterReceived l c false) s = .next (s.setLink l { k with rx := .length, gapTimer := true })) ∧
      (k.rx = .hunt → c ≠ 0xE7 → exec (.characterReceived l c false) s = .next s) ∧
      (k.rx = .length → 2 ≤ c.toNat → c.toNat ≤ 250 →
        exec (.characterReceived l c false) s = .next (s.setLink l { k with rx := .body c [] })) ∧
      (k.rx = .length → c.toNat < 2 ∨ 250 < c.toNat →
        exec (.characterReceived l c false) s = .next dropped) ∧
      (∀ len got, k.rx = .body len got → got.length + 1 < len.toNat →
        exec (.characterReceived l c false) s = .next (s.setLink l { k with rx := .body len (got ++ [c]) })) ∧
      (∀ len got, k.rx = .body len got → len.toNat ≤ got.length + 1 →
        exec (.characterReceived l c false) s = .next (s.setLink l { k with rx := .check len (got ++ [c]) none })) ∧
      (∀ len got, k.rx = .check len got none →
        exec (.characterReceived l c false) s = .next (s.setLink l { k with rx := .check len got (some c) })) ∧
      (∀ len got first, k.rx = .check len got (some first) → crc (len :: got) ≠ first ++ c →
        exec (.characterReceived l c false) s = .next dropped))

/-- R157, R158, R161: the second check byte of a frame whose check agrees carries out the request the frame spells. -/
def Obligations.CompletedFrameIsCarriedOut : Prop :=
  ∀ (l : LinkId) (s : State) (len kind tag first second : Byte) (fields : List Byte),
    (s.link l).role ≠ .disabled → (s.link l).rx = .check len (kind :: tag :: fields) (some first) →
    crc (len :: kind :: tag :: fields) = first ++ second →
    exec (.characterReceived l second false) s = exec (requestOfFrame l kind tag fields) s

/-- R177, R178: every well-formed request is read back, whole, from its kind code and its field bytes. -/
def Obligations.RequestFramesReadBack : Prop :=
  ∀ (i : Instr) (h : Hdr) (kind : ReqKind) (fields : List Byte),
    i.wellFormed = true → i.requestFields = some (h, kind, fields) → h.fits = true →
    requestOfFrame h.link kind.code h.tag fields = i

/-! ## The router -/

/-- R11, R166, R169, R177: stages 1 to 3. A request of a kind that the role does not permit, or that the mode does not
permit, or whose body length does not fit, is answered ROLE, MODE or RANGE in that order of the checks, and a kind code that
names no request is answered ROLE with reply kind FFh; nothing else changes. The roles and the modes that permit a kind. -/
def Obligations.RouterTurnsAway : Prop :=
  (∀ (i : Instr) (h : Hdr) (kind : ReqKind) (fields : List Byte) (s : State),
    i.requestFields = some (h, kind, fields) → (s.link h.link).role ≠ .disabled → (s.link h.link).slot = none →
    (ReqKind.permits kind (s.link h.link).role = false → exec i s = .next (s.answered h kind .role [])) ∧
    (ReqKind.permits kind (s.link h.link).role = true → ReqKind.allowedIn kind s.mode = false →
      exec i s = .next (s.answered h kind .mode [])) ∧
    (ReqKind.permits kind (s.link h.link).role = true → ReqKind.allowedIn kind s.mode = true → h.fits = false →
      exec i s = .next (s.answered h kind .range []))) ∧
  (∀ (l : LinkId) (tag : Byte) (s : State), (s.link l).role ≠ .disabled → (s.link l).slot = none →
    exec (.unknownKindRequest l tag) s =
      .next (s.setLink l ((s.link l).replied 0xFF tag .role [])).endEvent) ∧
  (∀ (kind : ReqKind) (r : Role), ReqKind.permits kind r = true ↔ r ≠ .disabled ∧
    (kind ∈ [ReqKind.status, .clearAttention, .setNoticeMask, .queryVehicle, .queryOrder, .queryBlock, .queryPort] ∨
      (r = .scheduler ∧
        kind ∈ [ReqKind.submitOrder, .cancelOrder, .redirectOrder, .reclassOrder, .setPortState, .setClock]) ∨
      (r = .bay ∧
        kind ∈ [ReqKind.join, .leave, .position, .claim, .releaseAhead, .accept, .decline, .pickDone, .dropDone, .dropFail,
          .fault, .recover, .heartbeat]) ∨
      (r = .service ∧
        kind ∈ [ReqKind.writeBlocks, .writePorts, .writeBay, .commitMap, .reopenMap, .setFence, .clearFence, .setTiming,
          .setWeights, .setLinkRate, .drain, .restore, .evict, .thaw, .readCapture, .clearCapture, .halt, .resume,
          .softReset, .setPortState, .setClock]))) ∧
  ∀ (kind : ReqKind) (m : Mode), ReqKind.allowedIn kind m = true ↔
    (kind ∈ [ReqKind.writeBlocks, .writePorts, .writeBay, .commitMap] → m = .setup) ∧
    (kind ∈ [ReqKind.reopenMap, .halt, .resume, .join, .submitOrder] → m ≠ .setup) ∧
    (kind = .claim → m = .run)

/-- R161, R167: every request taken leaves exactly one reply in its link's request slot, with its kind code plus 80h and its
frame tag. -/
def Obligations.EveryRequestIsAnswered : Prop :=
  ∀ (i : Instr) (h : Hdr) (kind : ReqKind) (fields : List Byte) (s : State),
    i.requestFields = some (h, kind, fields) → (s.link h.link).role ≠ .disabled → (s.link h.link).slot = none →
    ∃ t r, exec i s = .next t ∧ (t.link h.link).heldReply = some r ∧ r.kind = kind.code + 0x80 ∧ r.tag = h.tag

/-- R168, R170, R171, R172, R179: STATUS and the queries report the records as they stand, field by field. They change
nothing but by the reads: a damaged record is repaired and reported as the repair leaves it, with INTEGRITY; a correctable one
is corrected in passing. QUERY_ORDER by tag passes a damaged order over. That STATUS reads the orders first and then the
vehicles is log entry 31, and that its code is INTEGRITY when it met a damaged one log entry 11 (R168). -/
def Obligations.QueriesReport : Prop :=
  ∀ (h : Hdr) (s : State), s.free h →
    let vehicleReport (t : State) (v : VehicleId) : List Byte :=
      let r := t.vehicle v
      Enc.vehicle v ++ [r.state.code] ++ Enc.opt1 (fun x => [StallCause.code x]) r.cause
        ++ Enc.opt1 (fun x => [VState.code x]) r.saved ++ Enc.opt1 Enc.link r.owner ++ Enc.opt2 Enc.slot r.order
        ++ Enc.carrier r.carrier ++ Enc.flag r.drain ++ bytes4 r.idleSeq ++ Enc.opt2 Enc.num2 r.silence
        ++ Enc.opt2 Enc.num2 r.offer ++ Enc.opt2 Enc.slot r.timedOut ++ Enc.opt2 Enc.block r.waitingOn
        ++ Enc.num r.holds.length ++ r.holds.flatMap Enc.block
    let blockReport (t : State) (b : BlockId) (fence : Option FenceId) : List Byte :=
      let r := t.block b
      Enc.block b ++ [r.fixed.kind.code] ++ Enc.bay r.fixed.bay ++ Enc.num r.fixed.succs.length
        ++ Enc.opt2 Enc.block r.fixed.succs[0]? ++ Enc.opt2 Enc.block r.fixed.succs[1]? ++ Enc.opt1 Enc.port r.fixed.port
        ++ (match r.holder with
            | .none => [0xFF]
            | .vehicle v => Enc.vehicle v
            | .unknown => [0xFE])
        ++ Enc.flag r.frozen ++ Enc.opt1 Enc.fence fence ++ Enc.num r.waiters.length
        ++ r.waiters.flatMap fun w =>
          Enc.vehicle w.vehicle ++ bytes4 w.seq ++ bytes4 (.ofNat 32 (min (t.msBase - w.entry).toNat 0xFFFFFFFF))
    let orderReport (t : State) (o : Slot) : List Byte :=
      match t.order o with
      | none => Enc.slot o ++ Enc.flag false
      | some r =>
        Enc.slot o ++ Enc.flag true ++ Enc.link r.origin ++ bytes2 r.tag ++ Enc.carrier r.carrier
          ++ Enc.opt1 Enc.port r.source ++ Enc.port r.dest ++ Enc.opt1 Enc.port r.alt ++ Enc.flag r.altInUse
          ++ [r.cls.code] ++ bytes4 r.submitSeq
          ++ bytes4 (.ofNat 32 (min (t.msBase - r.classEntry).toNat 0xFFFFFFFF)) ++ [r.state.code]
          ++ Enc.flag r.suspended ++ Enc.opt1 Enc.vehicle r.vehicle ++ Enc.opt1 Enc.vehicle r.bound
          ++ Enc.opt1 Enc.vehicle r.declinedBy ++ Enc.opt2 Enc.block (r.source.bind fun p => (t.port p).block)
          ++ Enc.opt2 Enc.block (t.port (if r.altInUse then r.alt.getD r.dest else r.dest)).block
          ++ Enc.opt2 Enc.num2 (if r.state = .queued then (t.queues.get r.cls).idxOf? o else none)
    let statusReport (t : State) : List Byte :=
      let count (c : Cls) : List Byte :=
        Enc.num2 (t.orders.toList.filter fun (x : Option OrderRec) => x.any fun r => r.cls = c).length
      [t.mode.code, (t.link h.link).attention.byte, .ofNat 8 (t.link h.link).queue.length]
        ++ count .hot ++ count .express ++ count .standard ++ count .bulk
        ++ [.ofNat 8 (t.vehicles.toList.filter fun (r : VehicleRec) => r.state ≠ VState.offline).length]
    (s.clean = true → exec (.status h) s = .next (s.answered h .status .ok (statusReport s))) ∧
    (let records : List RecRef :=
       ((List.finRange 256).filter fun o => (s.order o).isSome).map RecRef.order ++ (List.finRange 128).map RecRef.vehicle
     let t := records.foldl (fun (x : State × Bool) r => ((read r x.1).1, x.2 || (read r x.1).2)) (s, false)
     exec (.status h) s =
      .next (t.1.answered h .status (if t.2 then .integrity else .ok) (statusReport t.1))) ∧
    (∀ x v, vehicle? x = some v →
      ((s.vehicle v).flips = [] →
        exec (.queryVehicle h x) s = .next (s.answered h .queryVehicle .ok (vehicleReport s v))) ∧
      ((s.vehicle v).flips.length = 1 →
        let t := (read (.vehicle v) s).1
        exec (.queryVehicle h x) s = .next (t.answered h .queryVehicle .ok (vehicleReport t v))) ∧
      ((s.vehicle v).flips.length = 2 →
        exec (.queryVehicle h x) s =
          .next (s.answeredDamaged h .queryVehicle (.vehicle v) fun t => vehicleReport t v))) ∧
    (∀ x, 128 ≤ x.toNat → exec (.queryVehicle h x) s = .next (s.answered h .queryVehicle .range [])) ∧
    (∀ x b, block? x = some b →
      let reports (f : Option FenceId) : Prop :=
        ((s.block b).flips = [] →
          exec (.queryBlock h x) s = .next (s.answered h .queryBlock .ok (blockReport s b f))) ∧
        ((s.block b).flips.length = 1 →
          let t := (read (.block b) s).1
          exec (.queryBlock h x) s = .next (t.answered h .queryBlock .ok (blockReport t b f))) ∧
        ((s.block b).flips.length = 2 →
          exec (.queryBlock h x) s =
            .next (s.answeredDamaged h .queryBlock (.block b) fun t => blockReport t b f))
      ((∀ f, (s.fence f).covers b = false) → reports none) ∧
      ∀ f, (s.fence f).covers b = true → (∀ g, g < f → (s.fence g).covers b = false) → reports (some f)) ∧
    (∀ x, 1024 ≤ x.toNat → exec (.queryBlock h x) s = .next (s.answered h .queryBlock .range [])) ∧
    (∀ x o, slot? x = some o →
      ((∀ r, s.order o = some r → r.flips = []) →
        exec (.queryOrder h 0 x) s = .next (s.answered h .queryOrder .ok (orderReport s o))) ∧
      ∀ r, s.order o = some r →
        (r.flips.length = 1 →
          let t := (read (.order o) s).1
          exec (.queryOrder h 0 x) s = .next (t.answered h .queryOrder .ok (orderReport t o))) ∧
        (r.flips.length = 2 →
          exec (.queryOrder h 0 x) s =
            .next (s.answeredDamaged h .queryOrder (.order o) fun t => orderReport t o)) ∧
        (r.flips.length = 2 → (∀ v, (s.vehicle v).flips = []) →
          exec (.queryOrder h 0 x) s =
            .next (s.answeredDamaged h .queryOrder (.order o) fun _ => Enc.slot o ++ Enc.flag false))) ∧
    (∀ x, 256 ≤ x.toNat → exec (.queryOrder h 0 x) s = .next (s.answered h .queryOrder .range [])) ∧
    (∀ tag o r, s.clean = true → s.order o = some r → r.origin = h.link → r.tag = tag →
      (∀ x r', x < o → s.order x = some r' → ¬(r'.origin = h.link ∧ r'.tag = tag)) →
      exec (.queryOrder h 1 tag) s = .next (s.answered h .queryOrder .ok (orderReport s o))) ∧
    (∀ tag, s.clean = true → (∀ x r', s.order x = some r' → ¬(r'.origin = h.link ∧ r'.tag = tag)) →
      exec (.queryOrder h 1 tag) s = .next (s.answered h .queryOrder .unknown [])) ∧
    (∀ tag d lost, s.order d = some lost → lost.flips.length = 2 → (∀ v, (s.vehicle v).flips = []) →
      (∀ x r', x ≠ d → s.order x = some r' → r'.flips = []) →
      let t := (read (.order d) s).1
      (∀ o r, d < o → s.order o = some r → r.origin = h.link → r.tag = tag →
        (∀ x r', x < o → x ≠ d → s.order x = some r' → ¬(r'.origin = h.link ∧ r'.tag = tag)) →
        exec (.queryOrder h 1 tag) s = .next (t.answered h .queryOrder .ok (orderReport t o))) ∧
      ((∀ x r', x ≠ d → s.order x = some r' → ¬(r'.origin = h.link ∧ r'.tag = tag)) →
        exec (.queryOrder h 1 tag) s = .next (t.answered h .queryOrder .unknown []))) ∧
    (∀ sel x, 2 ≤ BitVec.toNat sel → exec (.queryOrder h sel x) s = .next (s.answered h .queryOrder .range [])) ∧
    (∀ x p, port? x = some p → exec (.queryPort h x) s = .next (s.answered h .queryPort .ok
      (Enc.port p ++ Enc.opt2 Enc.block (s.port p).block ++ Enc.flag (s.port p).down
        ++ Enc.reservation (s.port p).reservation
        ++ Enc.flag (!(s.port p).down && (s.port p).reservation.isNone)))) ∧
    (∀ x, 192 ≤ x.toNat → exec (.queryPort h x) s = .next (s.answered h .queryPort .range []))

/-- R174: CLEAR_ATTENTION whole. -/
def Obligations.ClearAttention : Prop :=
  ∀ (h : Hdr) (mask : Byte) (s : State), s.free h →
    let a := (s.link h.link).attention
    (32 ≤ mask.toNat → exec (.clearAttention h mask) s = .next (s.answered h .clearAttention .range [])) ∧
    (mask.toNat < 32 → exec (.clearAttention h mask) s =
      .next ((s.setLink h.link { s.link h.link with
        attention := ⟨a.noticesDropped && !mask.getLsbD 0, a.rxFault && !mask.getLsbD 1, a.overrun && !mask.getLsbD 2,
          a.modeChanged && !mask.getLsbD 3, a.integrity && !mask.getLsbD 4⟩ }).answered h .clearAttention .ok
        [a.byte]))

/-- R175: SET_NOTICE_MASK whole: the two settings, the ranges, who may name which link, and the mask before. -/
def Obligations.SetNoticeMask : Prop :=
  ∀ (h : Hdr) (link mask : Byte) (s : State), s.free h →
    (6 ≤ link.toNat ∨ 4 ≤ mask.toNat →
      exec (.setNoticeMask h link mask) s = .next (s.answered h .setNoticeMask .range [])) ∧
    (∀ l : LinkId, link.toNat = l.val → mask.toNat < 4 →
      ((s.link h.link).role ≠ .service → l ≠ h.link →
        exec (.setNoticeMask h link mask) s = .next (s.answered h .setNoticeMask .notYours [])) ∧
      ((s.link h.link).role = .service ∨ l = h.link →
        exec (.setNoticeMask h link mask) s =
          .next ((s.setLink l { s.link l with maskVehicle := mask.getLsbD 0, maskPort := mask.getLsbD 1 }).answered h
            .setNoticeMask .ok [.ofNat 8 l.val, (s.link l).maskByte])))

/-! ## Orders -/

/-- R89, R90, R91: an accepted SUBMIT_ORDER, for an order that is bound to no vehicle and for one that is; its refusals RANGE,
STATE, DUPLICATE and FULL; and where a new order's sequence places it. R107: damaged orders are freed and the submission goes on
as it does on the state so repaired; that all live orders are read before the first test is log entry 41. -/
def Obligations.SubmitOrder : Prop :=
  (∀ (h : Hdr) (tag : Half) (carrier : CarrierField) (source dest alt cls : Byte) (s : State) (c : Carrier)
      (src : Option PortId) (d : PortId) (a : Option PortId) (q : Cls) (o : Slot) (bound : Option VehicleId),
    s.ready h .scheduler → s.mode ≠ .setup → s.clean = true →
    carrierId? carrier = some c → portOrNone? source = some src → port? dest = some d → portOrNone? alt = some a →
    cls? cls = some q →
    (∀ p, p = d ∨ src = some p ∨ a = some p → (s.port p).block ≠ none) →
    src ≠ some d → a ≠ some d → (src = none ∨ src ≠ a) →
    (∀ x r, s.order x = some r → r.carrier ≠ c ∧ ¬(r.origin = h.link ∧ r.tag = tag)) →
    (src = none → bound ≠ none) →
    (∀ v, (s.vehicle v).carrier = c ↔ bound = some v) →
    (∀ v, bound = some v → (s.vehicle v).state = .loadedIdle ∨
      ((s.vehicle v).state = .stalled ∧ (s.vehicle v).saved = some .loadedIdle)) →
    s.order o = none → (∀ x, x < o → s.order x ≠ none) → s.submitSeq ≠ 0xFFFFFFFF →
    exec (.submitOrder h tag carrier source dest alt cls) s =
      .next (({ s with submitSeq := s.submitSeq + 1, trigger := true }.queued o
        { origin := h.link, tag := tag, carrier := c, source := if bound = none then src else none, dest := d, alt := a
          altInUse := false, cls := q, submitSeq := s.submitSeq + 1, classEntry := s.msBase, state := .queued
          suspended := false, vehicle := none, bound := bound, declinedBy := none, flips := [] }).answered h
        .submitOrder .ok (Enc.slot o ++ [q.code] ++ Enc.opt1 Enc.vehicle bound))) ∧
  (∀ (h : Hdr) (tag : Half) (carrier : CarrierField) (source dest alt cls : Byte) (s : State),
    s.ready h .scheduler → s.mode ≠ .setup →
    let refused (code : ResultCode) : Prop :=
      exec (.submitOrder h tag carrier source dest alt cls) s = .next (s.answered h .submitOrder code [])
    (carrierId? carrier = none ∨ portOrNone? source = none ∨ port? dest = none ∨ portOrNone? alt = none ∨
      cls? cls = none → refused .range) ∧
    ∀ (c : Carrier) (src : Option PortId) (d : PortId) (a : Option PortId) (q : Cls),
      carrierId? carrier = some c → portOrNone? source = some src → port? dest = some d → portOrNone? alt = some a →
      cls? cls = some q →
      ((∃ p, (p = d ∨ src = some p ∨ a = some p) ∧ (s.port p).block = none) ∨ src = some d ∨ a = some d ∨
        (src ≠ none ∧ src = a) → refused .range) ∧
      ((∀ p, p = d ∨ src = some p ∨ a = some p → (s.port p).block ≠ none) → src ≠ some d → a ≠ some d →
        (src = none ∨ src ≠ a) → s.clean = true →
        let bindable (v : VehicleId) : Prop := (s.vehicle v).carrier = c ∧ ((s.vehicle v).state = .loadedIdle ∨
          ((s.vehicle v).state = .stalled ∧ (s.vehicle v).saved = some .loadedIdle))
        let taken : Prop := (∃ x r, s.order x = some r ∧ (r.carrier = c ∨ (r.origin = h.link ∧ r.tag = tag))) ∨
          (∃ v, (s.vehicle v).carrier = c ∧ ¬bindable v) ∨
          ∃ v w, v ≠ w ∧ (s.vehicle v).carrier = c ∧ (s.vehicle w).carrier = c
        (src = none → (∀ v, ¬bindable v) → refused .state) ∧
        ((src = none → ∃ v, bindable v) → taken → refused .duplicate) ∧
        ((src = none → ∃ v, bindable v) → ¬taken → (∀ x, s.order x ≠ none) → refused .full)) ∧
      ((∀ p, p = d ∨ src = some p ∨ a = some p → (s.port p).block ≠ none) → src ≠ some d → a ≠ some d →
        src ≠ none → src ≠ a →
        let t := ((List.finRange 256).filter fun o => (s.order o).isSome).foldl (fun u o => (read (.order o) u).1) s
        t.clean = true →
        exec (.submitOrder h tag carrier source dest alt cls) s =
          exec (.submitOrder h tag carrier source dest alt cls) t)) ∧
  (∀ (seq : Slot → Word) (o : Slot) (xs : List Slot), xs.Pairwise (fun x y => seq x ≤ seq y) →
    (insertBySeq seq o xs).Pairwise (fun x y => seq x ≤ seq y) ∧ (insertBySeq seq o xs).Perm (o :: xs)) ∧
  ∀ (seq : Slot → Word) (o : Slot) (xs : List Slot), (∀ x ∈ xs, seq x ≤ seq o) → insertBySeq seq o xs = xs ++ [o]

/-- R100: freeing an order: out of every queue, every reservation naming its slot released, the slot free, the trigger set
when a released port is not DOWN. -/
def Obligations.FreeOrder : Prop :=
  ∀ (s : State) (o : Slot),
    s.freeOrder o = { s with
      orders := s.orders.set o.val none
      queues := ⟨s.queues.hot.filter (· ≠ o), s.queues.express.filter (· ≠ o), s.queues.standard.filter (· ≠ o),
        s.queues.bulk.filter (· ≠ o)⟩
      ports := (s.freeOrder o).ports, trigger := (s.freeOrder o).trigger } ∧
    (∀ p x, (s.port p).reservation = some x → x.slot = o →
      (s.freeOrder o).port p = { s.port p with reservation := none }) ∧
    (∀ p, (∀ x, (s.port p).reservation = some x → x.slot ≠ o) → (s.freeOrder o).port p = s.port p) ∧
    ((s.freeOrder o).trigger = true ↔
      s.trigger = true ∨ ∃ p x, (s.port p).reservation = some x ∧ x.slot = o ∧ (s.port p).down = false)

/-- R98, R101, R104: a requeue, and the promotion that follows it at once when the order's time is already reached. That the
promotion is part of the same event is log entry 19, and that a bound order keeps the declined-by it has is log entry 17: the
model's readings. -/
def Obligations.Requeue : Prop :=
  ∀ (s : State) (o : Slot) (v : VehicleId) (cause : OrderCause) (r : OrderRec), s.order o = some r →
    let r' : OrderRec := { r with
      altInUse := false, vehicle := none, state := .queued, suspended := false
      declinedBy := if r.bound = none then some v else r.declinedBy }
    let free (t : State) (p : PortId) : State :=
      match (t.port p).reservation with
      | some x =>
        if x.slot = o then
          { t.setPort p { t.port p with reservation := none } with trigger := t.trigger || !(t.port p).down }
        else t
      | none => t
    let t1 := match r.source with
      | some p => free s p
      | none => s
    let t2 := free t1 r.destInUse
    let t3 := { t2.queued o r' with trigger := true }.noteOrder o r' .requeued (some cause)
    s.requeue o v cause =
      if promoTime s.timing r.cls ≠ 0 ∧ promoTime s.timing r.cls * 1000 ≤ (s.msBase - r.classEntry).toNat then
        let r'' : OrderRec := { r' with cls := r.cls.up, classEntry := s.msBase }
        ((t3.leaveQueue o).queued o r'').noteOrder o r'' .promoted none
      else t3

/-- R93, R94: CANCEL_ORDER by the order's state; RANGE for a slot above 255, and UNKNOWN for a slot that is free or holds an
order of another tag. R107, R168: INTEGRITY when the order, or the vehicle it would be taken from, is damaged; that the vehicle is
read before the first effect is log entry 11, and the fields that such an answer carries log entry 15: the model's choices. -/
def Obligations.CancelOrder : Prop :=
  (∀ (h : Hdr) (slot tag : Half) (s : State), s.ready h .scheduler →
    (256 ≤ slot.toNat → exec (.cancelOrder h slot tag) s = .next (s.answered h .cancelOrder .range [])) ∧
    ∀ o : Slot, slot.toNat = o.val → (∀ r, s.order o = some r → r.flips = [] ∧ r.tag ≠ tag) →
      exec (.cancelOrder h slot tag) s = .next (s.answered h .cancelOrder .unknown [])) ∧
  (∀ (h : Hdr) (slot tag : Half) (s : State) (o : Slot) (r : OrderRec),
    s.ready h .scheduler → slot? slot = some o → s.order o = some r →
    let fields (t : State) : List Byte :=
      match t.order o with
      | some x => [x.state.code] ++ Enc.opt1 Enc.vehicle x.vehicle
      | none => [0xFF, 0xFF]
    (r.flips.length = 2 →
      exec (.cancelOrder h slot tag) s = .next (s.answeredDamaged h .cancelOrder (.order o) fields)) ∧
    (r.flips.length = 2 → (∀ v, (s.vehicle v).flips = []) →
      exec (.cancelOrder h slot tag) s = .next (s.answeredDamaged h .cancelOrder (.order o) fun _ => [0xFF, 0xFF])) ∧
    (∀ v, r.flips = [] → r.tag = tag → r.origin = h.link → r.state ≠ .carrying → r.vehicle = some v →
      (s.vehicle v).flips.length = 2 →
      exec (.cancelOrder h slot tag) s = .next (s.answeredDamaged h .cancelOrder (.vehicle v) fields))) ∧
  ∀ (h : Hdr) (slot tag : Half) (s : State) (o : Slot) (r : OrderRec),
    s.ready h .scheduler → slot? slot = some o → s.order o = some r → r.flips = [] → r.tag = tag →
    (r.origin ≠ h.link → exec (.cancelOrder h slot tag) s = .next (s.answered h .cancelOrder .notYours [])) ∧
    (r.origin = h.link → r.state = .carrying →
      exec (.cancelOrder h slot tag) s = .next (s.answered h .cancelOrder .state [])) ∧
    (r.origin = h.link → r.state = .queued → r.vehicle = none →
      exec (.cancelOrder h slot tag) s = .next ((s.freeOrder o).answered h .cancelOrder .ok [0x00, 0xFF])) ∧
    (∀ v, r.origin = h.link → r.state = .toSource ∨ r.state = .offered → r.vehicle = some v →
      (s.vehicle v).flips = [] →
      let rec' : VehicleRec := { s.vehicle v with offer := none }
      (¬(r.state = .offered ∧ r.bound = some v) → s.idleSeq ≠ 0xFFFFFFFF →
        exec (.cancelOrder h slot tag) s =
          .next ((((((s.noteWithdraw v o .cancelled).setVehicle v (rec'.idled (s.idleSeq + 1))).afterIdle
            (s.vehicle v).drain).freeOrder o).noteVehicle v (s.vehicle v).state).answered h .cancelOrder .ok
            [r.state.code, .ofNat 8 v.val])) ∧
      (r.state = .offered ∧ r.bound = some v →
        exec (.cancelOrder h slot tag) s =
          .next (((({ (s.noteWithdraw v o .cancelled).setVehicle v (rec'.loaded (s.vehicle v).carrier) with
            trigger := true }).freeOrder o).noteVehicle v (s.vehicle v).state).answered h .cancelOrder .ok
            [0x01, .ofNat 8 v.val])))

/-- R93, R95, R96: REDIRECT_ORDER by the order's state, its ranges, UNKNOWN and NOT_YOURS, and its refusals for a new
destination that is not usable. A FULL for a DOWN port carries no slot, reserved or not: the model's choice (log entry 15).
That the test against the order's source comes before the one of ownership is log entry 20. R107, R168: INTEGRITY when the
order, or its vehicle, is damaged; that the vehicle is read before the first effect is log entry 11, and the fields that such an
answer carries log entry 15: the model's choices. -/
def Obligations.RedirectOrder : Prop :=
  (∀ (h : Hdr) (slot tag : Half) (dest alt : Byte) (s : State), s.ready h .scheduler →
    let refused (code : ResultCode) : Prop :=
      exec (.redirectOrder h slot tag dest alt) s = .next (s.answered h .redirectOrder code [])
    (256 ≤ slot.toNat ∨ port? dest = none ∨ portOrNone? alt = none → refused .range) ∧
    ∀ (o : Slot) (d : PortId) (a : Option PortId), slot.toNat = o.val → port? dest = some d → portOrNone? alt = some a →
      ((∃ p, (p = d ∨ a = some p) ∧ (s.port p).block = none) ∨ a = some d → refused .range) ∧
      ((∀ p, p = d ∨ a = some p → (s.port p).block ≠ none) → a ≠ some d →
        ((∀ r, s.order o = some r → r.flips = [] ∧ r.tag ≠ tag) → refused .unknown) ∧
        ∀ r, s.order o = some r → r.flips = [] → r.tag = tag →
          ((∃ p, r.source = some p ∧ (p = d ∨ a = some p)) → refused .range) ∧
          ((∀ p, r.source = some p → p ≠ d ∧ a ≠ some p) → r.origin ≠ h.link → refused .notYours)) ∧
      ((∀ p, p = d ∨ a = some p → (s.port p).block ≠ none) → a ≠ some d → ∀ r, s.order o = some r →
        let fields (t : State) : List Byte :=
          match t.order o with
          | some x =>
            let p := if x.altInUse then x.alt.getD x.dest else x.dest
            Enc.port p ++ Enc.port p
          | none => [0xFF, 0xFF]
        (r.flips.length = 2 →
          exec (.redirectOrder h slot tag dest alt) s =
            .next (s.answeredDamaged h .redirectOrder (.order o) fields)) ∧
        (∀ v, r.flips = [] → r.tag = tag → r.origin = h.link → (∀ p, r.source = some p → p ≠ d ∧ a ≠ some p) →
          r.state ≠ .offered → (s.port d).down = false →
          ((s.port d).reservation = none ∨ (s.port d).reservation = some ⟨o, .drop⟩) → r.vehicle = some v →
          (s.vehicle v).flips.length = 2 →
          exec (.redirectOrder h slot tag dest alt) s =
            .next (s.answeredDamaged h .redirectOrder (.vehicle v) fields)))) ∧
  ∀ (h : Hdr) (slot tag : Half) (dest alt : Byte) (s : State) (o : Slot) (r : OrderRec) (d : PortId) (a : Option PortId),
    s.ready h .scheduler → slot? slot = some o → port? dest = some d → portOrNone? alt = some a →
    (∀ p, p = d ∨ a = some p → (s.port p).block ≠ none) → a ≠ some d →
    s.order o = some r → r.flips = [] → r.tag = tag → r.origin = h.link →
    (∀ p, r.source = some p → p ≠ d ∧ a ≠ some p) →
    let c : Instr := .redirectOrder h slot tag dest alt
    let usable := (s.port d).down = false ∧
      ((s.port d).reservation = none ∨ (s.port d).reservation = some ⟨o, .drop⟩)
    let r' : OrderRec := { r with dest := d, alt := a, altInUse := false }
    (r.state = .offered → exec c s = .next (s.answered h .redirectOrder .state [])) ∧
    (r.state ≠ .offered → (s.port d).down = true →
      exec c s = .next (s.answered h .redirectOrder .full [0x00, 0xFF, 0xFF])) ∧
    (∀ x, r.state ≠ .offered → (s.port d).down = false → (s.port d).reservation = some x → x ≠ ⟨o, .drop⟩ →
      exec c s = .next (s.answered h .redirectOrder .full ([0x01] ++ Enc.slot x.slot))) ∧
    (r.state = .queued → r.vehicle = none → usable →
      exec c s = .next ((s.setOrder o (some r')).answered h .redirectOrder .ok
        (Enc.port r.destInUse ++ Enc.port d))) ∧
    (∀ v, r.state = .toSource ∨ r.state = .carrying → r.vehicle = some v → (s.vehicle v).flips = [] → usable →
      exec c s =
        .next (((((if r.destInUse = d then s else s.releasePort o r.destInUse).setOrder o (some r')).setPort d
          { s.port d with reservation := some ⟨o, .drop⟩ }).notifyOwner (s.vehicle v).owner
          (.reroute v o .redirect d (s.port d).block a)).answered h .redirectOrder .ok
          (Enc.port r.destInUse ++ Enc.port d)))

/-- R93, R97: RECLASS_ORDER in QUEUED and in the other states; RANGE, UNKNOWN and NOT_YOURS. R107: INTEGRITY for a damaged order,
with class FFh, which is the model's choice (log entry 15). -/
def Obligations.ReclassOrder : Prop :=
  (∀ (h : Hdr) (slot tag : Half) (cls : Byte) (s : State), s.ready h .scheduler →
    let refused (code : ResultCode) : Prop :=
      exec (.reclassOrder h slot tag cls) s = .next (s.answered h .reclassOrder code [])
    (256 ≤ slot.toNat ∨ 4 ≤ cls.toNat → refused .range) ∧
    ∀ o : Slot, slot.toNat = o.val → cls.toNat < 4 →
      ((∀ r, s.order o = some r → r.flips = [] ∧ r.tag ≠ tag) → refused .unknown) ∧
      ∀ r, s.order o = some r →
        (r.flips = [] → r.tag = tag → r.origin ≠ h.link → refused .notYours) ∧
        (r.flips.length = 2 →
          exec (.reclassOrder h slot tag cls) s =
            .next (s.answeredDamaged h .reclassOrder (.order o) fun _ => [0xFF]))) ∧
  ∀ (h : Hdr) (slot tag : Half) (cls : Byte) (s : State) (o : Slot) (r : OrderRec) (c : Cls),
    s.ready h .scheduler → slot? slot = some o → cls? cls = some c →
    s.order o = some r → r.flips = [] → r.tag = tag → r.origin = h.link →
    (r.state = .queued → exec (.reclassOrder h slot tag cls) s =
      .next ({ (s.leaveQueue o).queued o { r with cls := c, classEntry := s.msBase } with trigger := true }.answered h
        .reclassOrder .ok [r.cls.code])) ∧
    (r.state ≠ .queued → exec (.reclassOrder h slot tag cls) s =
      .next ({ s.setOrder o (some { r with cls := c }) with trigger := true }.answered h .reclassOrder .ok
        [r.cls.code]))

/-- R105: SET_PORT_STATE from a SCHEDULER or a SERVICE link: its ranges, the flag, the notice, the trigger and the reply. That
UP on a port already UP leaves the trigger as it is is the model's reading of two sentences of R105 (log entry 18). -/
def Obligations.SetPortState : Prop :=
  ∀ (h : Hdr) (port action : Byte) (s : State), s.free h →
    (s.link h.link).role = .scheduler ∨ (s.link h.link).role = .service →
    (192 ≤ port.toNat ∨ 2 ≤ action.toNat →
      exec (.setPortState h port action) s = .next (s.answered h .setPortState .range [])) ∧
    (∀ p : PortId, port.toNat = p.val → action.toNat < 2 →
      let down := decide (action.toNat = 1)
      let was := s.port p
      (s.mode ≠ .setup → was.block = none →
        exec (.setPortState h port action) s = .next (s.answered h .setPortState .range [])) ∧
      (s.mode = .setup ∨ was.block ≠ none → was.down = down →
        exec (.setPortState h port action) s =
          .next (s.answered h .setPortState .ok (Enc.flag down ++ Enc.reservation was.reservation))) ∧
      (s.mode = .setup ∨ was.block ≠ none → was.down ≠ down →
        exec (.setPortState h port action) s =
          .next (({ s.setPort p { was with down := down } with
              trigger := s.trigger || (!down && was.reservation.isNone) }.notifyWhere (·.maskPort)
            (.portState p was.block down was.reservation)).answered h .setPortState .ok
            (Enc.flag down ++ Enc.reservation was.reservation))))

/-! ## Track -/

/-- R38, R59, R60, R65, R66: an accepted JOIN with no carrier, with UNKNOWN and with a carrier id, and its refusals RANGE,
STATE, HELD and DUPLICATE. R41, R84: INTEGRITY for a damaged vehicle or named block. That binding keeps the order's declined-by is
the model's reading (log entry 17). -/
def Obligations.Join : Prop :=
  (∀ (h : Hdr) (vehicle : Byte) (block : Half) (carrier : CarrierField) (s : State), s.ready h .bay → s.mode ≠ .setup →
    let refused (code : ResultCode) : Prop :=
      exec (.join h vehicle block carrier) s = .next (s.answered h .join code [])
    (vehicle? vehicle = none ∨ block? block = none ∨ carrier? carrier = none → refused .range) ∧
    ∀ (v : VehicleId) (b : BlockId) (c : Carrier), vehicle? vehicle = some v → block? block = some b →
      carrier? carrier = some c →
      (s.used b = false ∨ s.bayOwner b ≠ some h.link → refused .range) ∧
      (s.used b = true → s.bayOwner b = some h.link →
        let fields (t : State) : List Byte := [(t.vehicle v).state.code, 0xFF, 0xFF]
        ((s.vehicle v).flips.length = 2 →
          exec (.join h vehicle block carrier) s = .next (s.answeredDamaged h .join (.vehicle v) fields)) ∧
        ((s.vehicle v).flips = [] → (s.vehicle v).state = .offline → (s.block b).flips.length = 2 →
          exec (.join h vehicle block carrier) s = .next (s.answeredDamaged h .join (.block b) fields))) ∧
      (s.used b = true → s.bayOwner b = some h.link → (s.vehicle v).flips = [] →
        ((s.vehicle v).state ≠ .offline → refused .state) ∧
        ((s.vehicle v).state = .offline → (s.block b).holder = .none → (s.block b).frozen = false → s.clean = true →
          (∃ id, c = .id id) →
          (∃ w, w ≠ v ∧ (s.vehicle w).carrier = c) ∨ (∃ o r, s.order o = some r ∧ r.state ≠ .queued ∧ r.carrier = c) →
          refused .duplicate))) ∧
  ∀ (h : Hdr) (vehicle : Byte) (block : Half) (carrier : CarrierField) (s : State) (v : VehicleId) (b : BlockId)
      (c : Carrier),
    s.ready h .bay → s.mode ≠ .setup → vehicle? vehicle = some v → block? block = some b → carrier? carrier = some c →
    s.used b = true → s.bayOwner b = some h.link →
    (s.vehicle v).flips = [] → (s.vehicle v).state = .offline → (s.block b).flips = [] →
    ((s.block b).holder ≠ .none ∨ (s.block b).frozen = true →
      exec (.join h vehicle block carrier) s = .next (s.answered h .join .held [])) ∧
    ((s.block b).holder = .none → (s.block b).frozen = false →
      let rec' : VehicleRec := { s.vehicle v with
        holds := [b], waitingOn := none, owner := some h.link, cause := none, saved := none, drain := false
        order := none, timedOut := none, carrier := c }
      let t := s.setBlock b { s.block b with holder := .vehicle v }
      (c = .none → s.idleSeq ≠ 0xFFFFFFFF →
        exec (.join h vehicle block carrier) s =
          .next (({ t.setVehicle v
              (VehicleRec.restarted s.timing.silence { rec' with state := .idle, idleSeq := s.idleSeq + 1 }) with
            idleSeq := s.idleSeq + 1, trigger := true }.noteVehicle v .offline).answered h .join .ok
            [0x01, 0xFF, 0xFF])) ∧
      (c = .unknown →
        exec (.join h vehicle block carrier) s =
          .next (({ t.setVehicle v (VehicleRec.restarted s.timing.silence { rec' with state := .loadedIdle }) with
            trigger := true }.noteVehicle v .offline).answered h .join .ok [0x05, 0xFF, 0xFF])) ∧
      (∀ id bound, c = .id id → s.clean = true → (∀ w, w ≠ v → (s.vehicle w).carrier ≠ c) →
        (∀ o r, s.order o = some r → r.state ≠ .queued → r.carrier ≠ c) → s.queuedNaming c = bound →
        let u := match bound with
          | some o => t.updOrder o fun r => { r with source := none, bound := some v }
          | none => t
        exec (.join h vehicle block carrier) s =
          .next (({ u.setVehicle v (VehicleRec.restarted s.timing.silence { rec' with state := .loadedIdle }) with
            trigger := true }.noteVehicle v .offline).answered h .join .ok
            ([0x05] ++ Enc.opt2 Enc.slot bound))))

/-- R31, R39, R48, R67: LEAVE of an IDLE or WITHDRAWN vehicle, its releases meeting no arbiter or each block offered to its
arbiter in turn; STATE in every other state. R84: INTEGRITY for a damaged vehicle; that it names no removed wait is log entry 15.
-/
def Obligations.Leave : Prop :=
  (∀ (h : Hdr) (vehicle : Byte) (s : State) (v : VehicleId),
    s.ready h .bay → vehicle? vehicle = some v → (s.vehicle v).flips.length = 2 →
    exec (.leave h vehicle) s =
      .next (s.answeredDamaged h .leave (.vehicle v) fun _ => [0x00, 0xFF, 0xFF, 0xFF, 0xFF])) ∧
  ∀ (h : Hdr) (vehicle : Byte) (s : State) (v : VehicleId),
    s.ready h .bay → vehicle? vehicle = some v → (s.vehicle v).flips = [] → (s.vehicle v).owner = some h.link →
    ((s.vehicle v).state ≠ .idle → (s.vehicle v).state ≠ .withdrawn →
      exec (.leave h vehicle) s = .next (s.answered h .leave .state [])) ∧
    ((s.vehicle v).state = .idle ∨ (s.vehicle v).state = .withdrawn →
      let reply := Enc.num (s.vehicle v).holds.length ++ Enc.opt2 Enc.block (s.vehicle v).waitingOn ++ [0xFF, 0xFF]
      (s.quiet (s.vehicle v).holds = true → s.waitClean v = true →
        exec (.leave h vehicle) s =
          .next (((((s.waitEnded v).freed v (s.vehicle v).holds).setVehicle v { s.vehicle v with
            state := .offline, owner := none, silence := none, drain := false, holds := [], waitingOn := none
            }).noteVehicle v (s.vehicle v).state).answered h .leave .ok reply)) ∧
      (s.clean = true →
        let moved := (s.waitEnded v).releasedInTurn v (s.vehicle v).holds
        exec (.leave h vehicle) s =
          .next (((moved.setVehicle v { moved.vehicle v with
            state := .offline, owner := none, silence := none, drain := false }).noteVehicle v
            (s.vehicle v).state).answered h .leave .ok reply)))

/-- R31, R33, R48, R62, R64, R68, R109: an accepted POSITION, its releases meeting no arbiter or each block offered to its
arbiter in turn, the report at the present position included; NOT_HELD for a block that is not held. R41: a vehicle found damaged
at its first read, with nothing released, and a block found damaged among those to be released, at which the request stops and
which is then the position. -/
def Obligations.Position : Prop :=
  (∀ (h : Hdr) (vehicle : Byte) (block : Half) (s : State) (v : VehicleId) (b : BlockId),
    s.ready h .bay → vehicle? vehicle = some v → block? block = some b → s.used b = true →
    (s.vehicle v).flips.length = 2 →
    exec (.position h vehicle block) s =
      .next (s.answeredDamaged h .position (.vehicle v) fun _ => [0x00, 0xFF, 0xFF])) ∧
  ∀ (h : Hdr) (vehicle : Byte) (block : Half) (s : State) (v : VehicleId) (b : BlockId),
    s.ready h .bay → vehicle? vehicle = some v → block? block = some b → s.used b = true → (s.vehicle v).flips = [] →
    ((s.vehicle v).owner = some h.link ∨ s.bayOwner b = some h.link) →
    (s.vehicle v).state ≠ .offline → (s.vehicle v).state ≠ .stalled →
    (b ∉ (s.vehicle v).holds → exec (.position h vehicle block) s = .next (s.answered h .position .notHeld [])) ∧
    (b ∈ (s.vehicle v).holds →
      let behind := (s.vehicle v).holds.takeWhile (· ≠ b)
      let done (moved : State) (at_ : BlockId) (code : ResultCode) (fields : List Byte) : Prop :=
        let t : State := { moved.setVehicle v
            (VehicleRec.restarted s.timing.silence { moved.vehicle v with owner := s.bayOwner at_ }) with
          trigger := s.trigger || decide ((s.vehicle v).state = .idle ∧
            (s.vehicle v).position.map (fun x => (s.static x).bay) ≠ some (s.static at_).bay) }
        let u := if (s.vehicle v).owner = s.bayOwner at_ then t else t.noteVehicle v (s.vehicle v).state
        exec (.position h vehicle block) s = .next (u.answered h .position code fields)
      (s.quiet behind = true → done (s.freed v behind) b .ok (Enc.num behind.length ++ [0xFF, 0xFF])) ∧
      (s.clean = true → done (s.releasedInTurn v behind) b .ok (Enc.num behind.length ++ [0xFF, 0xFF])) ∧
      ∀ pre d post, behind = pre ++ d :: post → s.quiet pre = true → d ∉ pre → (s.block d).flips.length = 2 →
        (∀ w, (s.vehicle w).flips = []) →
        done (read (.block d) (s.freed v pre)).1 d .integrity (Enc.num pre.length ++ Enc.block d))

/-- R31, R34, R48: an accepted RELEASE_AHEAD, its releases meeting no arbiter or each block offered to its arbiter in turn, a
count of 0 included; RANGE for a count that reaches the position block. R41: a vehicle found damaged at its first read, with nothing
released (that the answer names no removed wait is log entry 15), and a block found damaged among those to be released, at which
the request stops. -/
def Obligations.ReleaseAhead : Prop :=
  (∀ (h : Hdr) (vehicle count : Byte) (s : State) (v : VehicleId),
    s.ready h .bay → vehicle? vehicle = some v → count.toNat ≤ 5 → (s.vehicle v).flips.length = 2 →
    exec (.releaseAhead h vehicle count) s =
      .next (s.answeredDamaged h .releaseAhead (.vehicle v) fun t =>
        [0x00] ++ Enc.opt2 Enc.block (t.vehicle v).holds.getLast? ++ [0xFF, 0xFF, 0xFF, 0xFF])) ∧
  ∀ (h : Hdr) (vehicle count : Byte) (s : State) (v : VehicleId),
    s.ready h .bay → vehicle? vehicle = some v → (s.vehicle v).flips = [] → (s.vehicle v).owner = some h.link →
    (s.vehicle v).state ≠ .offline → (s.vehicle v).state ≠ .stalled → count.toNat ≤ 5 →
    ((s.vehicle v).holds.length ≤ count.toNat →
      exec (.releaseAhead h vehicle count) s = .next (s.answered h .releaseAhead .range [])) ∧
    (count.toNat < (s.vehicle v).holds.length →
      let ahead := (s.vehicle v).holds.reverse.take count.toNat
      let done (t : State) (code : ResultCode) (released : Nat) (stop : List Byte) : Prop :=
        exec (.releaseAhead h vehicle count) s =
          .next ((t.setVehicle v (VehicleRec.restarted s.timing.silence (t.vehicle v))).answered h .releaseAhead code
            (Enc.num released ++ Enc.opt2 Enc.block (t.vehicle v).holds.getLast?
              ++ Enc.opt2 Enc.block (s.vehicle v).waitingOn ++ stop))
      (s.quiet ahead = true → s.waitClean v = true →
        done ((s.waitEnded v).freed v ahead) .ok count.toNat [0xFF, 0xFF]) ∧
      (s.clean = true → done ((s.waitEnded v).releasedInTurn v ahead) .ok count.toNat [0xFF, 0xFF]) ∧
      ∀ pre d post, ahead = pre ++ d :: post → s.quiet pre = true → s.waitClean v = true → d ∉ pre →
        (s.block d).flips.length = 2 → (∀ w, (s.vehicle w).flips = []) →
        done (read (.block d) ((s.waitEnded v).freed v pre)).1 .integrity pre.length (Enc.block d))

/-- R23 to R27, R29, R30: CLAIM's refusals, each when the checks before it pass; and the claim walk: all granted, or stopped
after the blocks before the stop at a fenced, a FROZEN or a held block. `links` is a chain of waits of any length: blocks with
their holders, each holder waiting on the next block; it closes a cycle when its last vehicle waits on a block of the
claiming vehicle, and ends without one at a vehicle that does not wait or at a block that no vehicle holds. R41: INTEGRITY for a
claiming vehicle found damaged at its first read, and PARTIAL, reason FROZEN, at a listed block found damaged in the walk. -/
def Obligations.ClaimWalk : Prop :=
  (∀ (h : Hdr) (vehicle : Byte) (blocks : List Half) (s : State), s.ready h .bay → s.mode = .run →
    let refused (code : ResultCode) : Prop :=
      exec (.claim h vehicle blocks) s = .next (s.answered h .claim code [])
    (vehicle? vehicle = none ∨ blocks = [] ∨ 5 < blocks.length ∨ blocks.mapM block? = none → refused .range) ∧
    ∀ (v : VehicleId) (bs : List BlockId), vehicle? vehicle = some v → blocks.mapM block? = some bs → bs ≠ [] →
      bs.length ≤ 5 →
      ((∃ b ∈ bs, s.used b = false) → refused .unknown) ∧
      ((∀ b ∈ bs, s.used b = true) → (s.vehicle v).flips.length = 2 →
        exec (.claim h vehicle blocks) s =
          .next (s.answeredDamaged h .claim (.vehicle v) fun _ => Enc.vehicle v ++ [0x00, 0xFF, 0xFF, 0xFF])) ∧
      ((∀ b ∈ bs, s.used b = true) → (s.vehicle v).flips = [] →
        ((s.vehicle v).owner ≠ some h.link → refused .notYours) ∧
        ((s.vehicle v).owner = some h.link →
          let follows : Prop := ∃ front, (s.vehicle v).holds.getLast? = some front ∧
            ∀ x ∈ (front :: bs).zip bs, x.2 ∈ (s.static x.1).succs
          let fresh : Prop := bs.Nodup ∧ ∀ b ∈ bs, b ∉ (s.vehicle v).holds
          ((s.vehicle v).state = .stalled ∨ (s.vehicle v).waitingOn ≠ none ∨ ¬follows → refused .state) ∧
          ((s.vehicle v).state ≠ .stalled → (s.vehicle v).waitingOn = none → follows →
            (¬fresh → refused .duplicate) ∧
            (fresh → 6 < (s.vehicle v).holds.length + bs.length → refused .full))))) ∧
  ∀ (h : Hdr) (vehicle : Byte) (blocks : List Half) (s : State) (v : VehicleId) (bs : List BlockId) (front : BlockId),
    s.ready h .bay → s.mode = .run → vehicle? vehicle = some v → blocks.mapM block? = some bs →
    bs ≠ [] → bs.length ≤ 5 → (∀ b ∈ bs, s.used b = true) →
    (s.vehicle v).flips = [] → (s.vehicle v).owner = some h.link → (s.vehicle v).state ≠ .stalled →
    (s.vehicle v).waitingOn = none → (s.vehicle v).holds.getLast? = some front →
    (∀ x ∈ (front :: bs).zip bs, x.2 ∈ (s.static x.1).succs) →
    bs.Nodup → (∀ b ∈ bs, b ∉ (s.vehicle v).holds) → (s.vehicle v).holds.length + bs.length ≤ 6 →
    let restart (t : State) : State := t.setVehicle v (VehicleRec.restarted s.timing.silence (t.vehicle v))
    (s.grantable bs = true →
      exec (.claim h vehicle blocks) s = .next ((restart (s.granted v bs)).answered h .claim .ok
        (Enc.vehicle v ++ Enc.num bs.length ++ [0xFF, 0xFF, 0xFF]))) ∧
    (∀ pre b post, bs = pre ++ b :: post → s.grantable pre = true →
      let t := s.granted v pre
      let stopped (reason : Byte) : Prop :=
        exec (.claim h vehicle blocks) s = .next ((restart t).answered h .claim .partialGrant
          (Enc.vehicle v ++ Enc.num pre.length ++ Enc.block b ++ [reason]))
      let waits : Prop :=
        exec (.claim h vehicle blocks) s =
          .next ((restart { (t.setBlock b { s.block b with
              waiters := (s.block b).waiters ++ [⟨v, s.waiterSeq + 1, s.msBase⟩] }).setVehicle v
              { t.vehicle v with waitingOn := some b } with
            waiterSeq := s.waiterSeq + 1 }).answered h .claim .queued
            (Enc.vehicle v ++ Enc.num pre.length ++ Enc.block b ++ [0xFF]))
      (s.fenced b = true → stopped 0x00) ∧
      (s.fenced b = false → (s.block b).flips = [] → (s.block b).frozen = true → stopped 0x01) ∧
      (s.fenced b = false → (s.block b).flips.length = 2 → (∀ w, (s.vehicle w).flips = []) →
        exec (.claim h vehicle blocks) s =
          .next ((restart (read (.block b) t).1).answered h .claim .partialGrant
            (Enc.vehicle v ++ Enc.num pre.length ++ Enc.block b ++ [0x01]))) ∧
      (s.fenced b = false → (s.block b).flips = [] → (s.block b).frozen = false → (s.block b).holder ≠ .none →
        8 ≤ (s.block b).waiters.length → stopped 0x02) ∧
      (∀ w b', s.fenced b = false → (s.block b).flips = [] → (s.block b).frozen = false →
        (s.block b).waiters.length < 8 → (s.block b).holder = .vehicle w → (s.vehicle w).flips = [] →
        (s.vehicle w).waitingOn = some b' → (s.block b').flips = [] → (s.block b').holder = .vehicle v →
        stopped 0x03) ∧
      (∀ w, s.fenced b = false → (s.block b).flips = [] → (s.block b).frozen = false →
        (s.block b).waiters.length < 8 → (s.block b).holder = .vehicle w → w ≠ v → (s.vehicle w).flips = [] →
        (s.vehicle w).waitingOn = none → s.waiterSeq ≠ 0xFFFFFFFF → waits) ∧
      (∀ (links : List (BlockId × VehicleId)) (last : BlockId × VehicleId),
        s.fenced b = false → (s.block b).frozen = false → (s.block b).waiters.length < 8 →
        links.length ≤ 128 → links.head?.map Prod.fst = some b → links.getLast? = some last →
        (∀ x ∈ links, (s.block x.1).flips = [] ∧ (s.block x.1).holder = .vehicle x.2 ∧ x.2 ≠ v ∧
          (s.vehicle x.2).flips = []) →
        (∀ y ∈ links.zip links.tail, (s.vehicle y.1.2).waitingOn = some y.2.1) →
        (∀ b', (s.vehicle last.2).waitingOn = some b' → (t.block b').flips = [] → (t.block b').holder = .vehicle v →
          stopped 0x03) ∧
        ((s.vehicle last.2).waitingOn = none ∨ (∃ b', (s.vehicle last.2).waitingOn = some b' ∧
            (t.block b').flips = [] ∧ ∀ w, (t.block b').holder ≠ .vehicle w) →
          s.waiterSeq ≠ 0xFFFFFFFF → waits)))

/-- R43 to R47: the arbiter of a free, uncovered block grants it to the highest bid, the lowest waiter sequence among equal
bids, and otherwise does nothing. -/
def Obligations.ArbiterGrantsHighestBid : Prop :=
  (∀ (s : State) (x : Waiter),
    s.bid x =
      (match (s.vehicle x.vehicle).order.bind s.order with
       | some r =>
         match r.cls with
         | .hot => s.weights.hot.toNat
         | .express => s.weights.express.toNat
         | .standard => s.weights.standard.toNat
         | .bulk => s.weights.bulk.toNat
       | none => s.weights.none.toNat)
      + min 55 ((s.msBase - x.entry).toNat / (s.timing.aging.toNat * 100))) ∧
  (∀ (s : State) (b : BlockId), (s.block b).flips = [] →
    s.mode = .halted ∨ s.fenced b = true ∨ (s.block b).holder ≠ .none ∨ (s.block b).frozen = true ∨
      (s.block b).waiters = [] →
    s.askArbiter b = s) ∧
  ∀ (s : State) (b : BlockId) (w : Waiter),
    s.mode ≠ .halted → s.fenced b = false → (s.block b).flips = [] → (s.block b).holder = .none →
    (s.block b).frozen = false → w ∈ (s.block b).waiters →
    (∀ x ∈ (s.block b).waiters, x ≠ w → s.bid x < s.bid w ∨ (s.bid x = s.bid w ∧ w.seq < x.seq)) →
    (∀ x ∈ (s.block b).waiters, (s.vehicle x.vehicle).flips = [] ∧
      ∀ o r, (s.vehicle x.vehicle).order = some o → s.order o = some r → r.flips = []) →
    let v := w.vehicle
    s.askArbiter b =
      ((s.setBlock b { s.block b with
        holder := .vehicle v, waiters := (s.block b).waiters.filter (fun x => x.vehicle ≠ v) }).setVehicle v
        { s.vehicle v with waitingOn := none, holds := (s.vehicle v).holds ++ [b] }).notifyOwner (s.vehicle v).owner
        (.grant v b ((s.vehicle v).holds.length + 1) (s.bid w))

/-! ## The roster -/

/-- R36, R71 to R73, R69: FAULT and a silence expiry stall the vehicle: its wait ends, its order is requeued or suspended by
the state it was in, and a vehicle already STALLED answers STATE. R84: a damaged vehicle is repaired, FAULT answers INTEGRITY and an
expiry does not act; that the answer reports the order the repair has left is log entry 15. That an expiry whose countdown has not
run out changes nothing is the model's reading (log entry 2). -/
def Obligations.StallOfAVehicle : Prop :=
  (∀ (s : State) (v : VehicleId) (c : StallCause), s.waitClean v = true →
    (∀ o r, (s.vehicle v).order = some o → s.order o = some r → r.flips = []) →
    let rec' := s.vehicle v
    let waited := match rec'.waitingOn with
      | some b => (s.waitEnded v).notifyOwner rec'.owner (.waitCancelled v b .stalled rec'.holds.length)
      | none => s
    let stalled (saved : VState) (order : Option Slot) : VehicleRec := { rec' with
      waitingOn := none, saved := some saved, state := .stalled, cause := some c, silence := none, offer := none
      order := order }
    ((rec'.state = .idle ∨ rec'.state = .loadedIdle ∨ rec'.state = .withdrawn) →
      s.stall v c = ((waited.setVehicle v (stalled rec'.state rec'.order)).noteVehicle v rec'.state, ⟨none, false⟩)) ∧
    (∀ o r, rec'.order = some o → s.order o = some r → rec'.state = .offered ∨ rec'.state = .toSource →
      s.stall v c = (((((waited.setVehicle v (stalled rec'.state rec'.order)).requeue o v .stalled).setVehicle v
        (stalled (if rec'.state = .offered ∧ r.bound = some v then .loadedIdle else .idle) none)).notifyOwner rec'.owner
        (.withdraw v o .stalled)).noteVehicle v rec'.state, ⟨some (o, .requeued), false⟩)) ∧
    (∀ o r, rec'.order = some o → s.order o = some r → rec'.state = .toDest →
      s.stall v c = ((((waited.setVehicle v (stalled .toDest (some o))).setOrder o
        (some { r with suspended := true })).noteOrder o { r with suspended := true } .suspended none).noteVehicle v
        .toDest, ⟨some (o, .suspended), false⟩))) ∧
  (∀ (h : Hdr) (vehicle : Byte) (s : State) (v : VehicleId), s.ready h .bay → vehicle? vehicle = some v →
    (s.vehicle v).flips.length = 2 →
    exec (.fault h vehicle) s =
      .next (s.answeredDamaged h .fault (.vehicle v) fun t =>
        Enc.opt1 (fun x => [VState.code x]) (t.vehicle v).saved ++
          match (t.vehicle v).order with
          | some o => Enc.slot o ++ [Disposition.suspended.code]
          | none => [0xFF, 0xFF, 0xFF])) ∧
  (∀ (h : Hdr) (vehicle : Byte) (s : State) (v : VehicleId), s.ready h .bay → vehicle? vehicle = some v →
    (s.vehicle v).flips = [] → (s.vehicle v).owner = some h.link →
    ((s.vehicle v).state = .stalled → exec (.fault h vehicle) s = .next (s.answered h .fault .state [])) ∧
    ((s.vehicle v).state ≠ .stalled → (s.stall v .fault).2.bad = false →
      exec (.fault h vehicle) s = .next ((s.stall v .fault).1.answered h .fault .ok
        (Enc.opt1 (fun x => [VState.code x]) ((s.stall v .fault).1.vehicle v).saved
          ++ Enc.opt2 Enc.slot ((s.stall v .fault).2.order.map (·.1))
          ++ Enc.opt1 (fun x => [Disposition.code x]) ((s.stall v .fault).2.order.map (·.2)))))) ∧
  ∀ (s : State) (v : VehicleId),
    ((s.vehicle v).silence = some 0 → (s.vehicle v).state ≠ .offline → (s.vehicle v).state ≠ .stalled →
      ((s.vehicle v).flips = [] → exec (.silenceExpiry v) s = .next (s.stall v .lost).1.endEvent) ∧
      ((s.vehicle v).flips.length = 2 → exec (.silenceExpiry v) s = .next (read (.vehicle v) s).1.endEvent)) ∧
    ((s.vehicle v).silence ≠ some 0 → exec (.silenceExpiry v) s = .next s)

/-- R31, R48, R76, R77: RECOVER to each saved state, its releases meeting no arbiter or each block offered to its arbiter in
turn; STATE for a vehicle that is not STALLED or is STALLED with cause INTEGRITY. R84: INTEGRITY for a damaged vehicle. -/
def Obligations.Recover : Prop :=
  (∀ (h : Hdr) (vehicle : Byte) (block : Half) (s : State) (v : VehicleId) (b : BlockId),
    s.ready h .bay → vehicle? vehicle = some v → block? block = some b → s.used b = true →
    (s.vehicle v).flips.length = 2 →
    exec (.recover h vehicle block) s =
      .next (s.answeredDamaged h .recover (.vehicle v) fun t => [(t.vehicle v).state.code, 0x00, 0xFF, 0xFF])) ∧
  ∀ (h : Hdr) (vehicle : Byte) (block : Half) (s : State) (v : VehicleId) (b : BlockId),
    s.ready h .bay → vehicle? vehicle = some v → block? block = some b → s.used b = true → (s.vehicle v).flips = [] →
    ((s.vehicle v).owner = some h.link ∨ s.bayOwner b = some h.link) →
    ((s.vehicle v).state ≠ .stalled ∨ (s.vehicle v).cause = some .integrity →
      exec (.recover h vehicle block) s = .next (s.answered h .recover .state [])) ∧
    ((s.vehicle v).state = .stalled → (s.vehicle v).cause = some .lost ∨ (s.vehicle v).cause = some .fault →
      (b ∉ (s.vehicle v).holds → exec (.recover h vehicle block) s = .next (s.answered h .recover .notHeld [])) ∧
      (b ∈ (s.vehicle v).holds →
        let behind := (s.vehicle v).holds.takeWhile (· ≠ b)
        let recovers (moved : State) : Prop :=
          let rec' : VehicleRec := { moved.vehicle v with owner := s.bayOwner b, cause := none, saved := none }
          let put (r : VehicleRec) : State := moved.setVehicle v (VehicleRec.restarted s.timing.silence r)
          let done (t : State) (state : Byte) : Prop :=
            exec (.recover h vehicle block) s =
              .next ((t.noteVehicle v .stalled).answered h .recover .ok
                ([state] ++ Enc.num behind.length ++ [0xFF, 0xFF]))
          ((s.vehicle v).order = none → (s.vehicle v).saved = some .idle → s.idleSeq ≠ 0xFFFFFFFF →
            done ((put (rec'.idled (s.idleSeq + 1))).afterIdle (s.vehicle v).drain)
              (if (s.vehicle v).drain then 0x06 else 0x01)) ∧
          ((s.vehicle v).order = none → (s.vehicle v).saved = some .loadedIdle →
            done { put (rec'.loaded (s.vehicle v).carrier) with trigger := true } 0x05) ∧
          ((s.vehicle v).order = none → (s.vehicle v).saved = some .withdrawn →
            done (put { rec' with state := .withdrawn }) 0x06) ∧
          (∀ o r, (s.vehicle v).order = some o → s.order o = some r → r.flips = [] →
            (s.vehicle v).saved = some .toDest →
            done (((put { rec' with state := .toDest }).setOrder o (some { r with suspended := false })).noteOrder o
              { r with suspended := false } .resumed none) 0x04)
        (s.quiet behind = true → recovers (s.freed v behind)) ∧
        (s.clean = true → recovers (s.releasedInTurn v behind))))

/-- R70: HEARTBEAT whole: its refusals, and in every in-service state the report and the silence countdown alone. R84: INTEGRITY,
with the report of the repaired record, for a damaged vehicle. -/
def Obligations.Heartbeat : Prop :=
  ∀ (h : Hdr) (vehicle : Byte) (s : State), s.free h →
    let report (v : VehicleId) (t : State) : List Byte :=
      [(t.vehicle v).state.code] ++ Enc.opt1 (fun x => [StallCause.code x]) (t.vehicle v).cause
        ++ Enc.opt1 (fun x => [VState.code x]) (t.vehicle v).saved ++ Enc.flag (t.vehicle v).drain
        ++ Enc.opt2 Enc.slot (t.vehicle v).order ++ Enc.num (t.vehicle v).holds.length
    ((s.link h.link).role ≠ .bay →
      exec (.heartbeat h vehicle) s = .next (s.answered h .heartbeat .role [])) ∧
    ((s.link h.link).role = .bay → 128 ≤ vehicle.toNat →
      exec (.heartbeat h vehicle) s = .next (s.answered h .heartbeat .range [])) ∧
    (∀ v, (s.link h.link).role = .bay → vehicle.toNat = v.val → (s.vehicle v).flips.length = 2 →
      exec (.heartbeat h vehicle) s = .next (s.answeredDamaged h .heartbeat (.vehicle v) (report v))) ∧
    (∀ v, (s.link h.link).role = .bay → vehicle.toNat = v.val → (s.vehicle v).flips = [] →
      ((s.vehicle v).owner ≠ some h.link →
        exec (.heartbeat h vehicle) s = .next (s.answered h .heartbeat .notYours [])) ∧
      ((s.vehicle v).owner = some h.link →
        exec (.heartbeat h vehicle) s =
          .next ((s.setVehicle v (VehicleRec.restarted s.timing.silence (s.vehicle v))).answered h .heartbeat .ok
            (report v s))))

/-- R78, R79: DRAIN and RESTORE: RANGE, and by the vehicle's state. R84: INTEGRITY for a damaged vehicle, with its state and
drain-pending as the repair leaves them. -/
def Obligations.DrainAndRestore : Prop :=
  (∀ (h : Hdr) (vehicle : Byte) (s : State), s.ready h .service → 128 ≤ vehicle.toNat →
    exec (.drain h vehicle) s = .next (s.answered h .drain .range []) ∧
    exec (.restore h vehicle) s = .next (s.answered h .restore .range [])) ∧
  (∀ (h : Hdr) (vehicle : Byte) (s : State) (v : VehicleId), s.ready h .service → vehicle? vehicle = some v →
    (s.vehicle v).flips.length = 2 →
    let fields (t : State) : List Byte := [(t.vehicle v).state.code] ++ Enc.flag (t.vehicle v).drain
    exec (.drain h vehicle) s = .next (s.answeredDamaged h .drain (.vehicle v) fields) ∧
    exec (.restore h vehicle) s = .next (s.answeredDamaged h .restore (.vehicle v) fields)) ∧
  ∀ (h : Hdr) (vehicle : Byte) (s : State) (v : VehicleId),
    s.ready h .service → vehicle? vehicle = some v → (s.vehicle v).flips = [] →
    let rec' := s.vehicle v
    (rec'.state = .offline →
      exec (.drain h vehicle) s = .next (s.answered h .drain .state []) ∧
      exec (.restore h vehicle) s = .next (s.answered h .restore .state [])) ∧
    (rec'.state = .idle →
      exec (.drain h vehicle) s =
        .next (((s.setVehicle v { rec' with state := .withdrawn }).noteVehicle v .idle).answered h .drain .ok
          ([0x06] ++ Enc.flag rec'.drain))) ∧
    (rec'.state = .withdrawn →
      exec (.drain h vehicle) s = .next (s.answered h .drain .ok ([0x06] ++ Enc.flag rec'.drain))) ∧
    (rec'.state ≠ .offline → rec'.state ≠ .idle → rec'.state ≠ .withdrawn →
      exec (.drain h vehicle) s =
        .next ((s.setVehicle v { rec' with drain := true }).answered h .drain .ok [rec'.state.code, 0x01])) ∧
    (rec'.state = .withdrawn → s.idleSeq ≠ 0xFFFFFFFF →
      exec (.restore h vehicle) s =
        .next (({ s.setVehicle v
            { rec' with state := .idle, drain := false, idleSeq := s.idleSeq + 1, order := none, carrier := .none } with
          idleSeq := s.idleSeq + 1, trigger := true }.noteVehicle v .withdrawn).answered h .restore .ok
          [0x01, 0x00])) ∧
    (rec'.state ≠ .offline → rec'.state ≠ .withdrawn →
      exec (.restore h vehicle) s =
        .next ((s.setVehicle v { rec' with drain := false }).answered h .restore .ok [rec'.state.code, 0x00]))

/-- R31, R40, R48, R81, R82: EVICT in every in-service state, its releases meeting no arbiter or each block offered to its
arbiter in turn; STATE for an OFFLINE vehicle. That FAILED(VEHICLE_EVICTED) carries the order's fields as they stood is the
model's reading (log entry 28). R84: a damaged vehicle is repaired, and the request goes on as it would on the state so repaired,
its code INTEGRITY (log entry 16); in SETUP the repair has left the vehicle OFFLINE, and the fields are those of none. -/
def Obligations.Evict : Prop :=
  ∀ (h : Hdr) (vehicle : Byte) (before : State) (v : VehicleId), before.ready h .service → vehicle? vehicle = some v →
    let goesOn (s : State) (code : ResultCode) : Prop :=
      let rec' := s.vehicle v
      let evicts (t1 : State) : Prop :=
        let t2 := match rec'.order with
          | none => t1
          | some o =>
            if rec'.state = VState.offered ∨ rec'.state = VState.toSource then t1.requeue o v .evicted
            else match s.order o with
              | some r => (t1.noteOrder o r .failed (some .vehicleEvicted)).freeOrder o
              | none => t1
        let t3 := match t2.queuedBoundTo v with
          | some o => t2.updOrder o fun r => { r with bound := none }
          | none => t2
        exec (.evict h vehicle) before =
          .next (((t3.setVehicle v { t1.vehicle v with
            state := .offline, owner := none, cause := none, saved := none, timedOut := none, drain := false
            silence := none, offer := none, order := none, carrier := .none }).noteVehicle v rec'.state).answered h
            .evict code
            (Enc.num rec'.holds.length ++ Enc.opt2 Enc.slot rec'.order ++ Enc.carrier rec'.carrier ++ [0xFF, 0xFF]))
      s.clean = true → rec'.state ≠ .offline →
        (s.quiet rec'.holds = true → evicts ((s.waitEnded v).freed v rec'.holds)) ∧
        evicts ((s.waitEnded v).releasedInTurn v rec'.holds)
    (before.clean = true → (before.vehicle v).state = .offline →
      exec (.evict h vehicle) before = .next (before.answered h .evict .state [])) ∧
    goesOn before .ok ∧
    ((before.vehicle v).flips.length = 2 → goesOn (read (.vehicle v) before).1 .integrity) ∧
    ((before.vehicle v).flips.length = 2 → before.mode = .setup →
      exec (.evict h vehicle) before =
        .next (before.answeredDamaged h .evict (.vehicle v) fun _ =>
          [0x00, 0xFF, 0xFF] ++ Enc.carrier .none ++ [0xFF, 0xFF]))

/-! ## The handshake -/

/-- R119, R59, R60, R83: a withdrawal ends an offer: the requeue, then the vehicle into IDLE, or into LOADED_IDLE from the
offer of an order bound to it; the timed-out slot and WITHDRAW for an expiry alone. No damaged record is met. -/
def Obligations.WithdrawalOfAnOffer : Prop :=
  ∀ (s : State) (v : VehicleId) (o : Slot) (r : OrderRec) (cause : OrderCause), s.order o = some r →
    let rec' : VehicleRec := { s.vehicle v with
      offer := none, timedOut := if cause = .timeout then some o else (s.vehicle v).timedOut }
    let told (t : State) : State :=
      if cause = .timeout then t.notifyOwner (s.vehicle v).owner (.withdraw v o .timeout) else t
    let t := (s.setVehicle v rec').requeue o v cause
    (r.bound ≠ some v → s.idleSeq ≠ 0xFFFFFFFF →
      s.withdrawOffer v o cause =
        ((told ((t.setVehicle v (rec'.idled (s.idleSeq + 1))).afterIdle rec'.drain)).noteVehicle v .offered, false)) ∧
    (r.bound = some v →
      s.withdrawOffer v o cause =
        ((told { t.setVehicle v (rec'.loaded rec'.carrier) with trigger := true }).noteVehicle v .offered, false))

/-- R116 to R118, R120, R121: the answers to an offer: taken, mismatched, declined, run out, and too late; STATE for a slot
that is neither the offer nor the timed-out one, and in STALLED. When a renumbering within the withdrawal meets a damaged
record, the code is INTEGRITY (log entry 36). That MISMATCH carries no state is log entry 15, and that an expiry whose
countdown has not run out changes nothing log entry 2: the model's choices. R84, R130: INTEGRITY for a damaged vehicle or order, and
an expiry that finds one does not act. -/
def Obligations.AnswersToAnOffer : Prop :=
  (∀ (h : Hdr) (vehicle : Byte) (slot source dest : Half) (carrier : CarrierField) (s : State) (v : VehicleId) (o : Slot)
      (src : Option BlockId) (d : BlockId) (c : Carrier),
    s.ready h .bay → vehicle? vehicle = some v → slot? slot = some o → blockOrNone? source = some src →
    block? dest = some d → carrier? carrier = some c →
    let fields (t : State) : List Byte := [(t.vehicle v).state.code]
    ((s.vehicle v).flips.length = 2 →
      exec (.accept h vehicle slot source dest carrier) s =
        .next (s.answeredDamaged h .accept (.vehicle v) fields) ∧
      exec (.decline h vehicle slot) s = .next (s.answeredDamaged h .decline (.vehicle v) fields) ∧
      ((s.vehicle v).offer = some 0 → (s.vehicle v).state = .offered →
        exec (.offerExpiry v) s = .next (read (.vehicle v) s).1.endEvent)) ∧
    ∀ r, (s.vehicle v).flips = [] → (s.vehicle v).owner = some h.link → (s.vehicle v).state = .offered →
      (s.vehicle v).order = some o → s.order o = some r → r.flips.length = 2 →
      exec (.accept h vehicle slot source dest carrier) s =
        .next (s.workAnsweredDamaged h .accept v o fields) ∧
      exec (.decline h vehicle slot) s = .next (s.workAnsweredDamaged h .decline v o fields) ∧
      ((s.vehicle v).offer = some 0 → exec (.offerExpiry v) s = .next (read (.order o) s).1.endEvent)) ∧
  (∀ (h : Hdr) (vehicle : Byte) (slot source dest : Half) (carrier : CarrierField) (s : State) (v : VehicleId) (o : Slot)
      (r : OrderRec) (src : Option BlockId) (d : BlockId) (c : Carrier),
    s.ready h .bay → vehicle? vehicle = some v → slot? slot = some o → blockOrNone? source = some src →
    block? dest = some d → carrier? carrier = some c →
    (s.vehicle v).flips = [] → (s.vehicle v).owner = some h.link → (s.vehicle v).state = .offered →
    (s.vehicle v).order = some o → s.order o = some r → r.flips = [] →
    let offered := r.source.bind fun p => (s.port p).block
    let place := (s.port r.destInUse).block
    (src = offered ∧ some d = place ∧ c = r.carrier →
      let r' : OrderRec := { r with state := if r.source = none then .carrying else .toSource }
      let st : VState := if r.source = none then .toDest else .toSource
      exec (.accept h vehicle slot source dest carrier) s =
        .next ((((s.setOrder o (some r')).setVehicle v
          (VehicleRec.restarted s.timing.silence { s.vehicle v with offer := none, state := st })).noteOrder o r'
          .assigned none).noteVehicle v .offered |>.answered h .accept .ok [st.code])) ∧
    (¬(src = offered ∧ some d = place ∧ c = r.carrier) →
      let t := (s.withdrawOffer v o .mismatch).1
      let u := t.setVehicle v (VehicleRec.restarted s.timing.silence (t.vehicle v))
      ((s.withdrawOffer v o .mismatch).2 = false →
        exec (.accept h vehicle slot source dest carrier) s =
          .next (u.answered h .accept .mismatch
            (Enc.opt2 Enc.block offered ++ Enc.opt2 Enc.block place ++ Enc.carrier r.carrier
              ++ [(if src = offered then 0 else 1) + (if some d = place then 0 else 2)
                + (if c = r.carrier then 0 else 4)]))) ∧
      ((s.withdrawOffer v o .mismatch).2 = true →
        exec (.accept h vehicle slot source dest carrier) s =
          .next (u.answered h .accept .integrity [(u.vehicle v).state.code]))) ∧
    (let t := (s.withdrawOffer v o .declined).1
     let u := t.setVehicle v (VehicleRec.restarted s.timing.silence (t.vehicle v))
     exec (.decline h vehicle slot) s =
       .next (u.answered h .decline (if (s.withdrawOffer v o .declined).2 then .integrity else .ok)
         [(u.vehicle v).state.code])) ∧
    ((s.vehicle v).offer = some 0 → exec (.offerExpiry v) s = .next (s.withdrawOffer v o .timeout).1.endEvent)) ∧
  (∀ (h : Hdr) (vehicle : Byte) (slot source dest : Half) (carrier : CarrierField) (s : State) (v : VehicleId) (o : Slot)
      (src : Option BlockId) (d : BlockId) (c : Carrier),
    s.ready h .bay → vehicle? vehicle = some v → slot? slot = some o → blockOrNone? source = some src →
    block? dest = some d → carrier? carrier = some c →
    (s.vehicle v).flips = [] → (s.vehicle v).owner = some h.link →
    ((s.vehicle v).state ≠ .stalled → (s.vehicle v).timedOut = some o →
      ¬((s.vehicle v).state = .offered ∧ (s.vehicle v).order = some o) →
      let u := s.setVehicle v (VehicleRec.restarted s.timing.silence (s.vehicle v))
      exec (.accept h vehicle slot source dest carrier) s =
        .next (u.answered h .accept .tooLate [(s.vehicle v).state.code]) ∧
      exec (.decline h vehicle slot) s = .next (u.answered h .decline .tooLate [(s.vehicle v).state.code])) ∧
    ((s.vehicle v).state = .stalled ∨ ((s.vehicle v).timedOut ≠ some o ∧
        ¬((s.vehicle v).state = .offered ∧ (s.vehicle v).order = some o)) →
      exec (.accept h vehicle slot source dest carrier) s = .next (s.answered h .accept .state []) ∧
      exec (.decline h vehicle slot) s = .next (s.answered h .decline .state []))) ∧
  ∀ (s : State) (v : VehicleId), (s.vehicle v).offer ≠ some 0 → exec (.offerExpiry v) s = .next s

/-- R122 to R125: PICK_DONE by the carrier read. That FAILED carries the order's fields as they stood is log entry 28, and that
binding keeps an order's declined-by log entry 17: the model's readings. R84, R130: INTEGRITY for a damaged vehicle or order; that
the answer then has no outcome and no bound slot is log entry 15. -/
def Obligations.PickDone : Prop :=
  (∀ (h : Hdr) (vehicle : Byte) (carrier : CarrierField) (s : State) (v : VehicleId) (c : Carrier),
    s.ready h .bay → vehicle? vehicle = some v → carrier? carrier = some c →
    let fields (t : State) : List Byte :=
      [0xFF, (t.vehicle v).state.code] ++ Enc.carrier (t.vehicle v).carrier ++ [0xFF, 0xFF]
    ((s.vehicle v).flips.length = 2 →
      exec (.pickDone h vehicle carrier) s = .next (s.answeredDamaged h .pickDone (.vehicle v) fields)) ∧
    ∀ o r, (s.vehicle v).flips = [] → (s.vehicle v).owner = some h.link → (s.vehicle v).state = .toSource →
      (s.vehicle v).order = some o → s.order o = some r → r.flips.length = 2 →
      exec (.pickDone h vehicle carrier) s = .next (s.workAnsweredDamaged h .pickDone v o fields)) ∧
  ∀ (h : Hdr) (vehicle : Byte) (carrier : CarrierField) (s : State) (v : VehicleId) (c : Carrier) (o : Slot)
      (r : OrderRec) (p : PortId) (b : BlockId),
    s.ready h .bay → vehicle? vehicle = some v → carrier? carrier = some c →
    (s.vehicle v).flips = [] → (s.vehicle v).owner = some h.link → (s.vehicle v).state = .toSource →
    (s.vehicle v).order = some o → s.order o = some r → r.flips = [] → r.source = some p → (s.port p).block = some b →
    let failed (cause : OrderCause) : State := (s.noteOrder o r .failed (some cause)).freeOrder o
    let restart := VehicleRec.restarted s.timing.silence
    ((s.vehicle v).holds.head? ≠ some b →
      exec (.pickDone h vehicle carrier) s = .next (s.answered h .pickDone .state [])) ∧
    ((s.vehicle v).holds.head? = some b →
      (c = r.carrier →
        exec (.pickDone h vehicle carrier) s =
          .next (((((s.releasePort o p).setOrder o (some { r with state := .carrying })).setVehicle v
            (restart { s.vehicle v with state := .toDest, carrier := c })).noteOrder o { r with state := .carrying }
            .picked none).noteVehicle v .toSource |>.answered h .pickDone .ok
            ([0x00, 0x04] ++ Enc.carrier c ++ [0xFF, 0xFF]))) ∧
      (c ≠ r.carrier → c = .none → s.idleSeq ≠ 0xFFFFFFFF →
        let rec' := (s.vehicle v).idled (s.idleSeq + 1)
        exec (.pickDone h vehicle carrier) s =
          .next (((((failed .sourceEmpty).setVehicle v (restart rec')).afterIdle (s.vehicle v).drain).noteVehicle v
            .toSource).answered h .pickDone .ok
            ([0x01, rec'.state.code] ++ Enc.carrier .none ++ [0xFF, 0xFF]))) ∧
      (∀ id bound, c ≠ r.carrier → c = .id id → s.clean = true → (∀ w, w ≠ v → (s.vehicle w).carrier ≠ c) →
        (∀ x r', s.order x = some r' → r'.state ≠ .queued → r'.carrier ≠ c) → s.queuedNaming c = bound →
        let t := match bound with
          | some x => (failed .carrierMismatch).updOrder x fun r' => { r' with source := none, bound := some v }
          | none => failed .carrierMismatch
        exec (.pickDone h vehicle carrier) s =
          .next (({ t.setVehicle v (restart ((s.vehicle v).loaded c)) with trigger := true }.noteVehicle v
            .toSource).answered h .pickDone .ok ([0x02, 0x05] ++ Enc.carrier c ++ Enc.opt2 Enc.slot bound))) ∧
      (c ≠ r.carrier → (c = .unknown ∨ (s.clean = true ∧ (∃ id, c = .id id) ∧
        ((∃ w, w ≠ v ∧ (s.vehicle w).carrier = c) ∨
          ∃ x r', s.order x = some r' ∧ r'.state ≠ .queued ∧ r'.carrier = c))) →
        exec (.pickDone h vehicle carrier) s =
          .next (({ (failed .carrierMismatch).setVehicle v (restart ((s.vehicle v).loaded .unknown)) with
            trigger := true }.noteVehicle v .toSource).answered h .pickDone .ok
            ([0x02, 0x05] ++ Enc.carrier .unknown ++ [0xFF, 0xFF]))))

/-- R126 to R128: DROP_DONE at the destination in use, and DROP_FAIL with and without an alternate to turn to. That REFUSED
carries no destination and no block is log entry 15, and that DONE and FAILED carry the order's fields as they stood log
entry 28: the model's choices. R84, R130: INTEGRITY for a damaged vehicle or order; what DROP_FAIL's answer then carries is log
entry 15. The repair of the order has freed it and left the vehicle LOADED_IDLE, so its silence countdown restarts (R68, R168). -/
def Obligations.DropReports : Prop :=
  (∀ (h : Hdr) (vehicle : Byte) (s : State) (v : VehicleId),
    s.ready h .bay → vehicle? vehicle = some v →
    let state (t : State) : List Byte := [(t.vehicle v).state.code]
    let left (t : State) : List Byte :=
      [0xFF] ++
        match (t.vehicle v).order.bind t.order with
        | some r =>
          let p := if r.altInUse then r.alt.getD r.dest else r.dest
          Enc.port p ++ Enc.opt2 Enc.block (t.port p).block
        | none => [0xFF, 0xFF, 0xFF]
    ((s.vehicle v).flips.length = 2 →
      exec (.dropDone h vehicle) s = .next (s.answeredDamaged h .dropDone (.vehicle v) state) ∧
      exec (.dropFail h vehicle) s = .next (s.answeredDamaged h .dropFail (.vehicle v) left)) ∧
    ∀ o r, (s.vehicle v).flips = [] → (s.vehicle v).owner = some h.link → (s.vehicle v).state = .toDest →
      (s.vehicle v).order = some o → s.order o = some r → r.flips.length = 2 →
      (exec (.dropDone h vehicle) s = .next (s.workAnsweredDamaged h .dropDone v o state) ∧
        exec (.dropFail h vehicle) s = .next (s.workAnsweredDamaged h .dropFail v o left)) ∧
      ((∀ w, (s.vehicle w).flips = []) →
        exec (.dropDone h vehicle) s = .next (s.workAnsweredDamaged h .dropDone v o fun _ => [0x05]) ∧
        exec (.dropFail h vehicle) s =
          .next (s.workAnsweredDamaged h .dropFail v o fun _ => [0xFF, 0xFF, 0xFF, 0xFF]))) ∧
  ∀ (h : Hdr) (vehicle : Byte) (s : State) (v : VehicleId) (o : Slot) (r : OrderRec),
    s.ready h .bay → vehicle? vehicle = some v → (s.vehicle v).flips = [] → (s.vehicle v).owner = some h.link →
    (s.vehicle v).state = .toDest → (s.vehicle v).order = some o → s.order o = some r → r.flips = [] →
    let restart := VehicleRec.restarted s.timing.silence
    (∀ b, (s.port r.destInUse).block = some b →
      ((s.vehicle v).holds.head? ≠ some b →
        exec (.dropDone h vehicle) s = .next (s.answered h .dropDone .state [])) ∧
      ((s.vehicle v).holds.head? = some b → s.idleSeq ≠ 0xFFFFFFFF →
        let rec' := (s.vehicle v).idled (s.idleSeq + 1)
        exec (.dropDone h vehicle) s =
          .next ((((((s.noteOrder o r .done none).freeOrder o).setVehicle v (restart rec')).afterIdle
            (s.vehicle v).drain).noteVehicle v .toDest).answered h .dropDone .ok [rec'.state.code]))) ∧
    (∀ p, r.alt = some p → r.altInUse = false → (s.port p).down = false → (s.port p).reservation = none →
      p ≠ r.dest →
      let r' : OrderRec := { r with altInUse := true }
      exec (.dropFail h vehicle) s =
        .next ((((((s.releasePort o r.dest).setPort p { s.port p with reservation := some ⟨o, .drop⟩ }).setOrder o
          (some r')).notifyOwner (s.vehicle v).owner (.reroute v o .dropFail p (s.port p).block none)).noteOrder o r'
          .rerouted none).setVehicle v (restart (s.vehicle v)) |>.answered h .dropFail .ok
          ([0x00] ++ Enc.port p ++ Enc.opt2 Enc.block (s.port p).block))) ∧
    ((r.altInUse = true ∨ ∀ p, r.alt = some p → (s.port p).down = true ∨ (s.port p).reservation ≠ none) →
      exec (.dropFail h vehicle) s =
        .next (({ ((s.noteOrder o r .failed (some .dropRefused)).freeOrder o).setVehicle v
            (restart ((s.vehicle v).loaded (s.vehicle v).carrier)) with trigger := true }.noteVehicle v
          .toDest).answered h .dropFail .ok [0x01, 0xFF, 0xFF, 0xFF]))

/-! ## Dispatch and promotion -/

/-- R103, R111 to R113: a usable port; the destination, and the eligible vehicle at the smallest distance with the lowest idle
sequence; with no usable port, no eligible vehicle, or a bound vehicle that is not LOADED_IDLE, the order is passed over. -/
def Obligations.DispatchChoice : Prop :=
  (∀ (s : State) (p : PortId), s.usable p = true ↔ (s.port p).down = false ∧ (s.port p).reservation = none) ∧
  (∀ (s : State) (r : OrderRec) (v : VehicleId), r.source = none → r.bound = some v → (s.vehicle v).flips = [] →
    ((s.vehicle v).state ≠ .loadedIdle → s.consider r = (s, none)) ∧
    ((s.vehicle v).state = .loadedIdle → s.usable r.dest = true → s.consider r = (s, some (v, false))) ∧
    (∀ p, (s.vehicle v).state = .loadedIdle → s.usable r.dest = false → r.alt = some p → s.usable p = true →
      s.consider r = (s, some (v, true))) ∧
    ((s.vehicle v).state = .loadedIdle → s.usable r.dest = false → (∀ p, r.alt = some p → s.usable p = false) →
      s.consider r = (s, none))) ∧
  (∀ (s : State) (r : OrderRec), r.source = none → r.bound = none → s.consider r = (s, none)) ∧
  ∀ (s : State) (r : OrderRec) (p : PortId) (b : BlockId), s.clean = true → r.source = some p →
    (s.port p).block = some b →
    let dist (v : VehicleId) : Option Byte :=
      (s.vehicle v).holds.head?.map fun x => (s.bay (s.block x).fixed.bay).row[(s.static b).bay.val]
    let limit : Byte := match r.cls with
      | .hot => s.timing.reachHot
      | .express => s.timing.reachExpress
      | .standard => s.timing.reachStandard
      | .bulk => s.timing.reachBulk
    let eligible (v : VehicleId) (d : Byte) : Prop :=
      (s.vehicle v).state = .idle ∧ (s.vehicle v).drain = false ∧ r.declinedBy ≠ some v ∧ dist v = some d ∧ d ≠ 255 ∧
        d ≤ limit
    (s.usable p = false → s.consider r = (s, none)) ∧
    (s.usable r.dest = false → (∀ q, r.alt = some q → s.usable q = false) → s.consider r = (s, none)) ∧
    ((∀ v d, ¬eligible v d) → s.consider r = (s, none)) ∧
    (∀ v d, s.usable p = true → eligible v d →
      (∀ w e, eligible w e → w ≠ v → d < e ∨ (d = e ∧ (s.vehicle v).idleSeq < (s.vehicle w).idleSeq)) →
      (s.usable r.dest = true → s.consider r = (s, some (v, false))) ∧
      ∀ q, s.usable r.dest = false → r.alt = some q → s.usable q = true → s.consider r = (s, some (v, true)))

/-- R110, R111, R114, R115: one decision: the first order of HOT, EXPRESS, STANDARD and BULK, each from its
head, that can go is offered, in one step; with none, the trigger is cleared. The trigger is cleared as the scan begins (log
entry 30). -/
def Obligations.DispatchDecision : Prop :=
  ∀ s : State,
    (s.mode ≠ .run ∨ s.trigger = false → exec .dispatchDecision s = .next s) ∧
    (s.mode = .run → s.trigger = true → s.clean = true →
      let s0 := { s with trigger := false }
      let scanned := s.queues.hot ++ s.queues.express ++ s.queues.standard ++ s.queues.bulk
      let stays (x : Slot) : Prop := ∀ r, s.order x = some r → (s0.consider r).2 = none
      ((∀ x ∈ scanned, stays x) → exec .dispatchDecision s = .next s0.endEvent) ∧
      ∀ pre o post r v alternate, scanned = pre ++ o :: post → (∀ x ∈ pre, stays x) →
        s.order o = some r → (s0.consider r).2 = some (v, alternate) →
        let r' : OrderRec := { r with
          state := .offered, vehicle := some v, declinedBy := none, altInUse := alternate }
        let t := (s.leaveQueue o).setOrder o (some r')
        let t := t.setVehicle v { s.vehicle v with
          state := .offered, order := some o, offer := some (s.timing.offer.toNat * 100), timedOut := none }
        let t := match r.source with
          | some p => t.setPort p { s.port p with reservation := some ⟨o, .pick⟩ }
          | none => t
        let t := t.setPort r'.destInUse { t.port r'.destInUse with reservation := some ⟨o, .drop⟩ }
        exec .dispatchDecision s =
          .next ((t.notifyOwner (s.vehicle v).owner (.assign v o r.source (r.source.bind fun p => (s.port p).block)
            r'.destInUse (s.port r'.destInUse).block r.carrier)).noteVehicle v (s.vehicle v).state).endEvent)

/-- R101: a promotion that is due moves the order one class up; a slot whose promotion is not due is left (log entry 2). R107: one
that finds its order damaged does not act. -/
def Obligations.Promotion : Prop :=
  ∀ (s : State) (o : Slot),
    (∀ r, s.order o = some r → r.flips.length = 2 → r.state = .queued → promoTime s.timing r.cls ≠ 0 →
      promoTime s.timing r.cls * 1000 ≤ (s.msBase - r.classEntry).toNat →
      exec (.promotion o) s = .next (read (.order o) s).1.endEvent) ∧
    (∀ r, s.order o = some r → r.flips = [] → r.state = .queued → promoTime s.timing r.cls ≠ 0 →
      promoTime s.timing r.cls * 1000 ≤ (s.msBase - r.classEntry).toNat →
      let r' : OrderRec := { r with
        cls := match r.cls with
          | .bulk => .standard
          | .standard => .express
          | _ => .hot
        classEntry := s.msBase }
      exec (.promotion o) s =
        .next ({ (s.leaveQueue o).queued o r' with trigger := true }.noteOrder o r' .promoted none).endEvent) ∧
    ((∀ r, s.order o = some r → r.state ≠ .queued ∨ promoTime s.timing r.cls = 0 ∨
      (s.msBase - r.classEntry).toNat < promoTime s.timing r.cls * 1000) →
      exec (.promotion o) s = .next s)

/-! ## The map and the mode -/

/-- R5: WRITE_BLOCKS: RANGE writes nothing; otherwise each record goes into both copies in list order, the dynamic part
kept. A block record found damaged is repaired first, is written like the rest, and makes the code INTEGRITY. -/
def Obligations.WriteBlocks : Prop :=
  ∀ (h : Hdr) (records : List BlockField) (s : State), s.ready h .service → s.mode = .setup →
    (records = [] ∨ 16 < records.length ∨ (∃ r ∈ records, blockRecord? r = none) →
      exec (.writeBlocks h records) s = .next (s.answered h .writeBlocks .range [])) ∧
    (∀ rs, records ≠ [] → records.length ≤ 16 → records.mapM blockRecord? = some rs →
      (∀ x ∈ rs, (s.block x.1).flips = []) →
      exec (.writeBlocks h records) s =
        .next ({ s with
          map := rs.foldl (fun (m : Vector BlockStatic 1024) (x : BlockId × BlockStatic) => m.set x.1.val x.2) s.map
          blocks := rs.foldl (fun (bs : Vector BlockRec 1024) (x : BlockId × BlockStatic) =>
            bs.set x.1.val { bs[x.1.val] with fixed := x.2 }) s.blocks
          committed := false }.answered h .writeBlocks .ok [.ofNat 8 rs.length])) ∧
    (∀ rs, records ≠ [] → records.length ≤ 16 → records.mapM blockRecord? = some rs →
      let written (t : State × Bool) (x : BlockId × BlockStatic) : State × Bool :=
        let u := read (.block x.1) t.1
        ({ u.1 with
          map := u.1.map.set x.1.val x.2
          blocks := u.1.blocks.set x.1.val { u.1.block x.1 with fixed := x.2, flips := [] } }, t.2 || u.2)
      let t := rs.foldl written (s, false)
      exec (.writeBlocks h records) s =
        .next ({ t.1 with committed := false }.answered h .writeBlocks (if t.2 then .integrity else .ok)
          [.ofNat 8 rs.length]))

/-- R6 and R7: WRITE_PORTS and WRITE_BAY whole. -/
def Obligations.WritePortsAndBay : Prop :=
  (∀ (h : Hdr) (records : List PortField) (s : State), s.ready h .service → s.mode = .setup →
    (records = [] ∨ 32 < records.length ∨
      (∃ r ∈ records, 192 ≤ r.port.toNat ∨ (1024 ≤ r.block.toNat ∧ r.block ≠ 0xFFFF)) →
      exec (.writePorts h records) s = .next (s.answered h .writePorts .range [])) ∧
    (∀ rs, records ≠ [] → records.length ≤ 32 → records.mapM portRecord? = some rs →
      exec (.writePorts h records) s =
        .next ({ s with
          ports := rs.foldl (fun (ps : Vector PortRec 192) (x : PortId × Option BlockId) =>
            ps.set x.1.val { ps[x.1.val] with block := x.2 }) s.ports
          committed := false }.answered h .writePorts .ok [.ofNat 8 rs.length]))) ∧
  ∀ (h : Hdr) (bay owner : Byte) (row : Vector Byte 32) (s : State), s.ready h .service → s.mode = .setup →
    (32 ≤ bay.toNat ∨ (6 ≤ owner.toNat ∧ owner ≠ 0xFF) →
      exec (.writeBay h bay owner row) s = .next (s.answered h .writeBay .range [])) ∧
    (∀ (a : BayId) (l : LinkId), bay.toNat = a.val → owner.toNat = l.val →
      exec (.writeBay h bay owner row) s =
        .next ({ s.setBay a ⟨some l, row⟩ with committed := false }.answered h .writeBay .ok [0x01])) ∧
    (∀ a : BayId, bay.toNat = a.val → owner = 0xFF →
      exec (.writeBay h bay owner row) s =
        .next ({ s.setBay a ⟨none, row⟩ with committed := false }.answered h .writeBay .ok [0x01]))

/-- R9, R10, R12: COMMIT_MAP: a map that passes every check is committed; otherwise the first failing check, in the order of
the passes and of the checks of one block or bay, is answered INVALID_MAP with its reason and changes nothing. -/
def Obligations.CommitMap : Prop :=
  ∀ (h : Hdr) (s : State), s.ready h .service → s.mode = .setup →
    let preds (b : BlockId) : Nat :=
      (allBlocks.filter fun x => s.used x && (s.static x).succs.contains b).length
    let succsOk (b : BlockId) : Prop := ∀ x ∈ (s.static b).succs, s.used x = true ∧ x ≠ b
    let countOk (b : BlockId) : Prop :=
      if (s.static b).kind = .diverge then ∃ x y, (s.static b).succs = [x, y] ∧ x ≠ y
      else ∃ x, (s.static b).succs = [x]
    let predsOk (b : BlockId) : Prop := preds b = (if (s.static b).kind = .merge then 2 else 1)
    let namedOk (b : BlockId) : Prop :=
      (s.static b).kind = .port → ∃ p, (s.static b).port = some p ∧ (s.port p).block = some b
    let blockOk (b : BlockId) : Prop := succsOk b ∧ countOk b ∧ predsOk b ∧ namedOk b
    let portOk (p : PortId) : Prop :=
      ∀ b, (s.port p).block = some b → (s.static b).kind = .port ∧ (s.static b).port = some p
    let ownedOk (a : BayId) : Prop :=
      (∃ b, s.used b = true ∧ (s.static b).bay = a) → ∃ l, (s.bay a).owner = some l ∧ (s.link l).role = .bay
    let selfOk (a : BayId) : Prop := (s.bay a).row[a.val] = 0
    let invalid (object : Byte) (number : Nat) (reason : Byte) : Prop :=
      exec (.commitMap h) s = .next (s.answered h .commitMap .invalidMap ([object] ++ Enc.num2 number ++ [reason]))
    ((∀ b, s.used b = true → blockOk b) → (∀ p, portOk p) → (∀ a, ownedOk a ∧ selfOk a) →
      exec (.commitMap h) s =
        .next (({ s with committed := true, mode := .run }.notifyMode .setup .commit).answered h .commitMap .ok [])) ∧
    (∀ b : BlockId, s.used b = true → (∀ x, x < b → s.used x = true → blockOk x) →
      (¬succsOk b → invalid 0x00 b.val 0x00) ∧
      (succsOk b → ¬countOk b → invalid 0x00 b.val 0x01) ∧
      (succsOk b → countOk b → ¬predsOk b → invalid 0x00 b.val 0x02) ∧
      (succsOk b → countOk b → predsOk b → ¬namedOk b → invalid 0x00 b.val 0x03)) ∧
    (∀ p : PortId, (∀ b, s.used b = true → blockOk b) → ¬portOk p → (∀ q, q < p → portOk q) →
      invalid 0x01 p.val 0x04) ∧
    (∀ a : BayId, (∀ b, s.used b = true → blockOk b) → (∀ p, portOk p) → (∀ x, x < a → ownedOk x ∧ selfOk x) →
      (¬ownedOk a → invalid 0x02 a.val 0x05) ∧
      (ownedOk a → ¬selfOk a → invalid 0x02 a.val 0x06))

/-- R12, R13, R14: REOPEN_MAP, HALT and RESUME, and where each leaves the mode as it was. That a damaged vehicle record ends
REOPEN_MAP with INTEGRITY is the model's reading of R168 (log entry 11). -/
def Obligations.ModeRequests : Prop :=
  ∀ (h : Hdr) (s : State), s.ready h .service → s.mode ≠ .setup →
    (∀ v, (s.vehicle v).flips.length = 2 → (∀ w, w < v → (s.vehicle w).flips = []) →
      exec (.reopenMap h) s = .next (s.answeredDamaged h .reopenMap (.vehicle v) fun _ => [])) ∧
    (s.clean = true → ((∃ v, (s.vehicle v).state ≠ .offline) ∨ ∃ o, s.order o ≠ none) →
      exec (.reopenMap h) s = .next (s.answered h .reopenMap .state [])) ∧
    (s.clean = true → (∀ v, (s.vehicle v).state = .offline) → (∀ o, s.order o = none) →
      exec (.reopenMap h) s =
        .next (({ s with mode := .setup }.notifyMode s.mode .reopen).answered h .reopenMap .ok [])) ∧
    (s.mode = .run →
      exec (.halt h) s = .next (({ s with mode := .halted }.notifyMode .run .halt).answered h .halt .ok []) ∧
      exec (.resume h) s = .next (s.answered h .resume .ok [])) ∧
    (s.mode = .halted →
      exec (.halt h) s = .next (s.answered h .halt .ok []) ∧
      exec (.resume h) s =
        .next (({ { s with mode := .run }.askArbiters (List.finRange 1024) with trigger := true }.notifyMode .halted
          .resume).answered h .resume .ok [])) ∧
    (∀ (t : State) (m : Mode) (cause : ModeCause) (l : LinkId),
      (t.notifyMode m cause).link l =
        ((t.link l).enqueue (.mode m t.mode cause)).attend .modeChanged)

/-- R15, R16, R42, R85, R108, R131, R146: SOFT_RESET converted into a halt, and performed. That a damaged vehicle record ends it
with INTEGRITY is the model's reading of R168 (log entry 11). -/
def Obligations.SoftReset : Prop :=
  (∀ (h : Hdr) (s : State) (v : VehicleId), s.ready h .service → (s.vehicle v).flips.length = 2 →
    (∀ w, w < v → (s.vehicle w).flips = []) →
    exec (.softReset h) s = .next (s.answeredDamaged h .softReset (.vehicle v) fun _ => [])) ∧
  ∀ (h : Hdr) (s : State), s.ready h .service → s.clean = true →
    ((∃ v, (s.vehicle v).state ≠ .offline) → s.mode = .run →
      exec (.softReset h) s =
        .next (({ s with mode := .halted }.notifyMode .run .softReset).answered h .softReset .converted [])) ∧
    ((∃ v, (s.vehicle v).state ≠ .offline) → s.mode ≠ .run →
      exec (.softReset h) s = .next (s.answered h .softReset .converted [])) ∧
    ((∀ v, (s.vehicle v).state = .offline) →
      let m : Mode := if s.committed then .run else .setup
      exec (.softReset h) s =
        .next ({ s with
          mode := m
          blocks := s.blocks.map fun (r : BlockRec) =>
            if r.frozen then { r with frozen := false, holder := .none, waiters := [] } else r
          ports := s.ports.map fun (r : PortRec) => { r with reservation := none }
          vehicles := s.vehicles.map fun (r : VehicleRec) => { r with timedOut := none, idleSeq := 0 }
          orders := .replicate 256 none, queues := ⟨[], [], [], []⟩, trigger := false
          capture := none, corrections := 0, cursor := .block 0, submitSeq := 0, waiterSeq := 0, idleSeq := 0
          links := s.links.map fun (k : Link) =>
            if k.role = Role.disabled then { k with queue := [], attention := ⟨false, false, false, false, false⟩ }
            else { k with
              queue := [.mode s.mode m .softReset], attention := ⟨false, false, false, true, false⟩ }
          }.answered h .softReset .ok []))

/-! ## Settings and integrity -/

/-- R52, R53, R54: SET_FENCE and CLEAR_FENCE: the ranges, the slot, the arbiters of the blocks it covered before in ascending
number, and the reply. -/
def Obligations.Fences : Prop :=
  (∀ (s : State) (b : BlockId), s.fenced b = true ↔
    ∃ f, (s.fence f).active = true ∧ (s.fence f).first ≤ b ∧ b ≤ (s.fence f).last) ∧
  ∀ (h : Hdr) (fence : Byte) (first last : Half) (s : State), s.ready h .service →
    (16 ≤ fence.toNat ∨ 1024 ≤ first.toNat ∨ 1024 ≤ last.toNat ∨ last.toNat < first.toNat →
      exec (.setFence h fence first last) s = .next (s.answered h .setFence .range [])) ∧
    (16 ≤ fence.toNat → exec (.clearFence h fence) s = .next (s.answered h .clearFence .range [])) ∧
    (∀ f : FenceId, fence.toNat = f.val →
      let old := s.fence f
      let covered := (List.finRange 1024).filter fun b => old.active && old.first ≤ b && b ≤ old.last
      let before := Enc.flag old.active ++ Enc.block old.first ++ Enc.block old.last
      (∀ x y : BlockId, first.toNat = x.val → last.toNat = y.val → x ≤ y →
        exec (.setFence h fence first last) s =
          .next (((s.setFence f ⟨true, x, y⟩).askArbiters covered).answered h .setFence .ok before)) ∧
      exec (.clearFence h fence) s =
        .next (((s.setFence f { old with active := false }).askArbiters covered).answered h .clearFence .ok before))

/-- R8, R9, R13, R18 to R21, R57, R86, R89, R90, R103: the laws that tie the tables together, each spelled in
Sys2Proof/Safety.lean: holders and holding lists agree, at most 6 holds and 8 waiters, waits and waiter lists agree, vehicles
and orders name each other in matching states, queues and reservations are those of the orders. Every step keeps them from a
state with no record of more than two flipped bits, of which what a read finds is a free value (log entry 9). -/
def Obligations.LawsAreKept : Prop :=
  ∀ s t : State, s.lawful → s.fewFlips → step s = .next t → t.lawful

/-- R49, R148 to R152, R164: SET_TIMING, SET_WEIGHTS, SET_LINK_RATE and SET_CLOCK: their ranges, what they write and what they
answer; the promotions of a lowered promotion time, BULK, STANDARD and EXPRESS in queue order (R102); and the advance of the
fab clock when the divider passes 999. That a change from 0, never, to a time counts as lowering is log entry 21, and that
FAB_CLOCK_ADVANCE with the divider elsewhere changes nothing log entry 2: the model's readings. -/
def Obligations.WeightsRateAndClock : Prop :=
  (∀ (h : Hdr) (t : Timing) (s : State), s.ready h .service →
    (t.offer = 0 ∨ t.aging = 0 → exec (.setTiming h t) s = .next (s.answered h .setTiming .range [])) ∧
    (t.offer ≠ 0 → t.aging ≠ 0 → s.clean = true →
      let old := s.timing
      let written : State := { s with
        timing := t
        vehicles := s.vehicles.map fun (r : VehicleRec) =>
          if old.silence ≠ 0 ∧ t.silence = 0 then { r with silence := none }
          else if old.silence = 0 ∧ t.silence ≠ 0 ∧ r.state ≠ VState.offline ∧ r.state ≠ VState.stalled then
            { r with silence := some (t.silence.toNat * 100) }
          else r }
      let due (u : State) (r : OrderRec) : Prop := r.state = .queued ∧ promoTime t r.cls ≠ 0 ∧
        promoTime t r.cls * 1000 ≤ (u.msBase - r.classEntry).toNat
      let promoted (u : State) (o : Slot) : State :=
        match u.order o with
        | some r =>
          if due u r then
            let r' : OrderRec := { r with cls := r.cls.up, classEntry := u.msBase }
            { (u.leaveQueue o).queued o r' with trigger := true }.noteOrder o r' .promoted none
          else u
        | none => u
      let promotes (c : Cls) (u : State) : State :=
        if promoTime t c ≠ 0 ∧ (promoTime old c = 0 ∨ promoTime t c < promoTime old c) then
          (u.queues.get c).foldl promoted u
        else u
      let last := promotes .express (promotes .standard (promotes .bulk written))
      exec (.setTiming h t) s =
        .next ({ last with
          trigger := last.trigger || decide (¬(old.reachHot = t.reachHot ∧ old.reachExpress = t.reachExpress ∧
            old.reachStandard = t.reachStandard ∧ old.reachBulk = t.reachBulk))
          scrubTimer := if t.scrub = 0 then none else if old.scrub = 0 then some t.scrub.toNat else s.scrubTimer
          }.answered h .setTiming .ok (Timing.bytes old)))) ∧
  (∀ (h : Hdr) (w : Weights) (s : State), s.ready h .service →
    (200 < w.hot.toNat ∨ 200 < w.express.toNat ∨ 200 < w.standard.toNat ∨ 200 < w.bulk.toNat ∨ 200 < w.none.toNat →
      exec (.setWeights h w) s = .next (s.answered h .setWeights .range [])) ∧
    (w.hot.toNat ≤ 200 → w.express.toNat ≤ 200 → w.standard.toNat ≤ 200 → w.bulk.toNat ≤ 200 → w.none.toNat ≤ 200 →
      exec (.setWeights h w) s = .next ({ s with weights := w }.answered h .setWeights .ok
        [w.hot, w.express, w.standard, w.bulk, w.none]))) ∧
  (∀ (h : Hdr) (link rate : Byte) (s : State), s.ready h .service →
    (6 ≤ link.toNat ∨ 5 ≤ rate.toNat →
      exec (.setLinkRate h link rate) s = .next (s.answered h .setLinkRate .range [])) ∧
    (∀ (l : LinkId) (r : Rate), link.toNat = l.val → rate? rate = some r →
      exec (.setLinkRate h link rate) s =
        .next ((s.setLink h.link { s.link h.link with pendingRate := some (l, r) }).answered h .setLinkRate .ok
          [.ofNat 8 l.val, (s.link l).rate.code]))) ∧
  (∀ (h : Hdr) (w : Word) (s : State), s.free h →
    (s.link h.link).role = .scheduler ∨ (s.link h.link).role = .service →
    exec (.setClock h w) s =
      .next ({ s with fabClock := w, divider := 0 }.answered h .setClock .ok (bytes4 s.fabClock))) ∧
  ∀ s : State,
    (s.divider = 999 → exec .fabClockAdvance s = .next { s with
      divider := 0
      fabClock := if s.fabClock = 0 then 0 else if s.fabClock = 0xFFFFFFFF then 1 else s.fabClock + 1 }) ∧
    (s.divider ≠ 999 → exec .fabClockAdvance s = .next s)

/-- R153, R154: each sequence counter is incremented before use; at its top the values still compared are first renumbered
in the order they stood, and an idle sequence that is not compared becomes 0. -/
def Obligations.SequenceCounters : Prop :=
  let place (values : List Word) (x : Word) : Word := .ofNat 32 ((values.filter (· < x)).length + 1)
  (∀ (values : List Word) (x y : Word), values.length < 0xFFFFFFFF → x ∈ values → x < y →
    place values x < place values y) ∧
  ∀ s : State, s.clean = true →
    let idle := (s.vehicles.toList.filter fun (r : VehicleRec) => r.state = VState.idle).map (·.idleSeq)
    let live := (s.orders.toList.filterMap fun (x : Option OrderRec) => x).map (·.submitSeq)
    let waiting := (s.blocks.toList.flatMap fun (r : BlockRec) => r.waiters).map (·.seq)
    (s.idleSeq ≠ 0xFFFFFFFF → s.nextIdleSeq read = ({ s with idleSeq := s.idleSeq + 1 }, s.idleSeq + 1, false)) ∧
    (s.submitSeq ≠ 0xFFFFFFFF → s.nextSubmitSeq read = ({ s with submitSeq := s.submitSeq + 1 }, s.submitSeq + 1)) ∧
    (s.waiterSeq ≠ 0xFFFFFFFF → s.readyWaiterSeq read = (s, false)) ∧
    (∀ v b, s.enterWait v b = { (s.updBlock b fun r => { r with
        waiters := r.waiters ++ [⟨v, s.waiterSeq + 1, s.msBase⟩] }).updVehicle v
          (fun r => { r with waitingOn := some b }) with waiterSeq := s.waiterSeq + 1 }) ∧
    (s.idleSeq = 0xFFFFFFFF → s.nextIdleSeq read = ({ s with
      vehicles := s.vehicles.map fun (r : VehicleRec) =>
        { r with idleSeq := if r.state = VState.idle then place idle r.idleSeq else 0 }
      idleSeq := .ofNat 32 idle.length + 1 }, .ofNat 32 idle.length + 1, false)) ∧
    (s.submitSeq = 0xFFFFFFFF → s.nextSubmitSeq read = ({ s with
      orders := s.orders.map fun (x : Option OrderRec) => x.map fun (r : OrderRec) =>
        { r with submitSeq := place live r.submitSeq }
      submitSeq := .ofNat 32 live.length + 1 }, .ofNat 32 live.length + 1)) ∧
    (s.waiterSeq = 0xFFFFFFFF → s.readyWaiterSeq read = ({ s with
      blocks := s.blocks.map fun (r : BlockRec) =>
        { r with waiters := r.waiters.map fun (w : Waiter) => { w with seq := place waiting w.seq } }
      waiterSeq := .ofNat 32 waiting.length }, false))

/-- R143: THAW of a FROZEN block that one vehicle lists, that none lists, and of a block that is not FROZEN. INTEGRITY, the block
left FROZEN with holder unknown, when its record is damaged. -/
def Obligations.Thaw : Prop :=
  (∀ (h : Hdr) (block : Half) (s : State) (b : BlockId), s.ready h .service → block? block = some b →
    (s.block b).flips.length = 2 → (∀ v, (s.vehicle v).flips = []) →
    exec (.thaw h block) s = .next (s.answeredDamaged h .thaw (.block b) fun _ => [0xFE])) ∧
  ∀ (h : Hdr) (block : Half) (s : State) (b : BlockId), s.ready h .service → block? block = some b → s.clean = true →
    ((s.block b).frozen = false → exec (.thaw h block) s = .next (s.answered h .thaw .state [])) ∧
    ((s.block b).frozen = true → (s.block b).waiters = [] → (∀ v, b ∉ (s.vehicle v).holds) →
      exec (.thaw h block) s =
        .next ((s.setBlock b { s.block b with frozen := false, holder := .none }).answered h .thaw .ok [0xFF])) ∧
    (∀ v, (s.block b).frozen = true → b ∈ (s.vehicle v).holds → (∀ w, b ∈ (s.vehicle w).holds → w = v) →
      exec (.thaw h block) s =
        .next ((s.setBlock b { s.block b with frozen := false, holder := .vehicle v }).answered h .thaw .ok
          [.ofNat 8 v.val]))

/-- R144: READ_CAPTURE and CLEAR_CAPTURE whole. -/
def Obligations.CaptureRequests : Prop :=
  ∀ (h : Hdr) (s : State), s.ready h .service →
    let capture : List Byte := match s.capture with
      | none => [0, 0, 0, 0, 0, 0, 0, 0, 0, 0, 0]
      | some c => [0x01] ++ Enc.record c.record ++ [c.kind.code, c.finder.code] ++ bytes4 c.stamp ++ Enc.flag c.more
    exec (.readCapture h) s =
      .next (s.answered h .readCapture .ok (capture ++ [.ofNat 8 s.corrections] ++ Enc.record s.cursor)) ∧
    exec (.clearCapture h) s =
      .next ({ s with capture := none, corrections := 0 }.answered h .clearCapture .ok
        (capture ++ [BitVec.ofNat 8 s.corrections]))

/-- R136, R152: a scrub step whose interval has elapsed reads, as the finder SCRUB, exactly the record that the cursor's row of
the table names, on the state with the cursor and the interval moved on; a clean one changes nothing else. That a step whose
interval has not elapsed changes nothing is the model's reading (log entry 2). -/
def Obligations.ScrubStep : Prop :=
  ∀ s : State,
    let moved (next : RecRef) : State :=
      { s with cursor := next, scrubTimer := if s.timing.scrub = 0 then none else some s.timing.scrub.toNat }
    let rows (row : RecRef → RecRef → Prop) : Prop :=
      (∀ b : BlockId, s.cursor = .block b → b.val < 1023 → row (.block b) (.block (b + 1))) ∧
      (s.cursor = .block 1023 → row (.block 1023) (.vehicle 0)) ∧
      (∀ v : VehicleId, s.cursor = .vehicle v → v.val < 127 → row (.vehicle v) (.vehicle (v + 1))) ∧
      (s.cursor = .vehicle 127 → row (.vehicle 127) (.order 0)) ∧
      (∀ o n : Slot, s.cursor = .order o → o ≤ n → s.order n ≠ none →
        (∀ x : Slot, o ≤ x → x < n → s.order x = none) → n.val < 255 → row (.order n) (.order (n + 1))) ∧
      (∀ o : Slot, s.cursor = .order o → s.order 255 ≠ none → (∀ x : Slot, o ≤ x → x < 255 → s.order x = none) →
        row (.order 255) (.block 0)) ∧
      (∀ o : Slot, s.cursor = .order o → (∀ x : Slot, o ≤ x → s.order x = none) → row (.block 0) (.block 1))
    (s.scrubTimer ≠ some 0 → exec .scrubStep s = .next s) ∧
    (s.scrubTimer = some 0 →
      rows fun r next => exec .scrubStep s = .next (scrubRead r (moved next)).1.endEvent) ∧
    (s.scrubTimer = some 0 → s.clean = true → rows fun _ next => exec .scrubStep s = .next (moved next).endEvent)

/-- R132, R133, R135: a bit that flips in a clean record is corrected and written back at the next read, an access or a scrub
step, counted and captured, with no notice. -/
def Obligations.CorrectableErrorIsWrittenBack : Prop :=
  let counted (s : State) (r : RecRef) (f : Finder) : State := { s with
    corrections := min 255 (s.corrections + 1)
    capture := match s.capture with
      | none => some ⟨r, .corrected, f, s.fabClock, false⟩
      | some c => some { c with more := true } }
  (∀ (b : BlockId) (bit : Nat) (s : State), (s.block b).flips = [] →
    exec (.bitFlip (.block b) bit) s = .next (s.setBlock b { s.block b with flips := [bit] }) ∧
    read (.block b) (s.setBlock b { s.block b with flips := [bit] }) = (counted s (.block b) .access, false) ∧
    scrubRead (.block b) (s.setBlock b { s.block b with flips := [bit] }) = (counted s (.block b) .scrub, false)) ∧
  (∀ (v : VehicleId) (bit : Nat) (s : State), (s.vehicle v).flips = [] →
    exec (.bitFlip (.vehicle v) bit) s = .next (s.setVehicle v { s.vehicle v with flips := [bit] }) ∧
    read (.vehicle v) (s.setVehicle v { s.vehicle v with flips := [bit] }) = (counted s (.vehicle v) .access, false) ∧
    scrubRead (.vehicle v) (s.setVehicle v { s.vehicle v with flips := [bit] }) = (counted s (.vehicle v) .scrub, false)) ∧
  (∀ (o : Slot) (r : OrderRec) (bit : Nat) (s : State), s.order o = some r → r.flips = [] →
    exec (.bitFlip (.order o) bit) s = .next (s.setOrder o (some { r with flips := [bit] })) ∧
    read (.order o) (s.setOrder o (some { r with flips := [bit] })) = (counted s (.order o) .access, false) ∧
    scrubRead (.order o) (s.setOrder o (some { r with flips := [bit] })) = (counted s (.order o) .scrub, false)) ∧
  ∀ (o : Slot) (bit : Nat) (s : State), s.order o = none → exec (.bitFlip (.order o) bit) s = .next s

/-- R134, R137: a block record found uncorrectable, by an access or by a scrub step, comes back FROZEN with the
map's static fields, and each vehicle that waited there is told in ascending number. -/
def Obligations.DamagedBlockFreezes : Prop :=
  ∀ (finder : Finder) (b : BlockId) (s : State), (s.block b).flips.length = 2 → (∀ v, (s.vehicle v).flips = []) →
    let reads : Reader := match finder with
      | .access => read
      | .scrub => scrubRead
    let found := { s with capture := match s.capture with
        | none => some ⟨.block b, .uncorrectable, finder, s.fabClock, false⟩
        | some c => some { c with more := true } }.notifyIntegrity .record (.block b) finder none
    let frozen := found.setBlock b ⟨s.static b, .unknown, true, [], []⟩
    reads (.block b) s =
      ((List.finRange 128).foldl (fun t v =>
        if (s.vehicle v).waitingOn = some b then
          (t.setVehicle v { s.vehicle v with waitingOn := none }).notifyOwner (s.vehicle v).owner
            (.waitCancelled v b .frozen (s.vehicle v).holds.length)
        else t) frozen, true)

/-- R137 to R140, R74: a vehicle record found uncorrectable in SETUP is written as after hard reset; outside SETUP it is
STALLED with cause INTEGRITY. With no block, wait or order to recover that is all. `held` are the blocks it is the holder of:
as one chain they are its holding list, from which comes the owning link; otherwise each is frozen, its waiters told head
first (R37, log entry 39), with an INTEGRITY notice of cause CHAIN after each block's own (log entry 38).
`finish` does the rest: the waiter entry at `wait`, the order `work` that names the vehicle, suspended or requeued, the
carrier, and VEHICLE_STATE. -/
def Obligations.DamagedVehicleIsRebuilt : Prop :=
  ∀ (finder : Finder) (v : VehicleId) (s : State), (s.vehicle v).flips.length = 2 →
    let reads : Reader := match finder with
      | .access => read
      | .scrub => scrubRead
    let found := { s with capture := match s.capture with
        | none => some ⟨.vehicle v, .uncorrectable, finder, s.fabClock, false⟩
        | some c => some { c with more := true } }.notifyIntegrity .record (.vehicle v) finder none
    let lost : VehicleRec :=
      ⟨.stalled, some .integrity, none, none, none, .unknown, false, 0, none, none, none, [], none, []⟩
    (s.mode = .setup → reads (.vehicle v) s =
      (found.setVehicle v ⟨.offline, none, none, none, none, .none, false, 0, none, none, none, [], none, []⟩, true)) ∧
    (s.mode ≠ .setup → (∀ b, (s.block b).flips = [] ∧ (s.block b).holder ≠ .vehicle v ∧
        ∀ w ∈ (s.block b).waiters, w.vehicle ≠ v) →
      (∀ o r, s.order o = some r → r.flips = [] ∧ r.vehicle ≠ some v ∧ r.bound ≠ some v) →
      reads (.vehicle v) s = ((found.setVehicle v lost).noteVehicle v .stalled, true)) ∧
    (∀ (held : List BlockId) (wait : Option BlockId) (work bound : Option (Slot × OrderRec)), s.mode ≠ .setup →
      (∀ b, (s.block b).flips = []) → (∀ w, w ≠ v → (s.vehicle w).flips = []) →
      (∀ o r, s.order o = some r → r.flips = []) →
      held = (List.finRange 1024).filter (fun b => (s.block b).holder = .vehicle v) →
      (∀ b, wait = some b ↔ ∃ w ∈ (s.block b).waiters, w.vehicle = v) →
      (∀ o r, s.order o = some r → r.vehicle = some v → work = some (o, r)) →
      (∀ x, work = some x → s.order x.1 = some x.2 ∧ x.2.vehicle = some v ∧ x.2.state ≠ .queued) →
      (∀ o r, s.order o = some r → r.state = .queued → r.bound = some v → bound = some (o, r)) →
      (∀ x, bound = some x → s.order x.1 = some x.2 ∧ x.2.state = .queued ∧ x.2.bound = some v) →
      let isChain (chain : List BlockId) : Prop :=
        chain.Nodup ∧ (∀ b, b ∈ chain ↔ b ∈ held) ∧ (∀ x ∈ chain.zip chain.tail, x.2 ∈ (s.static x.1).succs) ∧
          (∀ b ∈ held, ∀ y, chain.head? = some y → y ∉ (s.static b).succs) ∧
          ∀ b ∈ held, ∀ x ∈ held, ∀ y ∈ held, x ∈ (s.static b).succs → y ∈ (s.static b).succs → x = y
      let base : State := { found.setVehicle v lost with
        blocks := s.blocks.map fun (r : BlockRec) => { r with waiters := r.waiters.filter fun w => w.vehicle ≠ v } }
      let carrier : Carrier :=
        match work, bound with
        | some (_, r), _ =>
          if r.state = OState.carrying ∨ (r.state = OState.offered ∧ r.bound = some v) then r.carrier
          else match bound with
            | some (_, r') => r'.carrier
            | none => .none
        | none, some (_, r') => r'.carrier
        | none, none => .unknown
      let finish (t : State) : State :=
        let owner := (t.vehicle v).owner
        let told := match wait with
          | some b => t.notifyOwner owner (.waitCancelled v b .stalled (t.vehicle v).holds.length)
          | none => t
        let rec' : VehicleRec := { t.vehicle v with carrier := carrier }
        let worked := match work with
          | some (o, r) =>
            if r.state = OState.carrying then
              ((told.setVehicle v { rec' with order := some o, saved := some .toDest }).setOrder o
                (some { r with suspended := true })).noteOrder o { r with suspended := true } .suspended none
            else
              ((told.setVehicle v rec').requeue o v .stalled).notifyOwner owner (.withdraw v o .stalled)
          | none => told.setVehicle v rec'
        worked.noteVehicle v .stalled
      let frozen (t : State) (b : BlockId) : State :=
        ((t.block b).waiters.foldl (fun u x =>
          let w := x.vehicle
          if (u.vehicle w).waitingOn = some b then
            (u.setVehicle w { u.vehicle w with waitingOn := none }).notifyOwner (u.vehicle w).owner
              (.waitCancelled w b .frozen (u.vehicle w).holds.length)
          else u) (t.setBlock b { t.block b with holder := .unknown, frozen := true, waiters := [] })).notifyIntegrity
          .chain (.block b) finder (some v)
      (held = [] → reads (.vehicle v) s = (finish base, true)) ∧
      (∀ chain, held ≠ [] → isChain chain →
        reads (.vehicle v) s = (finish (base.setVehicle v { lost with
          holds := chain, owner := chain.head?.bind s.bayOwner }), true)) ∧
      (held ≠ [] → (∀ chain, ¬isChain chain) →
        reads (.vehicle v) s = (finish (held.foldl frozen base), true)))

/-- R141: an order record found uncorrectable is freed, every SCHEDULER link is told, and its vehicle moves by its state. -/
def Obligations.DamagedOrderIsFreed : Prop :=
  ∀ (finder : Finder) (o : Slot) (x : OrderRec) (s : State), s.order o = some x → x.flips.length = 2 →
    (∀ v, (s.vehicle v).flips = []) →
    let reads : Reader := match finder with
      | .access => read
      | .scrub => scrubRead
    let found := { s with capture := match s.capture with
        | none => some ⟨.order o, .uncorrectable, finder, s.fabClock, false⟩
        | some c => some { c with more := true } }.notifyIntegrity .record (.order o) finder none
    let freed := (found.freeOrder o).notifyWhere (·.role = .scheduler) (.orderLost o s.fabClock)
    ((∀ v, (s.vehicle v).order ≠ some o) → reads (.order o) s = (freed, true)) ∧
    (∀ v, (s.vehicle v).order = some o → (∀ w, (s.vehicle w).order = some o → w = v) →
      let rec' : VehicleRec := { s.vehicle v with offer := none, order := none }
      let told := freed.notifyOwner (s.vehicle v).owner (.withdraw v o .integrity)
      ((s.vehicle v).state = .toSource ∨ ((s.vehicle v).state = .offered ∧ (s.vehicle v).carrier = .none) →
        s.idleSeq ≠ 0xFFFFFFFF →
        reads (.order o) s = (((told.setVehicle v (rec'.idled (s.idleSeq + 1))).afterIdle (s.vehicle v).drain).noteVehicle
          v (s.vehicle v).state, true)) ∧
      ((s.vehicle v).state = .toDest ∨ ((s.vehicle v).state = .offered ∧ (s.vehicle v).carrier ≠ .none) →
        reads (.order o) s = ({ told.setVehicle v (rec'.loaded (s.vehicle v).carrier) with trigger := true }.noteVehicle v
          (s.vehicle v).state, true)) ∧
      ((s.vehicle v).state = .stalled → (s.vehicle v).saved = some .toDest →
        reads (.order o) s = (told.setVehicle v { rec' with saved := some .loadedIdle }, true)))

/-! ## Invariants -/

/-- R49, R135, R148, R149, R155, R163: at most 32 notices on a link, a DISABLED link silent, the weights and the timing
settings in range, the correction count at most 255, the divider at most 999: every step keeps it. -/
def Obligations.SoundStateIsKept : Prop :=
  ∀ s t : State, s.sound = true → step s = .next t → t.sound = true

/-- The same holds after hard reset, with any straps, and so do the laws of the tables. -/
def Obligations.ResetIsSound : Prop :=
  State.reset.sound = true ∧ State.reset.lawful ∧ State.reset.fewFlips ∧
    ∀ (straps : Straps) (s t : State), exec (.hardReset straps) s = .next t → t.sound = true ∧ t.lawful ∧ t.fewFlips

/-- R8, R155: outside SETUP no step but a hard reset changes a static field of a block, a port's placement or a bay record,
and no step but a hard reset changes a role. -/
def Obligations.MapAndRolesAreKept : Prop :=
  ∀ s t : State, (∀ straps rest, s.pending ≠ .hardReset straps :: rest) → step s = .next t →
    (∀ l, (t.link l).role = (s.link l).role) ∧
    (s.mode ≠ .setup → t.map = s.map ∧ t.bays = s.bays ∧ ∀ p, (t.port p).block = (s.port p).block)
end

