-- ==== Sys2Proof/Laws/State.lean ====
section
/-! SUPPORT. One lemma for each field and each update that leaves it alone, and what each record reads as after a write of
its own table; so that no proof unfolds a record update. -/

namespace Sys2Proof.Machine

variable (s : State)

/-! ### setBlock -/

@[simp] theorem setBlock_mode (b r) : (s.setBlock b r).mode = s.mode := rfl
@[simp] theorem setBlock_committed (b r) : (s.setBlock b r).committed = s.committed := rfl
@[simp] theorem setBlock_map (b r) : (s.setBlock b r).map = s.map := rfl
@[simp] theorem setBlock_ports (b r) : (s.setBlock b r).ports = s.ports := rfl
@[simp] theorem setBlock_bays (b r) : (s.setBlock b r).bays = s.bays := rfl
@[simp] theorem setBlock_fences (b r) : (s.setBlock b r).fences = s.fences := rfl
@[simp] theorem setBlock_vehicles (b r) : (s.setBlock b r).vehicles = s.vehicles := rfl
@[simp] theorem setBlock_orders (b r) : (s.setBlock b r).orders = s.orders := rfl
@[simp] theorem setBlock_queues (b r) : (s.setBlock b r).queues = s.queues := rfl
@[simp] theorem setBlock_trigger (b r) : (s.setBlock b r).trigger = s.trigger := rfl
@[simp] theorem setBlock_capture (b r) : (s.setBlock b r).capture = s.capture := rfl
@[simp] theorem setBlock_corrections (b r) : (s.setBlock b r).corrections = s.corrections := rfl
@[simp] theorem setBlock_cursor (b r) : (s.setBlock b r).cursor = s.cursor := rfl
@[simp] theorem setBlock_scrubTimer (b r) : (s.setBlock b r).scrubTimer = s.scrubTimer := rfl
@[simp] theorem setBlock_msBase (b r) : (s.setBlock b r).msBase = s.msBase := rfl
@[simp] theorem setBlock_fabClock (b r) : (s.setBlock b r).fabClock = s.fabClock := rfl
@[simp] theorem setBlock_divider (b r) : (s.setBlock b r).divider = s.divider := rfl
@[simp] theorem setBlock_timing (b r) : (s.setBlock b r).timing = s.timing := rfl
@[simp] theorem setBlock_weights (b r) : (s.setBlock b r).weights = s.weights := rfl
@[simp] theorem setBlock_submitSeq (b r) : (s.setBlock b r).submitSeq = s.submitSeq := rfl
@[simp] theorem setBlock_waiterSeq (b r) : (s.setBlock b r).waiterSeq = s.waiterSeq := rfl
@[simp] theorem setBlock_idleSeq (b r) : (s.setBlock b r).idleSeq = s.idleSeq := rfl
@[simp] theorem setBlock_links (b r) : (s.setBlock b r).links = s.links := rfl
@[simp] theorem setBlock_freeCount (b r) : (s.setBlock b r).freeCount = s.freeCount := rfl
@[simp] theorem setBlock_pending (b r) : (s.setBlock b r).pending = s.pending := rfl
@[simp] theorem setBlock_at_vehicle (b r) (v') : (s.setBlock b r).vehicle v' = s.vehicle v' := rfl
@[simp] theorem setBlock_at_order (b r) (o') : (s.setBlock b r).order o' = s.order o' := rfl
@[simp] theorem setBlock_at_port (b r) (p') : (s.setBlock b r).port p' = s.port p' := rfl
@[simp] theorem setBlock_at_bay (b r) (a') : (s.setBlock b r).bay a' = s.bay a' := rfl
@[simp] theorem setBlock_at_fence (b r) (f') : (s.setBlock b r).fence f' = s.fence f' := rfl
@[simp] theorem setBlock_at_link (b r) (l') : (s.setBlock b r).link l' = s.link l' := rfl
@[simp] theorem setBlock_at_static (b r) (b') : (s.setBlock b r).static b' = s.static b' := rfl

/-! ### setVehicle -/

@[simp] theorem setVehicle_mode (v r) : (s.setVehicle v r).mode = s.mode := rfl
@[simp] theorem setVehicle_committed (v r) : (s.setVehicle v r).committed = s.committed := rfl
@[simp] theorem setVehicle_map (v r) : (s.setVehicle v r).map = s.map := rfl
@[simp] theorem setVehicle_blocks (v r) : (s.setVehicle v r).blocks = s.blocks := rfl
@[simp] theorem setVehicle_ports (v r) : (s.setVehicle v r).ports = s.ports := rfl
@[simp] theorem setVehicle_bays (v r) : (s.setVehicle v r).bays = s.bays := rfl
@[simp] theorem setVehicle_fences (v r) : (s.setVehicle v r).fences = s.fences := rfl
@[simp] theorem setVehicle_orders (v r) : (s.setVehicle v r).orders = s.orders := rfl
@[simp] theorem setVehicle_queues (v r) : (s.setVehicle v r).queues = s.queues := rfl
@[simp] theorem setVehicle_trigger (v r) : (s.setVehicle v r).trigger = s.trigger := rfl
@[simp] theorem setVehicle_capture (v r) : (s.setVehicle v r).capture = s.capture := rfl
@[simp] theorem setVehicle_corrections (v r) : (s.setVehicle v r).corrections = s.corrections := rfl
@[simp] theorem setVehicle_cursor (v r) : (s.setVehicle v r).cursor = s.cursor := rfl
@[simp] theorem setVehicle_scrubTimer (v r) : (s.setVehicle v r).scrubTimer = s.scrubTimer := rfl
@[simp] theorem setVehicle_msBase (v r) : (s.setVehicle v r).msBase = s.msBase := rfl
@[simp] theorem setVehicle_fabClock (v r) : (s.setVehicle v r).fabClock = s.fabClock := rfl
@[simp] theorem setVehicle_divider (v r) : (s.setVehicle v r).divider = s.divider := rfl
@[simp] theorem setVehicle_timing (v r) : (s.setVehicle v r).timing = s.timing := rfl
@[simp] theorem setVehicle_weights (v r) : (s.setVehicle v r).weights = s.weights := rfl
@[simp] theorem setVehicle_submitSeq (v r) : (s.setVehicle v r).submitSeq = s.submitSeq := rfl
@[simp] theorem setVehicle_waiterSeq (v r) : (s.setVehicle v r).waiterSeq = s.waiterSeq := rfl
@[simp] theorem setVehicle_idleSeq (v r) : (s.setVehicle v r).idleSeq = s.idleSeq := rfl
@[simp] theorem setVehicle_links (v r) : (s.setVehicle v r).links = s.links := rfl
@[simp] theorem setVehicle_freeCount (v r) : (s.setVehicle v r).freeCount = s.freeCount := rfl
@[simp] theorem setVehicle_pending (v r) : (s.setVehicle v r).pending = s.pending := rfl
@[simp] theorem setVehicle_at_block (v r) (b') : (s.setVehicle v r).block b' = s.block b' := rfl
@[simp] theorem setVehicle_at_order (v r) (o') : (s.setVehicle v r).order o' = s.order o' := rfl
@[simp] theorem setVehicle_at_port (v r) (p') : (s.setVehicle v r).port p' = s.port p' := rfl
@[simp] theorem setVehicle_at_bay (v r) (a') : (s.setVehicle v r).bay a' = s.bay a' := rfl
@[simp] theorem setVehicle_at_fence (v r) (f') : (s.setVehicle v r).fence f' = s.fence f' := rfl
@[simp] theorem setVehicle_at_link (v r) (l') : (s.setVehicle v r).link l' = s.link l' := rfl
@[simp] theorem setVehicle_at_static (v r) (b') : (s.setVehicle v r).static b' = s.static b' := rfl

/-! ### setOrder -/

@[simp] theorem setOrder_mode (o r) : (s.setOrder o r).mode = s.mode := rfl
@[simp] theorem setOrder_committed (o r) : (s.setOrder o r).committed = s.committed := rfl
@[simp] theorem setOrder_map (o r) : (s.setOrder o r).map = s.map := rfl
@[simp] theorem setOrder_blocks (o r) : (s.setOrder o r).blocks = s.blocks := rfl
@[simp] theorem setOrder_ports (o r) : (s.setOrder o r).ports = s.ports := rfl
@[simp] theorem setOrder_bays (o r) : (s.setOrder o r).bays = s.bays := rfl
@[simp] theorem setOrder_fences (o r) : (s.setOrder o r).fences = s.fences := rfl
@[simp] theorem setOrder_vehicles (o r) : (s.setOrder o r).vehicles = s.vehicles := rfl
@[simp] theorem setOrder_queues (o r) : (s.setOrder o r).queues = s.queues := rfl
@[simp] theorem setOrder_trigger (o r) : (s.setOrder o r).trigger = s.trigger := rfl
@[simp] theorem setOrder_capture (o r) : (s.setOrder o r).capture = s.capture := rfl
@[simp] theorem setOrder_corrections (o r) : (s.setOrder o r).corrections = s.corrections := rfl
@[simp] theorem setOrder_cursor (o r) : (s.setOrder o r).cursor = s.cursor := rfl
@[simp] theorem setOrder_scrubTimer (o r) : (s.setOrder o r).scrubTimer = s.scrubTimer := rfl
@[simp] theorem setOrder_msBase (o r) : (s.setOrder o r).msBase = s.msBase := rfl
@[simp] theorem setOrder_fabClock (o r) : (s.setOrder o r).fabClock = s.fabClock := rfl
@[simp] theorem setOrder_divider (o r) : (s.setOrder o r).divider = s.divider := rfl
@[simp] theorem setOrder_timing (o r) : (s.setOrder o r).timing = s.timing := rfl
@[simp] theorem setOrder_weights (o r) : (s.setOrder o r).weights = s.weights := rfl
@[simp] theorem setOrder_submitSeq (o r) : (s.setOrder o r).submitSeq = s.submitSeq := rfl
@[simp] theorem setOrder_waiterSeq (o r) : (s.setOrder o r).waiterSeq = s.waiterSeq := rfl
@[simp] theorem setOrder_idleSeq (o r) : (s.setOrder o r).idleSeq = s.idleSeq := rfl
@[simp] theorem setOrder_links (o r) : (s.setOrder o r).links = s.links := rfl
@[simp] theorem setOrder_freeCount (o r) : (s.setOrder o r).freeCount = s.freeCount := rfl
@[simp] theorem setOrder_pending (o r) : (s.setOrder o r).pending = s.pending := rfl
@[simp] theorem setOrder_at_block (o r) (b') : (s.setOrder o r).block b' = s.block b' := rfl
@[simp] theorem setOrder_at_vehicle (o r) (v') : (s.setOrder o r).vehicle v' = s.vehicle v' := rfl
@[simp] theorem setOrder_at_port (o r) (p') : (s.setOrder o r).port p' = s.port p' := rfl
@[simp] theorem setOrder_at_bay (o r) (a') : (s.setOrder o r).bay a' = s.bay a' := rfl
@[simp] theorem setOrder_at_fence (o r) (f') : (s.setOrder o r).fence f' = s.fence f' := rfl
@[simp] theorem setOrder_at_link (o r) (l') : (s.setOrder o r).link l' = s.link l' := rfl
@[simp] theorem setOrder_at_static (o r) (b') : (s.setOrder o r).static b' = s.static b' := rfl

/-! ### setPort -/

@[simp] theorem setPort_mode (p r) : (s.setPort p r).mode = s.mode := rfl
@[simp] theorem setPort_committed (p r) : (s.setPort p r).committed = s.committed := rfl
@[simp] theorem setPort_map (p r) : (s.setPort p r).map = s.map := rfl
@[simp] theorem setPort_blocks (p r) : (s.setPort p r).blocks = s.blocks := rfl
@[simp] theorem setPort_bays (p r) : (s.setPort p r).bays = s.bays := rfl
@[simp] theorem setPort_fences (p r) : (s.setPort p r).fences = s.fences := rfl
@[simp] theorem setPort_vehicles (p r) : (s.setPort p r).vehicles = s.vehicles := rfl
@[simp] theorem setPort_orders (p r) : (s.setPort p r).orders = s.orders := rfl
@[simp] theorem setPort_queues (p r) : (s.setPort p r).queues = s.queues := rfl
@[simp] theorem setPort_trigger (p r) : (s.setPort p r).trigger = s.trigger := rfl
@[simp] theorem setPort_capture (p r) : (s.setPort p r).capture = s.capture := rfl
@[simp] theorem setPort_corrections (p r) : (s.setPort p r).corrections = s.corrections := rfl
@[simp] theorem setPort_cursor (p r) : (s.setPort p r).cursor = s.cursor := rfl
@[simp] theorem setPort_scrubTimer (p r) : (s.setPort p r).scrubTimer = s.scrubTimer := rfl
@[simp] theorem setPort_msBase (p r) : (s.setPort p r).msBase = s.msBase := rfl
@[simp] theorem setPort_fabClock (p r) : (s.setPort p r).fabClock = s.fabClock := rfl
@[simp] theorem setPort_divider (p r) : (s.setPort p r).divider = s.divider := rfl
@[simp] theorem setPort_timing (p r) : (s.setPort p r).timing = s.timing := rfl
@[simp] theorem setPort_weights (p r) : (s.setPort p r).weights = s.weights := rfl
@[simp] theorem setPort_submitSeq (p r) : (s.setPort p r).submitSeq = s.submitSeq := rfl
@[simp] theorem setPort_waiterSeq (p r) : (s.setPort p r).waiterSeq = s.waiterSeq := rfl
@[simp] theorem setPort_idleSeq (p r) : (s.setPort p r).idleSeq = s.idleSeq := rfl
@[simp] theorem setPort_links (p r) : (s.setPort p r).links = s.links := rfl
@[simp] theorem setPort_freeCount (p r) : (s.setPort p r).freeCount = s.freeCount := rfl
@[simp] theorem setPort_pending (p r) : (s.setPort p r).pending = s.pending := rfl
@[simp] theorem setPort_at_block (p r) (b') : (s.setPort p r).block b' = s.block b' := rfl
@[simp] theorem setPort_at_vehicle (p r) (v') : (s.setPort p r).vehicle v' = s.vehicle v' := rfl
@[simp] theorem setPort_at_order (p r) (o') : (s.setPort p r).order o' = s.order o' := rfl
@[simp] theorem setPort_at_bay (p r) (a') : (s.setPort p r).bay a' = s.bay a' := rfl
@[simp] theorem setPort_at_fence (p r) (f') : (s.setPort p r).fence f' = s.fence f' := rfl
@[simp] theorem setPort_at_link (p r) (l') : (s.setPort p r).link l' = s.link l' := rfl
@[simp] theorem setPort_at_static (p r) (b') : (s.setPort p r).static b' = s.static b' := rfl

/-! ### setBay -/

@[simp] theorem setBay_mode (a r) : (s.setBay a r).mode = s.mode := rfl
@[simp] theorem setBay_committed (a r) : (s.setBay a r).committed = s.committed := rfl
@[simp] theorem setBay_map (a r) : (s.setBay a r).map = s.map := rfl
@[simp] theorem setBay_blocks (a r) : (s.setBay a r).blocks = s.blocks := rfl
@[simp] theorem setBay_ports (a r) : (s.setBay a r).ports = s.ports := rfl
@[simp] theorem setBay_fences (a r) : (s.setBay a r).fences = s.fences := rfl
@[simp] theorem setBay_vehicles (a r) : (s.setBay a r).vehicles = s.vehicles := rfl
@[simp] theorem setBay_orders (a r) : (s.setBay a r).orders = s.orders := rfl
@[simp] theorem setBay_queues (a r) : (s.setBay a r).queues = s.queues := rfl
@[simp] theorem setBay_trigger (a r) : (s.setBay a r).trigger = s.trigger := rfl
@[simp] theorem setBay_capture (a r) : (s.setBay a r).capture = s.capture := rfl
@[simp] theorem setBay_corrections (a r) : (s.setBay a r).corrections = s.corrections := rfl
@[simp] theorem setBay_cursor (a r) : (s.setBay a r).cursor = s.cursor := rfl
@[simp] theorem setBay_scrubTimer (a r) : (s.setBay a r).scrubTimer = s.scrubTimer := rfl
@[simp] theorem setBay_msBase (a r) : (s.setBay a r).msBase = s.msBase := rfl
@[simp] theorem setBay_fabClock (a r) : (s.setBay a r).fabClock = s.fabClock := rfl
@[simp] theorem setBay_divider (a r) : (s.setBay a r).divider = s.divider := rfl
@[simp] theorem setBay_timing (a r) : (s.setBay a r).timing = s.timing := rfl
@[simp] theorem setBay_weights (a r) : (s.setBay a r).weights = s.weights := rfl
@[simp] theorem setBay_submitSeq (a r) : (s.setBay a r).submitSeq = s.submitSeq := rfl
@[simp] theorem setBay_waiterSeq (a r) : (s.setBay a r).waiterSeq = s.waiterSeq := rfl
@[simp] theorem setBay_idleSeq (a r) : (s.setBay a r).idleSeq = s.idleSeq := rfl
@[simp] theorem setBay_links (a r) : (s.setBay a r).links = s.links := rfl
@[simp] theorem setBay_freeCount (a r) : (s.setBay a r).freeCount = s.freeCount := rfl
@[simp] theorem setBay_pending (a r) : (s.setBay a r).pending = s.pending := rfl
@[simp] theorem setBay_at_block (a r) (b') : (s.setBay a r).block b' = s.block b' := rfl
@[simp] theorem setBay_at_vehicle (a r) (v') : (s.setBay a r).vehicle v' = s.vehicle v' := rfl
@[simp] theorem setBay_at_order (a r) (o') : (s.setBay a r).order o' = s.order o' := rfl
@[simp] theorem setBay_at_port (a r) (p') : (s.setBay a r).port p' = s.port p' := rfl
@[simp] theorem setBay_at_fence (a r) (f') : (s.setBay a r).fence f' = s.fence f' := rfl
@[simp] theorem setBay_at_link (a r) (l') : (s.setBay a r).link l' = s.link l' := rfl
@[simp] theorem setBay_at_static (a r) (b') : (s.setBay a r).static b' = s.static b' := rfl

/-! ### setFence -/

@[simp] theorem setFence_mode (f r) : (s.setFence f r).mode = s.mode := rfl
@[simp] theorem setFence_committed (f r) : (s.setFence f r).committed = s.committed := rfl
@[simp] theorem setFence_map (f r) : (s.setFence f r).map = s.map := rfl
@[simp] theorem setFence_blocks (f r) : (s.setFence f r).blocks = s.blocks := rfl
@[simp] theorem setFence_ports (f r) : (s.setFence f r).ports = s.ports := rfl
@[simp] theorem setFence_bays (f r) : (s.setFence f r).bays = s.bays := rfl
@[simp] theorem setFence_vehicles (f r) : (s.setFence f r).vehicles = s.vehicles := rfl
@[simp] theorem setFence_orders (f r) : (s.setFence f r).orders = s.orders := rfl
@[simp] theorem setFence_queues (f r) : (s.setFence f r).queues = s.queues := rfl
@[simp] theorem setFence_trigger (f r) : (s.setFence f r).trigger = s.trigger := rfl
@[simp] theorem setFence_capture (f r) : (s.setFence f r).capture = s.capture := rfl
@[simp] theorem setFence_corrections (f r) : (s.setFence f r).corrections = s.corrections := rfl
@[simp] theorem setFence_cursor (f r) : (s.setFence f r).cursor = s.cursor := rfl
@[simp] theorem setFence_scrubTimer (f r) : (s.setFence f r).scrubTimer = s.scrubTimer := rfl
@[simp] theorem setFence_msBase (f r) : (s.setFence f r).msBase = s.msBase := rfl
@[simp] theorem setFence_fabClock (f r) : (s.setFence f r).fabClock = s.fabClock := rfl
@[simp] theorem setFence_divider (f r) : (s.setFence f r).divider = s.divider := rfl
@[simp] theorem setFence_timing (f r) : (s.setFence f r).timing = s.timing := rfl
@[simp] theorem setFence_weights (f r) : (s.setFence f r).weights = s.weights := rfl
@[simp] theorem setFence_submitSeq (f r) : (s.setFence f r).submitSeq = s.submitSeq := rfl
@[simp] theorem setFence_waiterSeq (f r) : (s.setFence f r).waiterSeq = s.waiterSeq := rfl
@[simp] theorem setFence_idleSeq (f r) : (s.setFence f r).idleSeq = s.idleSeq := rfl
@[simp] theorem setFence_links (f r) : (s.setFence f r).links = s.links := rfl
@[simp] theorem setFence_freeCount (f r) : (s.setFence f r).freeCount = s.freeCount := rfl
@[simp] theorem setFence_pending (f r) : (s.setFence f r).pending = s.pending := rfl
@[simp] theorem setFence_at_block (f r) (b') : (s.setFence f r).block b' = s.block b' := rfl
@[simp] theorem setFence_at_vehicle (f r) (v') : (s.setFence f r).vehicle v' = s.vehicle v' := rfl
@[simp] theorem setFence_at_order (f r) (o') : (s.setFence f r).order o' = s.order o' := rfl
@[simp] theorem setFence_at_port (f r) (p') : (s.setFence f r).port p' = s.port p' := rfl
@[simp] theorem setFence_at_bay (f r) (a') : (s.setFence f r).bay a' = s.bay a' := rfl
@[simp] theorem setFence_at_link (f r) (l') : (s.setFence f r).link l' = s.link l' := rfl
@[simp] theorem setFence_at_static (f r) (b') : (s.setFence f r).static b' = s.static b' := rfl

/-! ### setLink -/

@[simp] theorem setLink_mode (l k) : (s.setLink l k).mode = s.mode := rfl
@[simp] theorem setLink_committed (l k) : (s.setLink l k).committed = s.committed := rfl
@[simp] theorem setLink_map (l k) : (s.setLink l k).map = s.map := rfl
@[simp] theorem setLink_blocks (l k) : (s.setLink l k).blocks = s.blocks := rfl
@[simp] theorem setLink_ports (l k) : (s.setLink l k).ports = s.ports := rfl
@[simp] theorem setLink_bays (l k) : (s.setLink l k).bays = s.bays := rfl
@[simp] theorem setLink_fences (l k) : (s.setLink l k).fences = s.fences := rfl
@[simp] theorem setLink_vehicles (l k) : (s.setLink l k).vehicles = s.vehicles := rfl
@[simp] theorem setLink_orders (l k) : (s.setLink l k).orders = s.orders := rfl
@[simp] theorem setLink_queues (l k) : (s.setLink l k).queues = s.queues := rfl
@[simp] theorem setLink_trigger (l k) : (s.setLink l k).trigger = s.trigger := rfl
@[simp] theorem setLink_capture (l k) : (s.setLink l k).capture = s.capture := rfl
@[simp] theorem setLink_corrections (l k) : (s.setLink l k).corrections = s.corrections := rfl
@[simp] theorem setLink_cursor (l k) : (s.setLink l k).cursor = s.cursor := rfl
@[simp] theorem setLink_scrubTimer (l k) : (s.setLink l k).scrubTimer = s.scrubTimer := rfl
@[simp] theorem setLink_msBase (l k) : (s.setLink l k).msBase = s.msBase := rfl
@[simp] theorem setLink_fabClock (l k) : (s.setLink l k).fabClock = s.fabClock := rfl
@[simp] theorem setLink_divider (l k) : (s.setLink l k).divider = s.divider := rfl
@[simp] theorem setLink_timing (l k) : (s.setLink l k).timing = s.timing := rfl
@[simp] theorem setLink_weights (l k) : (s.setLink l k).weights = s.weights := rfl
@[simp] theorem setLink_submitSeq (l k) : (s.setLink l k).submitSeq = s.submitSeq := rfl
@[simp] theorem setLink_waiterSeq (l k) : (s.setLink l k).waiterSeq = s.waiterSeq := rfl
@[simp] theorem setLink_idleSeq (l k) : (s.setLink l k).idleSeq = s.idleSeq := rfl
@[simp] theorem setLink_freeCount (l k) : (s.setLink l k).freeCount = s.freeCount := rfl
@[simp] theorem setLink_pending (l k) : (s.setLink l k).pending = s.pending := rfl
@[simp] theorem setLink_at_block (l k) (b') : (s.setLink l k).block b' = s.block b' := rfl
@[simp] theorem setLink_at_vehicle (l k) (v') : (s.setLink l k).vehicle v' = s.vehicle v' := rfl
@[simp] theorem setLink_at_order (l k) (o') : (s.setLink l k).order o' = s.order o' := rfl
@[simp] theorem setLink_at_port (l k) (p') : (s.setLink l k).port p' = s.port p' := rfl
@[simp] theorem setLink_at_bay (l k) (a') : (s.setLink l k).bay a' = s.bay a' := rfl
@[simp] theorem setLink_at_fence (l k) (f') : (s.setLink l k).fence f' = s.fence f' := rfl
@[simp] theorem setLink_at_static (l k) (b') : (s.setLink l k).static b' = s.static b' := rfl

/-! ### setTrigger -/

@[simp] theorem setTrigger_mode : (s.setTrigger).mode = s.mode := rfl
@[simp] theorem setTrigger_committed : (s.setTrigger).committed = s.committed := rfl
@[simp] theorem setTrigger_map : (s.setTrigger).map = s.map := rfl
@[simp] theorem setTrigger_blocks : (s.setTrigger).blocks = s.blocks := rfl
@[simp] theorem setTrigger_ports : (s.setTrigger).ports = s.ports := rfl
@[simp] theorem setTrigger_bays : (s.setTrigger).bays = s.bays := rfl
@[simp] theorem setTrigger_fences : (s.setTrigger).fences = s.fences := rfl
@[simp] theorem setTrigger_vehicles : (s.setTrigger).vehicles = s.vehicles := rfl
@[simp] theorem setTrigger_orders : (s.setTrigger).orders = s.orders := rfl
@[simp] theorem setTrigger_queues : (s.setTrigger).queues = s.queues := rfl
@[simp] theorem setTrigger_capture : (s.setTrigger).capture = s.capture := rfl
@[simp] theorem setTrigger_corrections : (s.setTrigger).corrections = s.corrections := rfl
@[simp] theorem setTrigger_cursor : (s.setTrigger).cursor = s.cursor := rfl
@[simp] theorem setTrigger_scrubTimer : (s.setTrigger).scrubTimer = s.scrubTimer := rfl
@[simp] theorem setTrigger_msBase : (s.setTrigger).msBase = s.msBase := rfl
@[simp] theorem setTrigger_fabClock : (s.setTrigger).fabClock = s.fabClock := rfl
@[simp] theorem setTrigger_divider : (s.setTrigger).divider = s.divider := rfl
@[simp] theorem setTrigger_timing : (s.setTrigger).timing = s.timing := rfl
@[simp] theorem setTrigger_weights : (s.setTrigger).weights = s.weights := rfl
@[simp] theorem setTrigger_submitSeq : (s.setTrigger).submitSeq = s.submitSeq := rfl
@[simp] theorem setTrigger_waiterSeq : (s.setTrigger).waiterSeq = s.waiterSeq := rfl
@[simp] theorem setTrigger_idleSeq : (s.setTrigger).idleSeq = s.idleSeq := rfl
@[simp] theorem setTrigger_links : (s.setTrigger).links = s.links := rfl
@[simp] theorem setTrigger_freeCount : (s.setTrigger).freeCount = s.freeCount := rfl
@[simp] theorem setTrigger_pending : (s.setTrigger).pending = s.pending := rfl
@[simp] theorem setTrigger_at_block (b') : (s.setTrigger).block b' = s.block b' := rfl
@[simp] theorem setTrigger_at_vehicle (v') : (s.setTrigger).vehicle v' = s.vehicle v' := rfl
@[simp] theorem setTrigger_at_order (o') : (s.setTrigger).order o' = s.order o' := rfl
@[simp] theorem setTrigger_at_port (p') : (s.setTrigger).port p' = s.port p' := rfl
@[simp] theorem setTrigger_at_bay (a') : (s.setTrigger).bay a' = s.bay a' := rfl
@[simp] theorem setTrigger_at_fence (f') : (s.setTrigger).fence f' = s.fence f' := rfl
@[simp] theorem setTrigger_at_link (l') : (s.setTrigger).link l' = s.link l' := rfl
@[simp] theorem setTrigger_at_static (b') : (s.setTrigger).static b' = s.static b' := rfl

/-! ### leaveQueue -/

@[simp] theorem leaveQueue_mode (o) : (s.leaveQueue o).mode = s.mode := rfl
@[simp] theorem leaveQueue_committed (o) : (s.leaveQueue o).committed = s.committed := rfl
@[simp] theorem leaveQueue_map (o) : (s.leaveQueue o).map = s.map := rfl
@[simp] theorem leaveQueue_blocks (o) : (s.leaveQueue o).blocks = s.blocks := rfl
@[simp] theorem leaveQueue_ports (o) : (s.leaveQueue o).ports = s.ports := rfl
@[simp] theorem leaveQueue_bays (o) : (s.leaveQueue o).bays = s.bays := rfl
@[simp] theorem leaveQueue_fences (o) : (s.leaveQueue o).fences = s.fences := rfl
@[simp] theorem leaveQueue_vehicles (o) : (s.leaveQueue o).vehicles = s.vehicles := rfl
@[simp] theorem leaveQueue_orders (o) : (s.leaveQueue o).orders = s.orders := rfl
@[simp] theorem leaveQueue_trigger (o) : (s.leaveQueue o).trigger = s.trigger := rfl
@[simp] theorem leaveQueue_capture (o) : (s.leaveQueue o).capture = s.capture := rfl
@[simp] theorem leaveQueue_corrections (o) : (s.leaveQueue o).corrections = s.corrections := rfl
@[simp] theorem leaveQueue_cursor (o) : (s.leaveQueue o).cursor = s.cursor := rfl
@[simp] theorem leaveQueue_scrubTimer (o) : (s.leaveQueue o).scrubTimer = s.scrubTimer := rfl
@[simp] theorem leaveQueue_msBase (o) : (s.leaveQueue o).msBase = s.msBase := rfl
@[simp] theorem leaveQueue_fabClock (o) : (s.leaveQueue o).fabClock = s.fabClock := rfl
@[simp] theorem leaveQueue_divider (o) : (s.leaveQueue o).divider = s.divider := rfl
@[simp] theorem leaveQueue_timing (o) : (s.leaveQueue o).timing = s.timing := rfl
@[simp] theorem leaveQueue_weights (o) : (s.leaveQueue o).weights = s.weights := rfl
@[simp] theorem leaveQueue_submitSeq (o) : (s.leaveQueue o).submitSeq = s.submitSeq := rfl
@[simp] theorem leaveQueue_waiterSeq (o) : (s.leaveQueue o).waiterSeq = s.waiterSeq := rfl
@[simp] theorem leaveQueue_idleSeq (o) : (s.leaveQueue o).idleSeq = s.idleSeq := rfl
@[simp] theorem leaveQueue_links (o) : (s.leaveQueue o).links = s.links := rfl
@[simp] theorem leaveQueue_freeCount (o) : (s.leaveQueue o).freeCount = s.freeCount := rfl
@[simp] theorem leaveQueue_pending (o) : (s.leaveQueue o).pending = s.pending := rfl
@[simp] theorem leaveQueue_at_block (o) (b') : (s.leaveQueue o).block b' = s.block b' := rfl
@[simp] theorem leaveQueue_at_vehicle (o) (v') : (s.leaveQueue o).vehicle v' = s.vehicle v' := rfl
@[simp] theorem leaveQueue_at_order (o) (o') : (s.leaveQueue o).order o' = s.order o' := rfl
@[simp] theorem leaveQueue_at_port (o) (p') : (s.leaveQueue o).port p' = s.port p' := rfl
@[simp] theorem leaveQueue_at_bay (o) (a') : (s.leaveQueue o).bay a' = s.bay a' := rfl
@[simp] theorem leaveQueue_at_fence (o) (f') : (s.leaveQueue o).fence f' = s.fence f' := rfl
@[simp] theorem leaveQueue_at_link (o) (l') : (s.leaveQueue o).link l' = s.link l' := rfl
@[simp] theorem leaveQueue_at_static (o) (b') : (s.leaveQueue o).static b' = s.static b' := rfl

/-! ### notify -/

@[simp] theorem notify_mode (l n) : (s.notify l n).mode = s.mode := rfl
@[simp] theorem notify_committed (l n) : (s.notify l n).committed = s.committed := rfl
@[simp] theorem notify_map (l n) : (s.notify l n).map = s.map := rfl
@[simp] theorem notify_blocks (l n) : (s.notify l n).blocks = s.blocks := rfl
@[simp] theorem notify_ports (l n) : (s.notify l n).ports = s.ports := rfl
@[simp] theorem notify_bays (l n) : (s.notify l n).bays = s.bays := rfl
@[simp] theorem notify_fences (l n) : (s.notify l n).fences = s.fences := rfl
@[simp] theorem notify_vehicles (l n) : (s.notify l n).vehicles = s.vehicles := rfl
@[simp] theorem notify_orders (l n) : (s.notify l n).orders = s.orders := rfl
@[simp] theorem notify_queues (l n) : (s.notify l n).queues = s.queues := rfl
@[simp] theorem notify_trigger (l n) : (s.notify l n).trigger = s.trigger := rfl
@[simp] theorem notify_capture (l n) : (s.notify l n).capture = s.capture := rfl
@[simp] theorem notify_corrections (l n) : (s.notify l n).corrections = s.corrections := rfl
@[simp] theorem notify_cursor (l n) : (s.notify l n).cursor = s.cursor := rfl
@[simp] theorem notify_scrubTimer (l n) : (s.notify l n).scrubTimer = s.scrubTimer := rfl
@[simp] theorem notify_msBase (l n) : (s.notify l n).msBase = s.msBase := rfl
@[simp] theorem notify_fabClock (l n) : (s.notify l n).fabClock = s.fabClock := rfl
@[simp] theorem notify_divider (l n) : (s.notify l n).divider = s.divider := rfl
@[simp] theorem notify_timing (l n) : (s.notify l n).timing = s.timing := rfl
@[simp] theorem notify_weights (l n) : (s.notify l n).weights = s.weights := rfl
@[simp] theorem notify_submitSeq (l n) : (s.notify l n).submitSeq = s.submitSeq := rfl
@[simp] theorem notify_waiterSeq (l n) : (s.notify l n).waiterSeq = s.waiterSeq := rfl
@[simp] theorem notify_idleSeq (l n) : (s.notify l n).idleSeq = s.idleSeq := rfl
@[simp] theorem notify_freeCount (l n) : (s.notify l n).freeCount = s.freeCount := rfl
@[simp] theorem notify_pending (l n) : (s.notify l n).pending = s.pending := rfl
@[simp] theorem notify_at_block (l n) (b') : (s.notify l n).block b' = s.block b' := rfl
@[simp] theorem notify_at_vehicle (l n) (v') : (s.notify l n).vehicle v' = s.vehicle v' := rfl
@[simp] theorem notify_at_order (l n) (o') : (s.notify l n).order o' = s.order o' := rfl
@[simp] theorem notify_at_port (l n) (p') : (s.notify l n).port p' = s.port p' := rfl
@[simp] theorem notify_at_bay (l n) (a') : (s.notify l n).bay a' = s.bay a' := rfl
@[simp] theorem notify_at_fence (l n) (f') : (s.notify l n).fence f' = s.fence f' := rfl
@[simp] theorem notify_at_static (l n) (b') : (s.notify l n).static b' = s.static b' := rfl

/-! ### attend -/

@[simp] theorem attend_mode (l c) : (s.attend l c).mode = s.mode := rfl
@[simp] theorem attend_committed (l c) : (s.attend l c).committed = s.committed := rfl
@[simp] theorem attend_map (l c) : (s.attend l c).map = s.map := rfl
@[simp] theorem attend_blocks (l c) : (s.attend l c).blocks = s.blocks := rfl
@[simp] theorem attend_ports (l c) : (s.attend l c).ports = s.ports := rfl
@[simp] theorem attend_bays (l c) : (s.attend l c).bays = s.bays := rfl
@[simp] theorem attend_fences (l c) : (s.attend l c).fences = s.fences := rfl
@[simp] theorem attend_vehicles (l c) : (s.attend l c).vehicles = s.vehicles := rfl
@[simp] theorem attend_orders (l c) : (s.attend l c).orders = s.orders := rfl
@[simp] theorem attend_queues (l c) : (s.attend l c).queues = s.queues := rfl
@[simp] theorem attend_trigger (l c) : (s.attend l c).trigger = s.trigger := rfl
@[simp] theorem attend_capture (l c) : (s.attend l c).capture = s.capture := rfl
@[simp] theorem attend_corrections (l c) : (s.attend l c).corrections = s.corrections := rfl
@[simp] theorem attend_cursor (l c) : (s.attend l c).cursor = s.cursor := rfl
@[simp] theorem attend_scrubTimer (l c) : (s.attend l c).scrubTimer = s.scrubTimer := rfl
@[simp] theorem attend_msBase (l c) : (s.attend l c).msBase = s.msBase := rfl
@[simp] theorem attend_fabClock (l c) : (s.attend l c).fabClock = s.fabClock := rfl
@[simp] theorem attend_divider (l c) : (s.attend l c).divider = s.divider := rfl
@[simp] theorem attend_timing (l c) : (s.attend l c).timing = s.timing := rfl
@[simp] theorem attend_weights (l c) : (s.attend l c).weights = s.weights := rfl
@[simp] theorem attend_submitSeq (l c) : (s.attend l c).submitSeq = s.submitSeq := rfl
@[simp] theorem attend_waiterSeq (l c) : (s.attend l c).waiterSeq = s.waiterSeq := rfl
@[simp] theorem attend_idleSeq (l c) : (s.attend l c).idleSeq = s.idleSeq := rfl
@[simp] theorem attend_freeCount (l c) : (s.attend l c).freeCount = s.freeCount := rfl
@[simp] theorem attend_pending (l c) : (s.attend l c).pending = s.pending := rfl
@[simp] theorem attend_at_block (l c) (b') : (s.attend l c).block b' = s.block b' := rfl
@[simp] theorem attend_at_vehicle (l c) (v') : (s.attend l c).vehicle v' = s.vehicle v' := rfl
@[simp] theorem attend_at_order (l c) (o') : (s.attend l c).order o' = s.order o' := rfl
@[simp] theorem attend_at_port (l c) (p') : (s.attend l c).port p' = s.port p' := rfl
@[simp] theorem attend_at_bay (l c) (a') : (s.attend l c).bay a' = s.bay a' := rfl
@[simp] theorem attend_at_fence (l c) (f') : (s.attend l c).fence f' = s.fence f' := rfl
@[simp] theorem attend_at_static (l c) (b') : (s.attend l c).static b' = s.static b' := rfl

/-! ### notifyWhere -/

@[simp] theorem notifyWhere_mode (p n) : (s.notifyWhere p n).mode = s.mode := rfl
@[simp] theorem notifyWhere_committed (p n) : (s.notifyWhere p n).committed = s.committed := rfl
@[simp] theorem notifyWhere_map (p n) : (s.notifyWhere p n).map = s.map := rfl
@[simp] theorem notifyWhere_blocks (p n) : (s.notifyWhere p n).blocks = s.blocks := rfl
@[simp] theorem notifyWhere_ports (p n) : (s.notifyWhere p n).ports = s.ports := rfl
@[simp] theorem notifyWhere_bays (p n) : (s.notifyWhere p n).bays = s.bays := rfl
@[simp] theorem notifyWhere_fences (p n) : (s.notifyWhere p n).fences = s.fences := rfl
@[simp] theorem notifyWhere_vehicles (p n) : (s.notifyWhere p n).vehicles = s.vehicles := rfl
@[simp] theorem notifyWhere_orders (p n) : (s.notifyWhere p n).orders = s.orders := rfl
@[simp] theorem notifyWhere_queues (p n) : (s.notifyWhere p n).queues = s.queues := rfl
@[simp] theorem notifyWhere_trigger (p n) : (s.notifyWhere p n).trigger = s.trigger := rfl
@[simp] theorem notifyWhere_capture (p n) : (s.notifyWhere p n).capture = s.capture := rfl
@[simp] theorem notifyWhere_corrections (p n) : (s.notifyWhere p n).corrections = s.corrections := rfl
@[simp] theorem notifyWhere_cursor (p n) : (s.notifyWhere p n).cursor = s.cursor := rfl
@[simp] theorem notifyWhere_scrubTimer (p n) : (s.notifyWhere p n).scrubTimer = s.scrubTimer := rfl
@[simp] theorem notifyWhere_msBase (p n) : (s.notifyWhere p n).msBase = s.msBase := rfl
@[simp] theorem notifyWhere_fabClock (p n) : (s.notifyWhere p n).fabClock = s.fabClock := rfl
@[simp] theorem notifyWhere_divider (p n) : (s.notifyWhere p n).divider = s.divider := rfl
@[simp] theorem notifyWhere_timing (p n) : (s.notifyWhere p n).timing = s.timing := rfl
@[simp] theorem notifyWhere_weights (p n) : (s.notifyWhere p n).weights = s.weights := rfl
@[simp] theorem notifyWhere_submitSeq (p n) : (s.notifyWhere p n).submitSeq = s.submitSeq := rfl
@[simp] theorem notifyWhere_waiterSeq (p n) : (s.notifyWhere p n).waiterSeq = s.waiterSeq := rfl
@[simp] theorem notifyWhere_idleSeq (p n) : (s.notifyWhere p n).idleSeq = s.idleSeq := rfl
@[simp] theorem notifyWhere_freeCount (p n) : (s.notifyWhere p n).freeCount = s.freeCount := rfl
@[simp] theorem notifyWhere_pending (p n) : (s.notifyWhere p n).pending = s.pending := rfl
@[simp] theorem notifyWhere_at_block (p n) (b') : (s.notifyWhere p n).block b' = s.block b' := rfl
@[simp] theorem notifyWhere_at_vehicle (p n) (v') : (s.notifyWhere p n).vehicle v' = s.vehicle v' := rfl
@[simp] theorem notifyWhere_at_order (p n) (o') : (s.notifyWhere p n).order o' = s.order o' := rfl
@[simp] theorem notifyWhere_at_port (p n) (p') : (s.notifyWhere p n).port p' = s.port p' := rfl
@[simp] theorem notifyWhere_at_bay (p n) (a') : (s.notifyWhere p n).bay a' = s.bay a' := rfl
@[simp] theorem notifyWhere_at_fence (p n) (f') : (s.notifyWhere p n).fence f' = s.fence f' := rfl
@[simp] theorem notifyWhere_at_static (p n) (b') : (s.notifyWhere p n).static b' = s.static b' := rfl

/-! ### notifyIntegrity -/

@[simp] theorem notifyIntegrity_mode (c r f v) : (s.notifyIntegrity c r f v).mode = s.mode := rfl
@[simp] theorem notifyIntegrity_committed (c r f v) : (s.notifyIntegrity c r f v).committed = s.committed := rfl
@[simp] theorem notifyIntegrity_map (c r f v) : (s.notifyIntegrity c r f v).map = s.map := rfl
@[simp] theorem notifyIntegrity_blocks (c r f v) : (s.notifyIntegrity c r f v).blocks = s.blocks := rfl
@[simp] theorem notifyIntegrity_ports (c r f v) : (s.notifyIntegrity c r f v).ports = s.ports := rfl
@[simp] theorem notifyIntegrity_bays (c r f v) : (s.notifyIntegrity c r f v).bays = s.bays := rfl
@[simp] theorem notifyIntegrity_fences (c r f v) : (s.notifyIntegrity c r f v).fences = s.fences := rfl
@[simp] theorem notifyIntegrity_vehicles (c r f v) : (s.notifyIntegrity c r f v).vehicles = s.vehicles := rfl
@[simp] theorem notifyIntegrity_orders (c r f v) : (s.notifyIntegrity c r f v).orders = s.orders := rfl
@[simp] theorem notifyIntegrity_queues (c r f v) : (s.notifyIntegrity c r f v).queues = s.queues := rfl
@[simp] theorem notifyIntegrity_trigger (c r f v) : (s.notifyIntegrity c r f v).trigger = s.trigger := rfl
@[simp] theorem notifyIntegrity_capture (c r f v) : (s.notifyIntegrity c r f v).capture = s.capture := rfl
@[simp] theorem notifyIntegrity_corrections (c r f v) : (s.notifyIntegrity c r f v).corrections = s.corrections := rfl
@[simp] theorem notifyIntegrity_cursor (c r f v) : (s.notifyIntegrity c r f v).cursor = s.cursor := rfl
@[simp] theorem notifyIntegrity_scrubTimer (c r f v) : (s.notifyIntegrity c r f v).scrubTimer = s.scrubTimer := rfl
@[simp] theorem notifyIntegrity_msBase (c r f v) : (s.notifyIntegrity c r f v).msBase = s.msBase := rfl
@[simp] theorem notifyIntegrity_fabClock (c r f v) : (s.notifyIntegrity c r f v).fabClock = s.fabClock := rfl
@[simp] theorem notifyIntegrity_divider (c r f v) : (s.notifyIntegrity c r f v).divider = s.divider := rfl
@[simp] theorem notifyIntegrity_timing (c r f v) : (s.notifyIntegrity c r f v).timing = s.timing := rfl
@[simp] theorem notifyIntegrity_weights (c r f v) : (s.notifyIntegrity c r f v).weights = s.weights := rfl
@[simp] theorem notifyIntegrity_submitSeq (c r f v) : (s.notifyIntegrity c r f v).submitSeq = s.submitSeq := rfl
@[simp] theorem notifyIntegrity_waiterSeq (c r f v) : (s.notifyIntegrity c r f v).waiterSeq = s.waiterSeq := rfl
@[simp] theorem notifyIntegrity_idleSeq (c r f v) : (s.notifyIntegrity c r f v).idleSeq = s.idleSeq := rfl
@[simp] theorem notifyIntegrity_freeCount (c r f v) : (s.notifyIntegrity c r f v).freeCount = s.freeCount := rfl
@[simp] theorem notifyIntegrity_pending (c r f v) : (s.notifyIntegrity c r f v).pending = s.pending := rfl
@[simp] theorem notifyIntegrity_at_block (c r f v) (b') : (s.notifyIntegrity c r f v).block b' = s.block b' := rfl
@[simp] theorem notifyIntegrity_at_vehicle (c r f v) (v') : (s.notifyIntegrity c r f v).vehicle v' = s.vehicle v' := rfl
@[simp] theorem notifyIntegrity_at_order (c r f v) (o') : (s.notifyIntegrity c r f v).order o' = s.order o' := rfl
@[simp] theorem notifyIntegrity_at_port (c r f v) (p') : (s.notifyIntegrity c r f v).port p' = s.port p' := rfl
@[simp] theorem notifyIntegrity_at_bay (c r f v) (a') : (s.notifyIntegrity c r f v).bay a' = s.bay a' := rfl
@[simp] theorem notifyIntegrity_at_fence (c r f v) (f') : (s.notifyIntegrity c r f v).fence f' = s.fence f' := rfl
@[simp] theorem notifyIntegrity_at_static (c r f v) (b') : (s.notifyIntegrity c r f v).static b' = s.static b' := rfl

/-! ### notifyMode -/

@[simp] theorem notifyMode_mode (m c) : (s.notifyMode m c).mode = s.mode := rfl
@[simp] theorem notifyMode_committed (m c) : (s.notifyMode m c).committed = s.committed := rfl
@[simp] theorem notifyMode_map (m c) : (s.notifyMode m c).map = s.map := rfl
@[simp] theorem notifyMode_blocks (m c) : (s.notifyMode m c).blocks = s.blocks := rfl
@[simp] theorem notifyMode_ports (m c) : (s.notifyMode m c).ports = s.ports := rfl
@[simp] theorem notifyMode_bays (m c) : (s.notifyMode m c).bays = s.bays := rfl
@[simp] theorem notifyMode_fences (m c) : (s.notifyMode m c).fences = s.fences := rfl
@[simp] theorem notifyMode_vehicles (m c) : (s.notifyMode m c).vehicles = s.vehicles := rfl
@[simp] theorem notifyMode_orders (m c) : (s.notifyMode m c).orders = s.orders := rfl
@[simp] theorem notifyMode_queues (m c) : (s.notifyMode m c).queues = s.queues := rfl
@[simp] theorem notifyMode_trigger (m c) : (s.notifyMode m c).trigger = s.trigger := rfl
@[simp] theorem notifyMode_capture (m c) : (s.notifyMode m c).capture = s.capture := rfl
@[simp] theorem notifyMode_corrections (m c) : (s.notifyMode m c).corrections = s.corrections := rfl
@[simp] theorem notifyMode_cursor (m c) : (s.notifyMode m c).cursor = s.cursor := rfl
@[simp] theorem notifyMode_scrubTimer (m c) : (s.notifyMode m c).scrubTimer = s.scrubTimer := rfl
@[simp] theorem notifyMode_msBase (m c) : (s.notifyMode m c).msBase = s.msBase := rfl
@[simp] theorem notifyMode_fabClock (m c) : (s.notifyMode m c).fabClock = s.fabClock := rfl
@[simp] theorem notifyMode_divider (m c) : (s.notifyMode m c).divider = s.divider := rfl
@[simp] theorem notifyMode_timing (m c) : (s.notifyMode m c).timing = s.timing := rfl
@[simp] theorem notifyMode_weights (m c) : (s.notifyMode m c).weights = s.weights := rfl
@[simp] theorem notifyMode_submitSeq (m c) : (s.notifyMode m c).submitSeq = s.submitSeq := rfl
@[simp] theorem notifyMode_waiterSeq (m c) : (s.notifyMode m c).waiterSeq = s.waiterSeq := rfl
@[simp] theorem notifyMode_idleSeq (m c) : (s.notifyMode m c).idleSeq = s.idleSeq := rfl
@[simp] theorem notifyMode_freeCount (m c) : (s.notifyMode m c).freeCount = s.freeCount := rfl
@[simp] theorem notifyMode_pending (m c) : (s.notifyMode m c).pending = s.pending := rfl
@[simp] theorem notifyMode_at_block (m c) (b') : (s.notifyMode m c).block b' = s.block b' := rfl
@[simp] theorem notifyMode_at_vehicle (m c) (v') : (s.notifyMode m c).vehicle v' = s.vehicle v' := rfl
@[simp] theorem notifyMode_at_order (m c) (o') : (s.notifyMode m c).order o' = s.order o' := rfl
@[simp] theorem notifyMode_at_port (m c) (p') : (s.notifyMode m c).port p' = s.port p' := rfl
@[simp] theorem notifyMode_at_bay (m c) (a') : (s.notifyMode m c).bay a' = s.bay a' := rfl
@[simp] theorem notifyMode_at_fence (m c) (f') : (s.notifyMode m c).fence f' = s.fence f' := rfl
@[simp] theorem notifyMode_at_static (m c) (b') : (s.notifyMode m c).static b' = s.static b' := rfl

/-! ### noteVehicle -/

@[simp] theorem noteVehicle_mode (v was) : (s.noteVehicle v was).mode = s.mode := rfl
@[simp] theorem noteVehicle_committed (v was) : (s.noteVehicle v was).committed = s.committed := rfl
@[simp] theorem noteVehicle_map (v was) : (s.noteVehicle v was).map = s.map := rfl
@[simp] theorem noteVehicle_blocks (v was) : (s.noteVehicle v was).blocks = s.blocks := rfl
@[simp] theorem noteVehicle_ports (v was) : (s.noteVehicle v was).ports = s.ports := rfl
@[simp] theorem noteVehicle_bays (v was) : (s.noteVehicle v was).bays = s.bays := rfl
@[simp] theorem noteVehicle_fences (v was) : (s.noteVehicle v was).fences = s.fences := rfl
@[simp] theorem noteVehicle_vehicles (v was) : (s.noteVehicle v was).vehicles = s.vehicles := rfl
@[simp] theorem noteVehicle_orders (v was) : (s.noteVehicle v was).orders = s.orders := rfl
@[simp] theorem noteVehicle_queues (v was) : (s.noteVehicle v was).queues = s.queues := rfl
@[simp] theorem noteVehicle_trigger (v was) : (s.noteVehicle v was).trigger = s.trigger := rfl
@[simp] theorem noteVehicle_capture (v was) : (s.noteVehicle v was).capture = s.capture := rfl
@[simp] theorem noteVehicle_corrections (v was) : (s.noteVehicle v was).corrections = s.corrections := rfl
@[simp] theorem noteVehicle_cursor (v was) : (s.noteVehicle v was).cursor = s.cursor := rfl
@[simp] theorem noteVehicle_scrubTimer (v was) : (s.noteVehicle v was).scrubTimer = s.scrubTimer := rfl
@[simp] theorem noteVehicle_msBase (v was) : (s.noteVehicle v was).msBase = s.msBase := rfl
@[simp] theorem noteVehicle_fabClock (v was) : (s.noteVehicle v was).fabClock = s.fabClock := rfl
@[simp] theorem noteVehicle_divider (v was) : (s.noteVehicle v was).divider = s.divider := rfl
@[simp] theorem noteVehicle_timing (v was) : (s.noteVehicle v was).timing = s.timing := rfl
@[simp] theorem noteVehicle_weights (v was) : (s.noteVehicle v was).weights = s.weights := rfl
@[simp] theorem noteVehicle_submitSeq (v was) : (s.noteVehicle v was).submitSeq = s.submitSeq := rfl
@[simp] theorem noteVehicle_waiterSeq (v was) : (s.noteVehicle v was).waiterSeq = s.waiterSeq := rfl
@[simp] theorem noteVehicle_idleSeq (v was) : (s.noteVehicle v was).idleSeq = s.idleSeq := rfl
@[simp] theorem noteVehicle_freeCount (v was) : (s.noteVehicle v was).freeCount = s.freeCount := rfl
@[simp] theorem noteVehicle_pending (v was) : (s.noteVehicle v was).pending = s.pending := rfl
@[simp] theorem noteVehicle_at_block (v was) (b') : (s.noteVehicle v was).block b' = s.block b' := rfl
@[simp] theorem noteVehicle_at_vehicle (v was) (v') : (s.noteVehicle v was).vehicle v' = s.vehicle v' := rfl
@[simp] theorem noteVehicle_at_order (v was) (o') : (s.noteVehicle v was).order o' = s.order o' := rfl
@[simp] theorem noteVehicle_at_port (v was) (p') : (s.noteVehicle v was).port p' = s.port p' := rfl
@[simp] theorem noteVehicle_at_bay (v was) (a') : (s.noteVehicle v was).bay a' = s.bay a' := rfl
@[simp] theorem noteVehicle_at_fence (v was) (f') : (s.noteVehicle v was).fence f' = s.fence f' := rfl
@[simp] theorem noteVehicle_at_static (v was) (b') : (s.noteVehicle v was).static b' = s.static b' := rfl

/-! ### noteOrder -/

@[simp] theorem noteOrder_mode (o r k c) : (s.noteOrder o r k c).mode = s.mode := rfl
@[simp] theorem noteOrder_committed (o r k c) : (s.noteOrder o r k c).committed = s.committed := rfl
@[simp] theorem noteOrder_map (o r k c) : (s.noteOrder o r k c).map = s.map := rfl
@[simp] theorem noteOrder_blocks (o r k c) : (s.noteOrder o r k c).blocks = s.blocks := rfl
@[simp] theorem noteOrder_ports (o r k c) : (s.noteOrder o r k c).ports = s.ports := rfl
@[simp] theorem noteOrder_bays (o r k c) : (s.noteOrder o r k c).bays = s.bays := rfl
@[simp] theorem noteOrder_fences (o r k c) : (s.noteOrder o r k c).fences = s.fences := rfl
@[simp] theorem noteOrder_vehicles (o r k c) : (s.noteOrder o r k c).vehicles = s.vehicles := rfl
@[simp] theorem noteOrder_orders (o r k c) : (s.noteOrder o r k c).orders = s.orders := rfl
@[simp] theorem noteOrder_queues (o r k c) : (s.noteOrder o r k c).queues = s.queues := rfl
@[simp] theorem noteOrder_trigger (o r k c) : (s.noteOrder o r k c).trigger = s.trigger := rfl
@[simp] theorem noteOrder_capture (o r k c) : (s.noteOrder o r k c).capture = s.capture := rfl
@[simp] theorem noteOrder_corrections (o r k c) : (s.noteOrder o r k c).corrections = s.corrections := rfl
@[simp] theorem noteOrder_cursor (o r k c) : (s.noteOrder o r k c).cursor = s.cursor := rfl
@[simp] theorem noteOrder_scrubTimer (o r k c) : (s.noteOrder o r k c).scrubTimer = s.scrubTimer := rfl
@[simp] theorem noteOrder_msBase (o r k c) : (s.noteOrder o r k c).msBase = s.msBase := rfl
@[simp] theorem noteOrder_fabClock (o r k c) : (s.noteOrder o r k c).fabClock = s.fabClock := rfl
@[simp] theorem noteOrder_divider (o r k c) : (s.noteOrder o r k c).divider = s.divider := rfl
@[simp] theorem noteOrder_timing (o r k c) : (s.noteOrder o r k c).timing = s.timing := rfl
@[simp] theorem noteOrder_weights (o r k c) : (s.noteOrder o r k c).weights = s.weights := rfl
@[simp] theorem noteOrder_submitSeq (o r k c) : (s.noteOrder o r k c).submitSeq = s.submitSeq := rfl
@[simp] theorem noteOrder_waiterSeq (o r k c) : (s.noteOrder o r k c).waiterSeq = s.waiterSeq := rfl
@[simp] theorem noteOrder_idleSeq (o r k c) : (s.noteOrder o r k c).idleSeq = s.idleSeq := rfl
@[simp] theorem noteOrder_freeCount (o r k c) : (s.noteOrder o r k c).freeCount = s.freeCount := rfl
@[simp] theorem noteOrder_pending (o r k c) : (s.noteOrder o r k c).pending = s.pending := rfl
@[simp] theorem noteOrder_at_block (o r k c) (b') : (s.noteOrder o r k c).block b' = s.block b' := rfl
@[simp] theorem noteOrder_at_vehicle (o r k c) (v') : (s.noteOrder o r k c).vehicle v' = s.vehicle v' := rfl
@[simp] theorem noteOrder_at_order (o r k c) (o') : (s.noteOrder o r k c).order o' = s.order o' := rfl
@[simp] theorem noteOrder_at_port (o r k c) (p') : (s.noteOrder o r k c).port p' = s.port p' := rfl
@[simp] theorem noteOrder_at_bay (o r k c) (a') : (s.noteOrder o r k c).bay a' = s.bay a' := rfl
@[simp] theorem noteOrder_at_fence (o r k c) (f') : (s.noteOrder o r k c).fence f' = s.fence f' := rfl
@[simp] theorem noteOrder_at_static (o r k c) (b') : (s.noteOrder o r k c).static b' = s.static b' := rfl

/-! ### placeReply -/

@[simp] theorem placeReply_mode (l k g a) : (s.placeReply l k g a).mode = s.mode := rfl
@[simp] theorem placeReply_committed (l k g a) : (s.placeReply l k g a).committed = s.committed := rfl
@[simp] theorem placeReply_map (l k g a) : (s.placeReply l k g a).map = s.map := rfl
@[simp] theorem placeReply_blocks (l k g a) : (s.placeReply l k g a).blocks = s.blocks := rfl
@[simp] theorem placeReply_ports (l k g a) : (s.placeReply l k g a).ports = s.ports := rfl
@[simp] theorem placeReply_bays (l k g a) : (s.placeReply l k g a).bays = s.bays := rfl
@[simp] theorem placeReply_fences (l k g a) : (s.placeReply l k g a).fences = s.fences := rfl
@[simp] theorem placeReply_vehicles (l k g a) : (s.placeReply l k g a).vehicles = s.vehicles := rfl
@[simp] theorem placeReply_orders (l k g a) : (s.placeReply l k g a).orders = s.orders := rfl
@[simp] theorem placeReply_queues (l k g a) : (s.placeReply l k g a).queues = s.queues := rfl
@[simp] theorem placeReply_trigger (l k g a) : (s.placeReply l k g a).trigger = s.trigger := rfl
@[simp] theorem placeReply_capture (l k g a) : (s.placeReply l k g a).capture = s.capture := rfl
@[simp] theorem placeReply_corrections (l k g a) : (s.placeReply l k g a).corrections = s.corrections := rfl
@[simp] theorem placeReply_cursor (l k g a) : (s.placeReply l k g a).cursor = s.cursor := rfl
@[simp] theorem placeReply_scrubTimer (l k g a) : (s.placeReply l k g a).scrubTimer = s.scrubTimer := rfl
@[simp] theorem placeReply_msBase (l k g a) : (s.placeReply l k g a).msBase = s.msBase := rfl
@[simp] theorem placeReply_fabClock (l k g a) : (s.placeReply l k g a).fabClock = s.fabClock := rfl
@[simp] theorem placeReply_divider (l k g a) : (s.placeReply l k g a).divider = s.divider := rfl
@[simp] theorem placeReply_timing (l k g a) : (s.placeReply l k g a).timing = s.timing := rfl
@[simp] theorem placeReply_weights (l k g a) : (s.placeReply l k g a).weights = s.weights := rfl
@[simp] theorem placeReply_submitSeq (l k g a) : (s.placeReply l k g a).submitSeq = s.submitSeq := rfl
@[simp] theorem placeReply_waiterSeq (l k g a) : (s.placeReply l k g a).waiterSeq = s.waiterSeq := rfl
@[simp] theorem placeReply_idleSeq (l k g a) : (s.placeReply l k g a).idleSeq = s.idleSeq := rfl
@[simp] theorem placeReply_freeCount (l k g a) : (s.placeReply l k g a).freeCount = s.freeCount := rfl
@[simp] theorem placeReply_pending (l k g a) : (s.placeReply l k g a).pending = s.pending := rfl
@[simp] theorem placeReply_at_block (l k g a) (b') : (s.placeReply l k g a).block b' = s.block b' := rfl
@[simp] theorem placeReply_at_vehicle (l k g a) (v') : (s.placeReply l k g a).vehicle v' = s.vehicle v' := rfl
@[simp] theorem placeReply_at_order (l k g a) (o') : (s.placeReply l k g a).order o' = s.order o' := rfl
@[simp] theorem placeReply_at_port (l k g a) (p') : (s.placeReply l k g a).port p' = s.port p' := rfl
@[simp] theorem placeReply_at_bay (l k g a) (a') : (s.placeReply l k g a).bay a' = s.bay a' := rfl
@[simp] theorem placeReply_at_fence (l k g a) (f') : (s.placeReply l k g a).fence f' = s.fence f' := rfl
@[simp] theorem placeReply_at_static (l k g a) (b') : (s.placeReply l k g a).static b' = s.static b' := rfl

/-! ### captureError -/

theorem captureError_eq (r k f) : s.captureError r k f = { s with capture := (s.captureError r k f).capture } := by
  unfold State.captureError; split <;> rfl
@[simp] theorem captureError_mode (r k f) : (s.captureError r k f).mode = s.mode := by rw [captureError_eq]
@[simp] theorem captureError_committed (r k f) : (s.captureError r k f).committed = s.committed := by rw [captureError_eq]
@[simp] theorem captureError_map (r k f) : (s.captureError r k f).map = s.map := by rw [captureError_eq]
@[simp] theorem captureError_blocks (r k f) : (s.captureError r k f).blocks = s.blocks := by rw [captureError_eq]
@[simp] theorem captureError_ports (r k f) : (s.captureError r k f).ports = s.ports := by rw [captureError_eq]
@[simp] theorem captureError_bays (r k f) : (s.captureError r k f).bays = s.bays := by rw [captureError_eq]
@[simp] theorem captureError_fences (r k f) : (s.captureError r k f).fences = s.fences := by rw [captureError_eq]
@[simp] theorem captureError_vehicles (r k f) : (s.captureError r k f).vehicles = s.vehicles := by rw [captureError_eq]
@[simp] theorem captureError_orders (r k f) : (s.captureError r k f).orders = s.orders := by rw [captureError_eq]
@[simp] theorem captureError_queues (r k f) : (s.captureError r k f).queues = s.queues := by rw [captureError_eq]
@[simp] theorem captureError_trigger (r k f) : (s.captureError r k f).trigger = s.trigger := by rw [captureError_eq]
@[simp] theorem captureError_corrections (r k f) : (s.captureError r k f).corrections = s.corrections := by rw [captureError_eq]
@[simp] theorem captureError_cursor (r k f) : (s.captureError r k f).cursor = s.cursor := by rw [captureError_eq]
@[simp] theorem captureError_scrubTimer (r k f) : (s.captureError r k f).scrubTimer = s.scrubTimer := by rw [captureError_eq]
@[simp] theorem captureError_msBase (r k f) : (s.captureError r k f).msBase = s.msBase := by rw [captureError_eq]
@[simp] theorem captureError_fabClock (r k f) : (s.captureError r k f).fabClock = s.fabClock := by rw [captureError_eq]
@[simp] theorem captureError_divider (r k f) : (s.captureError r k f).divider = s.divider := by rw [captureError_eq]
@[simp] theorem captureError_timing (r k f) : (s.captureError r k f).timing = s.timing := by rw [captureError_eq]
@[simp] theorem captureError_weights (r k f) : (s.captureError r k f).weights = s.weights := by rw [captureError_eq]
@[simp] theorem captureError_submitSeq (r k f) : (s.captureError r k f).submitSeq = s.submitSeq := by rw [captureError_eq]
@[simp] theorem captureError_waiterSeq (r k f) : (s.captureError r k f).waiterSeq = s.waiterSeq := by rw [captureError_eq]
@[simp] theorem captureError_idleSeq (r k f) : (s.captureError r k f).idleSeq = s.idleSeq := by rw [captureError_eq]
@[simp] theorem captureError_freeCount (r k f) : (s.captureError r k f).freeCount = s.freeCount := by rw [captureError_eq]
@[simp] theorem captureError_pending (r k f) : (s.captureError r k f).pending = s.pending := by rw [captureError_eq]
@[simp] theorem captureError_links (r k f) : (s.captureError r k f).links = s.links := by rw [captureError_eq]
@[simp] theorem captureError_at_block (r k f) (b') : (s.captureError r k f).block b' = s.block b' := by rw [captureError_eq]; rfl
@[simp] theorem captureError_at_vehicle (r k f) (v') : (s.captureError r k f).vehicle v' = s.vehicle v' := by rw [captureError_eq]; rfl
@[simp] theorem captureError_at_order (r k f) (o') : (s.captureError r k f).order o' = s.order o' := by rw [captureError_eq]; rfl
@[simp] theorem captureError_at_port (r k f) (p') : (s.captureError r k f).port p' = s.port p' := by rw [captureError_eq]; rfl
@[simp] theorem captureError_at_bay (r k f) (a') : (s.captureError r k f).bay a' = s.bay a' := by rw [captureError_eq]; rfl
@[simp] theorem captureError_at_fence (r k f) (g') : (s.captureError r k f).fence g' = s.fence g' := by rw [captureError_eq]; rfl
@[simp] theorem captureError_at_link (r k f) (l') : (s.captureError r k f).link l' = s.link l' := by rw [captureError_eq]; rfl
@[simp] theorem captureError_at_static (r k f) (b') : (s.captureError r k f).static b' = s.static b' := by rw [captureError_eq]; rfl

/-! ### receiverToHunt -/

@[simp] theorem receiverToHunt_mode (l) : (s.receiverToHunt l).mode = s.mode := rfl
@[simp] theorem receiverToHunt_committed (l) : (s.receiverToHunt l).committed = s.committed := rfl
@[simp] theorem receiverToHunt_map (l) : (s.receiverToHunt l).map = s.map := rfl
@[simp] theorem receiverToHunt_blocks (l) : (s.receiverToHunt l).blocks = s.blocks := rfl
@[simp] theorem receiverToHunt_ports (l) : (s.receiverToHunt l).ports = s.ports := rfl
@[simp] theorem receiverToHunt_bays (l) : (s.receiverToHunt l).bays = s.bays := rfl
@[simp] theorem receiverToHunt_fences (l) : (s.receiverToHunt l).fences = s.fences := rfl
@[simp] theorem receiverToHunt_vehicles (l) : (s.receiverToHunt l).vehicles = s.vehicles := rfl
@[simp] theorem receiverToHunt_orders (l) : (s.receiverToHunt l).orders = s.orders := rfl
@[simp] theorem receiverToHunt_queues (l) : (s.receiverToHunt l).queues = s.queues := rfl
@[simp] theorem receiverToHunt_trigger (l) : (s.receiverToHunt l).trigger = s.trigger := rfl
@[simp] theorem receiverToHunt_capture (l) : (s.receiverToHunt l).capture = s.capture := rfl
@[simp] theorem receiverToHunt_corrections (l) : (s.receiverToHunt l).corrections = s.corrections := rfl
@[simp] theorem receiverToHunt_cursor (l) : (s.receiverToHunt l).cursor = s.cursor := rfl
@[simp] theorem receiverToHunt_scrubTimer (l) : (s.receiverToHunt l).scrubTimer = s.scrubTimer := rfl
@[simp] theorem receiverToHunt_msBase (l) : (s.receiverToHunt l).msBase = s.msBase := rfl
@[simp] theorem receiverToHunt_fabClock (l) : (s.receiverToHunt l).fabClock = s.fabClock := rfl
@[simp] theorem receiverToHunt_divider (l) : (s.receiverToHunt l).divider = s.divider := rfl
@[simp] theorem receiverToHunt_timing (l) : (s.receiverToHunt l).timing = s.timing := rfl
@[simp] theorem receiverToHunt_weights (l) : (s.receiverToHunt l).weights = s.weights := rfl
@[simp] theorem receiverToHunt_submitSeq (l) : (s.receiverToHunt l).submitSeq = s.submitSeq := rfl
@[simp] theorem receiverToHunt_waiterSeq (l) : (s.receiverToHunt l).waiterSeq = s.waiterSeq := rfl
@[simp] theorem receiverToHunt_idleSeq (l) : (s.receiverToHunt l).idleSeq = s.idleSeq := rfl
@[simp] theorem receiverToHunt_freeCount (l) : (s.receiverToHunt l).freeCount = s.freeCount := rfl
@[simp] theorem receiverToHunt_pending (l) : (s.receiverToHunt l).pending = s.pending := rfl
@[simp] theorem receiverToHunt_at_block (l) (b') : (s.receiverToHunt l).block b' = s.block b' := rfl
@[simp] theorem receiverToHunt_at_vehicle (l) (v') : (s.receiverToHunt l).vehicle v' = s.vehicle v' := rfl
@[simp] theorem receiverToHunt_at_order (l) (o') : (s.receiverToHunt l).order o' = s.order o' := rfl
@[simp] theorem receiverToHunt_at_port (l) (p') : (s.receiverToHunt l).port p' = s.port p' := rfl
@[simp] theorem receiverToHunt_at_bay (l) (a') : (s.receiverToHunt l).bay a' = s.bay a' := rfl
@[simp] theorem receiverToHunt_at_fence (l) (f') : (s.receiverToHunt l).fence f' = s.fence f' := rfl
@[simp] theorem receiverToHunt_at_static (l) (b') : (s.receiverToHunt l).static b' = s.static b' := rfl

/-! ### endEvent -/

@[simp] theorem endEvent_mode : (s.endEvent).mode = s.mode := rfl
@[simp] theorem endEvent_committed : (s.endEvent).committed = s.committed := rfl
@[simp] theorem endEvent_map : (s.endEvent).map = s.map := rfl
@[simp] theorem endEvent_blocks : (s.endEvent).blocks = s.blocks := rfl
@[simp] theorem endEvent_ports : (s.endEvent).ports = s.ports := rfl
@[simp] theorem endEvent_bays : (s.endEvent).bays = s.bays := rfl
@[simp] theorem endEvent_fences : (s.endEvent).fences = s.fences := rfl
@[simp] theorem endEvent_vehicles : (s.endEvent).vehicles = s.vehicles := rfl
@[simp] theorem endEvent_orders : (s.endEvent).orders = s.orders := rfl
@[simp] theorem endEvent_queues : (s.endEvent).queues = s.queues := rfl
@[simp] theorem endEvent_trigger : (s.endEvent).trigger = s.trigger := rfl
@[simp] theorem endEvent_capture : (s.endEvent).capture = s.capture := rfl
@[simp] theorem endEvent_corrections : (s.endEvent).corrections = s.corrections := rfl
@[simp] theorem endEvent_cursor : (s.endEvent).cursor = s.cursor := rfl
@[simp] theorem endEvent_scrubTimer : (s.endEvent).scrubTimer = s.scrubTimer := rfl
@[simp] theorem endEvent_msBase : (s.endEvent).msBase = s.msBase := rfl
@[simp] theorem endEvent_fabClock : (s.endEvent).fabClock = s.fabClock := rfl
@[simp] theorem endEvent_divider : (s.endEvent).divider = s.divider := rfl
@[simp] theorem endEvent_timing : (s.endEvent).timing = s.timing := rfl
@[simp] theorem endEvent_weights : (s.endEvent).weights = s.weights := rfl
@[simp] theorem endEvent_submitSeq : (s.endEvent).submitSeq = s.submitSeq := rfl
@[simp] theorem endEvent_waiterSeq : (s.endEvent).waiterSeq = s.waiterSeq := rfl
@[simp] theorem endEvent_idleSeq : (s.endEvent).idleSeq = s.idleSeq := rfl
@[simp] theorem endEvent_freeCount : (s.endEvent).freeCount = s.freeCount := rfl
@[simp] theorem endEvent_pending : (s.endEvent).pending = s.pending := rfl
@[simp] theorem endEvent_at_block (b') : (s.endEvent).block b' = s.block b' := rfl
@[simp] theorem endEvent_at_vehicle (v') : (s.endEvent).vehicle v' = s.vehicle v' := rfl
@[simp] theorem endEvent_at_order (o') : (s.endEvent).order o' = s.order o' := rfl
@[simp] theorem endEvent_at_port (p') : (s.endEvent).port p' = s.port p' := rfl
@[simp] theorem endEvent_at_bay (a') : (s.endEvent).bay a' = s.bay a' := rfl
@[simp] theorem endEvent_at_fence (f') : (s.endEvent).fence f' = s.fence f' := rfl
@[simp] theorem endEvent_at_static (b') : (s.endEvent).static b' = s.static b' := rfl

/-! ### What a record reads as after a write -/

@[simp] theorem setBlock_same (b r) : (s.setBlock b r).block b = r := by
  simp [State.setBlock, State.block]

theorem setBlock_other {b b' : BlockId} (r) (h : b' ≠ b) : (s.setBlock b r).block b' = s.block b' := by
  have : b.val ≠ b'.val := fun e => h (Fin.ext e.symm)
  simp [State.setBlock, State.block, Vector.getElem_set_ne, this]

theorem setBlock_read (b b') (r) : (s.setBlock b r).block b' = if b' = b then r else s.block b' := by
  by_cases h : b' = b
  · subst h; simp
  · simp [h, setBlock_other]

@[simp] theorem setVehicle_same (v r) : (s.setVehicle v r).vehicle v = r := by
  simp [State.setVehicle, State.vehicle]

theorem setVehicle_other {v v' : VehicleId} (r) (h : v' ≠ v) : (s.setVehicle v r).vehicle v' = s.vehicle v' := by
  have : v.val ≠ v'.val := fun e => h (Fin.ext e.symm)
  simp [State.setVehicle, State.vehicle, Vector.getElem_set_ne, this]

theorem setVehicle_read (v v') (r) : (s.setVehicle v r).vehicle v' = if v' = v then r else s.vehicle v' := by
  by_cases h : v' = v
  · subst h; simp
  · simp [h, setVehicle_other]

@[simp] theorem setOrder_same (o r) : (s.setOrder o r).order o = r := by
  simp [State.setOrder, State.order]

theorem setOrder_other {o o' : Slot} (r) (h : o' ≠ o) : (s.setOrder o r).order o' = s.order o' := by
  have : o.val ≠ o'.val := fun e => h (Fin.ext e.symm)
  simp [State.setOrder, State.order, Vector.getElem_set_ne, this]

theorem setOrder_read (o o') (r) : (s.setOrder o r).order o' = if o' = o then r else s.order o' := by
  by_cases h : o' = o
  · subst h; simp
  · simp [h, setOrder_other]

@[simp] theorem setPort_same (p r) : (s.setPort p r).port p = r := by
  simp [State.setPort, State.port]

theorem setPort_other {p p' : PortId} (r) (h : p' ≠ p) : (s.setPort p r).port p' = s.port p' := by
  have : p.val ≠ p'.val := fun e => h (Fin.ext e.symm)
  simp [State.setPort, State.port, Vector.getElem_set_ne, this]

theorem setPort_read (p p') (r) : (s.setPort p r).port p' = if p' = p then r else s.port p' := by
  by_cases h : p' = p
  · subst h; simp
  · simp [h, setPort_other]

@[simp] theorem setBay_same (a r) : (s.setBay a r).bay a = r := by
  simp [State.setBay, State.bay]

theorem setBay_other {a a' : BayId} (r) (h : a' ≠ a) : (s.setBay a r).bay a' = s.bay a' := by
  have : a.val ≠ a'.val := fun e => h (Fin.ext e.symm)
  simp [State.setBay, State.bay, Vector.getElem_set_ne, this]

theorem setBay_read (a a') (r) : (s.setBay a r).bay a' = if a' = a then r else s.bay a' := by
  by_cases h : a' = a
  · subst h; simp
  · simp [h, setBay_other]

@[simp] theorem setFence_same (f r) : (s.setFence f r).fence f = r := by
  simp [State.setFence, State.fence]

theorem setFence_other {f f' : FenceId} (r) (h : f' ≠ f) : (s.setFence f r).fence f' = s.fence f' := by
  have : f.val ≠ f'.val := fun e => h (Fin.ext e.symm)
  simp [State.setFence, State.fence, Vector.getElem_set_ne, this]

theorem setFence_read (f f') (r) : (s.setFence f r).fence f' = if f' = f then r else s.fence f' := by
  by_cases h : f' = f
  · subst h; simp
  · simp [h, setFence_other]

@[simp] theorem setLink_same (l r) : (s.setLink l r).link l = r := by
  simp [State.setLink, State.link]

theorem setLink_other {l l' : LinkId} (r) (h : l' ≠ l) : (s.setLink l r).link l' = s.link l' := by
  have : l.val ≠ l'.val := fun e => h (Fin.ext e.symm)
  simp [State.setLink, State.link, Vector.getElem_set_ne, this]

theorem setLink_read (l l') (r) : (s.setLink l r).link l' = if l' = l then r else s.link l' := by
  by_cases h : l' = l
  · subst h; simp
  · simp [h, setLink_other]

/-! ### The lists of all numbers -/

@[simp] theorem mem_allVehicles (v : VehicleId) : v ∈ allVehicles := by unfold allVehicles; exact List.mem_finRange v
@[simp] theorem mem_allBlocks (b : BlockId) : b ∈ allBlocks := by unfold allBlocks; exact List.mem_finRange b

end Sys2Proof.Machine
end

