-- ==== Sys2Proof/Laws/Keeps.lean ====
section
/-! SUPPORT. What the shared operations can do, said once: they write the block, vehicle and order records, the queues, the
reservations, the trigger, the capture record and the counters, append notices and set attention, and touch nothing else.
`Keeps s t` says that `t` comes from `s` by such operations; one lemma an operation. -/

namespace Sys2Proof.Machine

/-- A link that has got notices and attention causes, and nothing else. -/
structure LinkKeeps (k k' : Link) : Prop where
  role : k'.role = k.role
  rate : k'.rate = k.rate
  rx : k'.rx = k.rx
  gapTimer : k'.gapTimer = k.gapTimer
  slot : k'.slot = k.slot
  pendingRate : k'.pendingRate = k.pendingRate
  tx : k'.tx = k.tx
  maskVehicle : k'.maskVehicle = k.maskVehicle
  maskPort : k'.maskPort = k.maskPort
  queue : k.queue <+: k'.queue
  room : k.queue.length ≤ 32 → k'.queue.length ≤ 32
  disabled : k.role = .disabled → k'.queue = k.queue ∧ k'.attention = k.attention

structure Keeps (s t : State) : Prop where
  mode : t.mode = s.mode
  committed : t.committed = s.committed
  map : t.map = s.map
  bays : t.bays = s.bays
  fences : t.fences = s.fences
  timing : t.timing = s.timing
  weights : t.weights = s.weights
  msBase : t.msBase = s.msBase
  fabClock : t.fabClock = s.fabClock
  divider : t.divider = s.divider
  cursor : t.cursor = s.cursor
  scrubTimer : t.scrubTimer = s.scrubTimer
  pending : t.pending = s.pending
  freeCount : t.freeCount = s.freeCount
  placed : ∀ p, (t.port p).block = (s.port p).block
  down : ∀ p, (t.port p).down = (s.port p).down
  corrections : s.corrections ≤ 255 → t.corrections ≤ 255
  links : ∀ l, LinkKeeps (s.link l) (t.link l)

theorem LinkKeeps.refl (k : Link) : LinkKeeps k k :=
  ⟨rfl, rfl, rfl, rfl, rfl, rfl, rfl, rfl, rfl, List.prefix_refl _, id, fun _ => ⟨rfl, rfl⟩⟩

theorem LinkKeeps.trans {a b c : Link} (h : LinkKeeps a b) (g : LinkKeeps b c) : LinkKeeps a c where
  role := g.role.trans h.role
  rate := g.rate.trans h.rate
  rx := g.rx.trans h.rx
  gapTimer := g.gapTimer.trans h.gapTimer
  slot := g.slot.trans h.slot
  pendingRate := g.pendingRate.trans h.pendingRate
  tx := g.tx.trans h.tx
  maskVehicle := g.maskVehicle.trans h.maskVehicle
  maskPort := g.maskPort.trans h.maskPort
  queue := h.queue.trans g.queue
  room := fun x => g.room (h.room x)
  disabled := fun x =>
    let y := g.disabled (h.role.trans x)
    let z := h.disabled x
    ⟨y.1.trans z.1, y.2.trans z.2⟩

theorem Keeps.refl (s : State) : Keeps s s :=
  ⟨rfl, rfl, rfl, rfl, rfl, rfl, rfl, rfl, rfl, rfl, rfl, rfl, rfl, rfl, fun _ => rfl, fun _ => rfl, id,
    fun _ => .refl _⟩

variable {s t u : State}

theorem Keeps.trans (h : Keeps s t) (g : Keeps t u) : Keeps s u where
  mode := g.mode.trans h.mode
  committed := g.committed.trans h.committed
  map := g.map.trans h.map
  bays := g.bays.trans h.bays
  fences := g.fences.trans h.fences
  timing := g.timing.trans h.timing
  weights := g.weights.trans h.weights
  msBase := g.msBase.trans h.msBase
  fabClock := g.fabClock.trans h.fabClock
  divider := g.divider.trans h.divider
  cursor := g.cursor.trans h.cursor
  scrubTimer := g.scrubTimer.trans h.scrubTimer
  pending := g.pending.trans h.pending
  freeCount := g.freeCount.trans h.freeCount
  placed := fun p => (g.placed p).trans (h.placed p)
  down := fun p => (g.down p).trans (h.down p)
  corrections := fun x => g.corrections (h.corrections x)
  links := fun l => (h.links l).trans (g.links l)

/-- Any write of the records and flags that `Keeps` leaves open. -/
theorem Keeps.write (h : Keeps s t)
    (e : u = { t with
      blocks := u.blocks, vehicles := u.vehicles, orders := u.orders, queues := u.queues, trigger := u.trigger
      capture := u.capture, submitSeq := u.submitSeq, waiterSeq := u.waiterSeq, idleSeq := u.idleSeq }) :
    Keeps s u := by
  rw [e]
  exact ⟨h.mode, h.committed, h.map, h.bays, h.fences, h.timing, h.weights, h.msBase, h.fabClock, h.divider, h.cursor,
    h.scrubTimer, h.pending, h.freeCount, h.placed, h.down, h.corrections, h.links⟩

/-- A write of the port table that keeps placements and DOWN flags. -/
theorem Keeps.writePorts (h : Keeps s t) (ps : Vector PortRec 192) (b : Bool)
    (e : ∀ p : PortId, (ps[p.val]).block = (t.port p).block ∧ (ps[p.val]).down = (t.port p).down) :
    Keeps s { t with ports := ps, trigger := b } :=
  ⟨h.mode, h.committed, h.map, h.bays, h.fences, h.timing, h.weights, h.msBase, h.fabClock, h.divider, h.cursor,
    h.scrubTimer, h.pending, h.freeCount, fun p => (e p).1.trans (h.placed p), fun p => (e p).2.trans (h.down p),
    h.corrections, h.links⟩

/-- A write of the links that is a `LinkKeeps` on each. -/
theorem Keeps.writeLinks (h : Keeps s t) (ks : Vector Link 6) (e : ∀ l : LinkId, LinkKeeps (t.link l) ks[l.val]) :
    Keeps s { t with links := ks } :=
  ⟨h.mode, h.committed, h.map, h.bays, h.fences, h.timing, h.weights, h.msBase, h.fabClock, h.divider, h.cursor,
    h.scrubTimer, h.pending, h.freeCount, h.placed, h.down, h.corrections, fun l => (h.links l).trans (e l)⟩

/-! ## Single writes -/

theorem Keeps.setBlock (h : Keeps s t) (b r) : Keeps s (t.setBlock b r) := h.write rfl
theorem Keeps.updBlock (h : Keeps s t) (b f) : Keeps s (t.updBlock b f) := h.write rfl
theorem Keeps.setVehicle (h : Keeps s t) (v r) : Keeps s (t.setVehicle v r) := h.write rfl
theorem Keeps.updVehicle (h : Keeps s t) (v f) : Keeps s (t.updVehicle v f) := h.write rfl
theorem Keeps.setOrder (h : Keeps s t) (o r) : Keeps s (t.setOrder o r) := h.write rfl
theorem Keeps.updOrder (h : Keeps s t) (o f) : Keeps s (t.updOrder o f) := h.write rfl
theorem Keeps.setTrigger (h : Keeps s t) : Keeps s t.setTrigger := h.write rfl
theorem Keeps.leaveQueue (h : Keeps s t) (o) : Keeps s (t.leaveQueue o) := h.write rfl

theorem Keeps.enterQueue (h : Keeps s t) (o) : Keeps s (t.enterQueue o) := by
  unfold State.enterQueue; split
  · exact h.write rfl
  · exact h

/-! ## Ports -/

theorem Keeps.setReservation (h : Keeps s t) (p x) :
    Keeps s (t.setPort p { t.port p with reservation := x }) := by
  have e : t.setPort p { t.port p with reservation := x } =
      { t with ports := t.ports.set p.val { t.port p with reservation := x }, trigger := t.trigger } := rfl
  rw [e]
  refine h.writePorts _ _ fun q => ?_
  by_cases g : p.val = q.val
  · have : p = q := Fin.ext g
    subst this; simp
  · simp [State.port, Vector.getElem_set_ne, g]

theorem Keeps.reserve (h : Keeps s t) (p o k) : Keeps s (t.reserve p o k) := h.setReservation p _

theorem Keeps.releasePort (h : Keeps s t) (o p) : Keeps s (t.releasePort o p) := by
  unfold State.releasePort; split
  · split
    · dsimp only; split
      · exact h.setReservation p _
      · exact (h.setReservation p _).setTrigger
    · exact h
  · exact h

theorem Keeps.releasePort? (h : Keeps s t) (o p) : Keeps s (t.releasePort? o p) := by
  unfold State.releasePort?; split
  · exact h.releasePort o _
  · exact h

theorem Keeps.releaseAllPorts (h : Keeps s t) (o) : Keeps s (t.releaseAllPorts o) := by
  unfold State.releaseAllPorts
  refine h.writePorts _ _ fun p => ?_
  simp only [Vector.getElem_map]
  split <;> exact ⟨rfl, rfl⟩

/-! ## Links -/

theorem LinkKeeps.enqueue (k : Link) (n) : LinkKeeps k (k.enqueue n) := by
  unfold Link.enqueue; split
  · exact .refl k
  · next hd =>
    split
    · next hl =>
      exact ⟨rfl, rfl, rfl, rfl, rfl, rfl, rfl, rfl, rfl, List.prefix_append _ _,
        fun _ => by simpa using Nat.succ_le_of_lt hl, fun x => absurd x hd⟩
    · exact ⟨rfl, rfl, rfl, rfl, rfl, rfl, rfl, rfl, rfl, List.prefix_refl _, id, fun x => absurd x hd⟩

theorem LinkKeeps.attend (k : Link) (c) : LinkKeeps k (k.attend c) := by
  unfold Link.attend; split
  · exact .refl k
  · next hd =>
    exact ⟨rfl, rfl, rfl, rfl, rfl, rfl, rfl, rfl, rfl, List.prefix_refl _, id, fun x => absurd x hd⟩

theorem Keeps.updLink (h : Keeps s t) (l) (f : Link → Link) (hf : ∀ k, LinkKeeps k (f k)) :
    Keeps s (t.updLink l f) := by
  refine h.writeLinks _ fun m => ?_
  by_cases g : l.val = m.val
  · have : l = m := Fin.ext g
    subst this; simpa using hf _
  · simpa [State.link, Vector.getElem_set_ne, g] using LinkKeeps.refl _

theorem Keeps.mapLinks (h : Keeps s t) (f : Link → Link) (hf : ∀ k, LinkKeeps k (f k)) :
    Keeps s { t with links := t.links.map f } :=
  h.writeLinks _ fun m => by simpa [State.link] using hf _

theorem Keeps.notify (h : Keeps s t) (l n) : Keeps s (t.notify l n) := h.updLink l _ fun k => .enqueue k n

theorem Keeps.attend (h : Keeps s t) (l c) : Keeps s (t.attend l c) := h.updLink l _ fun k => .attend k c

theorem Keeps.notifyOwner (h : Keeps s t) (l n) : Keeps s (t.notifyOwner l n) := by
  unfold State.notifyOwner; split
  · exact h.notify _ _
  · exact h

theorem Keeps.notifyWhere (h : Keeps s t) (p n) : Keeps s (t.notifyWhere p n) :=
  h.mapLinks _ fun k => by
    split
    · exact .enqueue k n
    · exact .refl k

theorem Keeps.notifyIntegrity (h : Keeps s t) (c r f v) : Keeps s (t.notifyIntegrity c r f v) :=
  h.mapLinks _ fun k => by
    split
    · exact (LinkKeeps.enqueue k _).trans (.attend _ _)
    · exact .refl k

theorem Keeps.notifyMode (h : Keeps s t) (m c) : Keeps s (t.notifyMode m c) :=
  h.mapLinks _ fun k => (LinkKeeps.enqueue k _).trans (.attend _ _)

theorem Keeps.noteVehicle (h : Keeps s t) (v was) : Keeps s (t.noteVehicle v was) := h.notifyWhere _ _

theorem Keeps.noteVehicleIfChanged (h : Keeps s t) (v r) : Keeps s (t.noteVehicleIfChanged v r) := by
  unfold State.noteVehicleIfChanged; split
  · exact h.noteVehicle v _
  · exact h

theorem Keeps.noteOrder (h : Keeps s t) (o r k c) : Keeps s (t.noteOrder o r k c) := h.notify _ _

theorem Keeps.noteReroute (h : Keeps s t) (v o c d a) : Keeps s (t.noteReroute v o c d a) := h.notifyOwner _ _

theorem Keeps.noteWithdraw (h : Keeps s t) (v o c) : Keeps s (t.noteWithdraw v o c) := h.notifyOwner _ _

/-! ## Readers -/

/-- A reader that only keeps. -/
def Reader.Keeps (rd : Reader) : Prop := ∀ r s, Machine.Keeps s (rd r s).1

variable {rd : Reader}

theorem Keeps.readBy (h : Keeps s t) (k : rd.Keeps) (r) : Keeps s (rd r t).1 := h.trans (k r t)

theorem Keeps.readAll (k : rd.Keeps) : ∀ (rs : List RecRef) {t : State}, Keeps s t → Keeps s (readAll rd rs t).1
  | [], _, h => h
  | r :: rs, _, h => Keeps.readAll k rs (h.readBy k r)

theorem Keeps.readUntilBad (k : rd.Keeps) :
    ∀ (rs : List RecRef) {t : State}, Keeps s t → Keeps s (readUntilBad rd rs t).1
  | [], _, h => h
  | r :: rs, t, h => by
    simp only [Machine.readUntilBad]; split
    · exact h.readBy k r
    · exact Keeps.readUntilBad k rs (h.readBy k r)

/-! ## Counters and entries -/

theorem Keeps.writeIdleSeq (h : Keeps s t) (n) : Keeps s { t with idleSeq := n } := h.write rfl
theorem Keeps.writeSubmitSeq (h : Keeps s t) (n) : Keeps s { t with submitSeq := n } := h.write rfl
theorem Keeps.writeWaiterSeq (h : Keeps s t) (n) : Keeps s { t with waiterSeq := n } := h.write rfl

theorem Keeps.renumberIdle (k : rd.Keeps) (h : Keeps s t) : Keeps s (t.renumberIdle rd).1 := by
  unfold State.renumberIdle; dsimp only
  generalize hu : (Machine.readAll rd vehicleRefs t).1 = u
  exact Keeps.write (t := u) (hu ▸ h.readAll k _) rfl

theorem Keeps.renumberSubmit (k : rd.Keeps) (h : Keeps s t) : Keeps s (t.renumberSubmit rd) := by
  unfold State.renumberSubmit
  generalize hu : (Machine.readAll rd t.orderRefs t).1 = u
  exact Keeps.write (t := u) (hu ▸ h.readAll k _) rfl

theorem Keeps.renumberWaiters (k : rd.Keeps) (h : Keeps s t) : Keeps s (t.renumberWaiters rd).1 := by
  unfold State.renumberWaiters; dsimp only
  generalize hu : (Machine.readAll rd _ t).1 = u
  exact Keeps.write (t := u) (hu ▸ h.readAll k _) rfl

theorem Keeps.nextIdleSeq (k : rd.Keeps) (h : Keeps s t) : Keeps s (t.nextIdleSeq rd).1 := by
  unfold State.nextIdleSeq; dsimp only; split
  · exact (h.renumberIdle k).writeIdleSeq _
  · exact h.writeIdleSeq _

theorem Keeps.nextSubmitSeq (k : rd.Keeps) (h : Keeps s t) : Keeps s (t.nextSubmitSeq rd).1 := by
  unfold State.nextSubmitSeq; dsimp only; split
  · exact (h.renumberSubmit k).writeSubmitSeq _
  · exact h.writeSubmitSeq _

theorem Keeps.readyWaiterSeq (k : rd.Keeps) (h : Keeps s t) : Keeps s (t.readyWaiterSeq rd).1 := by
  unfold State.readyWaiterSeq; split
  · exact h.renumberWaiters k
  · exact h

theorem Keeps.enterIdle (k : rd.Keeps) (h : Keeps s t) (v) : Keeps s (t.enterIdle rd v).1 := by
  unfold State.enterIdle; split <;> dsimp only
  · exact h.updVehicle v _
  · exact ((Keeps.nextIdleSeq k h).updVehicle v _).setTrigger

theorem Keeps.enterLoadedIdle (h : Keeps s t) (v c) : Keeps s (t.enterLoadedIdle v c) := (h.updVehicle v _).setTrigger

theorem Keeps.restartSilence (h : Keeps s t) (v) : Keeps s (t.restartSilence v) := by
  unfold State.restartSilence; split
  · exact h
  · exact h.updVehicle v _

/-! ## The order book -/

theorem Keeps.promote (h : Keeps s t) (o) : Keeps s (t.promote o) := by
  unfold State.promote; split
  · exact h
  · exact ((((h.leaveQueue o).setOrder o _).enterQueue o).noteOrder o _ _ _).setTrigger

theorem Keeps.requeue (h : Keeps s t) (o v c) : Keeps s (t.requeue o v c) := by
  unfold State.requeue; split
  · exact h
  · next r _ =>
    have h2 := (((((h.releasePort? o r.source).releasePort o r.destInUse).setOrder o (some (r.requeued v))).enterQueue
      o).noteOrder o (r.requeued v) .requeued (some c)).setTrigger
    dsimp only
    split
    · exact h2.promote o
    · exact h2

theorem Keeps.suspend (h : Keeps s t) (o) : Keeps s (t.suspend o) := by
  unfold State.suspend; split
  · exact h
  · exact (h.setOrder o _).noteOrder o _ _ _

theorem Keeps.unsuspend (h : Keeps s t) (o) : Keeps s (t.unsuspend o) := by
  unfold State.unsuspend; split
  · exact h
  · exact (h.setOrder o _).noteOrder o _ _ _

theorem Keeps.freeOrder (h : Keeps s t) (o) : Keeps s (t.freeOrder o) :=
  ((h.leaveQueue o).releaseAllPorts o).setOrder o none

theorem Keeps.endOrder (h : Keeps s t) (o k c) : Keeps s (t.endOrder o k c) := by
  unfold State.endOrder; split
  · exact h
  · exact (h.noteOrder o _ _ _).freeOrder o

theorem Keeps.bindCarrier (h : Keeps s t) (v c) : Keeps s (t.bindCarrier v c).1 := by
  unfold State.bindCarrier; split
  · split
    · exact h.updOrder _ _
    · exact h
  · exact h

/-! ## Repairs and checked reads -/

theorem Keeps.captureError (h : Keeps s t) (r k f) : Keeps s (t.captureError r k f) := by
  unfold State.captureError; split <;> exact h.write rfl

theorem Keeps.countCorrection (h : Keeps s t) (r f) : Keeps s (t.countCorrection r f) := by
  refine Keeps.captureError ?_ r _ f
  exact ⟨h.mode, h.committed, h.map, h.bays, h.fences, h.timing, h.weights, h.msBase, h.fabClock, h.divider, h.cursor,
    h.scrubTimer, h.pending, h.freeCount, h.placed, h.down, fun _ => Nat.min_le_left _ _, h.links⟩

theorem Keeps.dropWaitAt (h : Keeps s t) (b v) : Keeps s (t.dropWaitAt b v) := by
  unfold State.dropWaitAt; dsimp only; split
  · exact (h.setVehicle v _).notifyOwner _ _
  · exact h

theorem Keeps.dropWaits (k : rd.Keeps) (b) :
    ∀ (vs : List VehicleId) {t : State}, Keeps s t → Keeps s (State.dropWaits rd b vs t)
  | [], _, h => h
  | v :: vs, _, h => Keeps.dropWaits k b vs ((h.readBy k (.vehicle v)).dropWaitAt b v)

theorem Keeps.freeze (k : rd.Keeps) (h : Keeps s t) (b vs) : Keeps s (t.freeze rd b vs) :=
  Keeps.dropWaits k b vs (h.updBlock b _)

theorem Keeps.repairBlock (k : rd.Keeps) (h : Keeps s t) (b) : Keeps s (t.repairBlock rd b) :=
  Keeps.freeze k (h.updBlock b _) b _

theorem Keeps.removeEntry (h : Keeps s t) (b v) : Keeps s (t.removeEntry b v) := h.updBlock b _

theorem Keeps.pass (k : rd.Keeps) (v) : ∀ (bs : List BlockId) (acc : State × List BlockId × Option BlockId),
    Keeps s acc.1 → Keeps s (State.pass rd v bs acc).1
  | [], _, h => h
  | b :: bs, (t, found, wait), h => by
    refine Keeps.pass k v bs _ ?_
    unfold State.passBlock; dsimp only
    have h1 : Keeps s (rd (.block b) t).1 := h.readBy k (.block b)
    split
    · exact h1.removeEntry b v
    · exact h1

theorem Keeps.freezeChain (k : rd.Keeps) (f v) :
    ∀ (bs : List BlockId) {t : State}, Keeps s t → Keeps s (State.freezeChain rd f v bs t)
  | [], _, h => h
  | b :: bs, _, h => Keeps.freezeChain k f v bs ((Keeps.freeze k h b _).notifyIntegrity _ _ _ _)

theorem Keeps.rebuildHolds (k : rd.Keeps) (h : Keeps s t) (f v found) : Keeps s (t.rebuildHolds rd f v found) := by
  unfold State.rebuildHolds; split
  · exact h
  · split
    · exact h.updVehicle v _
    · exact Keeps.freezeChain k f v _ h

theorem Keeps.rebuildOrder (h : Keeps s t) (v) : Keeps s (t.rebuildOrder v) := by
  unfold State.rebuildOrder; split
  · exact h.updVehicle v _
  · dsimp only; split
    · exact (h.updVehicle v _).suspend _
    · exact ((h.updVehicle v _).requeue _ v _).noteWithdraw v _ _

theorem Keeps.repairVehicle (k : rd.Keeps) (h : Keeps s t) (f v) : Keeps s (t.repairVehicle rd f v) := by
  unfold State.repairVehicle; split
  · exact h.setVehicle v _
  · dsimp only
    refine Keeps.noteVehicle (Keeps.rebuildOrder (Keeps.readAll k _ ?_) v) v _
    have h0 := Keeps.pass k v allBlocks (t.setVehicle v VehicleRec.lost, [], none) (h.setVehicle v _)
    generalize State.pass rd v allBlocks (t.setVehicle v VehicleRec.lost, [], none) = p at h0 ⊢
    have h1 := Keeps.rebuildHolds k h0 f v p.2.1.reverse
    split
    · exact h1.notifyOwner _ _
    · exact h1

theorem Keeps.releaseVehicleOf (k : rd.Keeps) (h : Keeps s t) (o v) : Keeps s (State.releaseVehicleOf rd o v t) := by
  unfold State.releaseVehicleOf; dsimp only; split
  · have h1 := (h.setVehicle v { t.vehicle v with order := none, offer := none }).noteWithdraw v o .integrity
    split
    · split
      · exact (Keeps.enterIdle k h1 v).noteVehicle v _
      · exact (h1.enterLoadedIdle v _).noteVehicle v _
    · exact (Keeps.enterIdle k h1 v).noteVehicle v _
    · exact (h1.enterLoadedIdle v _).noteVehicle v _
    · split
      · exact h1.updVehicle v _
      · exact h1
    · exact h1
  · exact h

theorem Keeps.releaseVehiclesOf (k : rd.Keeps) (o) :
    ∀ (vs : List VehicleId) {t : State}, Keeps s t → Keeps s (State.releaseVehiclesOf rd o vs t)
  | [], _, h => h
  | v :: vs, _, h => Keeps.releaseVehiclesOf k o vs (Keeps.releaseVehicleOf k (h.readBy k (.vehicle v)) o v)

theorem Keeps.repairOrder (k : rd.Keeps) (h : Keeps s t) (o) : Keeps s (t.repairOrder rd o) := by
  unfold State.repairOrder
  exact Keeps.releaseVehiclesOf k o allVehicles ((h.freeOrder o).notifyWhere _ _)

theorem Keeps.repair (k : rd.Keeps) (h : Keeps s t) (f r) : Keeps s (t.repair rd f r) := by
  have h1 := (h.captureError r .uncorrectable f).notifyIntegrity .record r f none
  unfold State.repair; dsimp only; split
  · exact Keeps.repairBlock k h1 _
  · exact Keeps.repairVehicle k h1 f _
  · exact Keeps.repairOrder k h1 _

theorem Keeps.readWith (k : rd.Keeps) (f r) (s : State) : Keeps s (s.readWith rd f r).1 := by
  have h := Keeps.refl s
  unfold State.readWith; split
  · split
    · exact h
    · split
      · exact h.setBlock _ _
      · exact (h.setBlock _ _).countCorrection _ f
      · exact Keeps.repair k h f (.block _)
  · split
    · exact h
    · split
      · exact h.setVehicle _ _
      · exact (h.setVehicle _ _).countCorrection _ f
      · exact Keeps.repair k h f (.vehicle _)
  · split
    · exact h
    · split
      · exact h
      · split
        · exact h.setOrder _ _
        · exact (h.setOrder _ _).countCorrection _ f
        · exact Keeps.repair k h f (.order _)

theorem readNested_keeps : ∀ n f, (readNested n f).Keeps
  | 0, _ => fun _ s => Keeps.refl s
  | n + 1, f => fun r s => Keeps.readWith (readNested_keeps n .access) f r s

theorem read_keeps : read.Keeps := readNested_keeps _ _

theorem scrubRead_keeps : scrubRead.Keeps := readNested_keeps _ _

theorem Keeps.readBlock (h : Keeps s t) (b) : Keeps s (t.readBlock b).1 := h.readBy read_keeps _
theorem Keeps.readVehicle (h : Keeps s t) (v) : Keeps s (t.readVehicle v).1 := h.readBy read_keeps _
theorem Keeps.readOrder (h : Keeps s t) (o) : Keeps s (t.readOrder o).1 := h.readBy read_keeps _

end Sys2Proof.Machine
end

