-- ==== Sys2Proof/Laws/KeepsMore.lean ====
section
/-! SUPPORT. `Keeps` for the operations of Track, of the Vehicle Roster and of the Dispatch Engine, one lemma each. -/

namespace Sys2Proof.Machine

variable {s t : State}

/-! ## Track -/

theorem Keeps.grant (h : Keeps s t) (b v) : Keeps s (t.grant b v) := (h.updBlock b _).updVehicle v _

theorem Keeps.readWaiter (h : Keeps s t) (v) : Keeps s (t.readWaiter v).1 := by
  unfold State.readWaiter; dsimp only; split
  · exact (h.readVehicle v).readOrder _
  · exact h.readVehicle v

theorem Keeps.readWaiters : ∀ (ws : List Waiter) {t : State}, Keeps s t → Keeps s (State.readWaiters ws t).1
  | [], _, h => h
  | w :: ws, _, h => Keeps.readWaiters ws (h.readWaiter w.vehicle)

theorem Keeps.award (h : Keeps s t) (b w) : Keeps s (t.award b w) :=
  (((h.removeEntry b w.vehicle).updVehicle w.vehicle _).grant b w.vehicle).notifyOwner _ _

theorem Keeps.arbitrate (h : Keeps s t) (b) : Keeps s (t.arbitrate b).1 := by
  unfold State.arbitrate; split
  · exact h
  · have h1 := h.readBlock b
    dsimp only; split
    · exact h1
    · have h2 := Keeps.readWaiters ((t.readBlock b).1.block b).waiters h1
      split
      · split
        · exact h2.award b _
        · exact h2
      · exact h2

theorem Keeps.askArbiter (h : Keeps s t) (b) : Keeps s (t.askArbiter b) := h.arbitrate b

theorem Keeps.askArbiters : ∀ (bs : List BlockId) {t : State}, Keeps s t → Keeps s (t.askArbiters bs)
  | [], _, h => h
  | b :: bs, _, h => Keeps.askArbiters bs (h.askArbiter b)

theorem Keeps.release (h : Keeps s t) (v b) : Keeps s (t.release v b).1 := by
  unfold State.release; dsimp only; split
  · dsimp only; exact h.updVehicle v _
  · exact ((h.updVehicle v _).updBlock b _).arbitrate b

theorem Keeps.releaseUntil (v) :
    ∀ (bs : List BlockId) {t : State}, Keeps s t → Keeps s (State.releaseUntil t v bs).1
  | [], _, h => h
  | b :: bs, t, h => by
    simp only [State.releaseUntil]; split
    · exact h.readBlock b
    · exact Keeps.releaseUntil v bs ((h.readBlock b).release v b)

theorem Keeps.releaseEvery (v) :
    ∀ (bs : List BlockId) {t : State}, Keeps s t → Keeps s (State.releaseEvery t v bs).1
  | [], _, h => h
  | b :: bs, _, h => Keeps.releaseEvery v bs ((h.readBlock b).release v b)

theorem Keeps.endWait (h : Keeps s t) (v) : Keeps s (t.endWait v).1 := by
  unfold State.endWait; split
  · exact h
  · dsimp only; split
    · exact h.readBlock _
    · have h1 := ((h.readBlock ‹_›).removeEntry ‹_› v).updVehicle v fun r => { r with waitingOn := none }
      exact h1

theorem Keeps.cancelWait (h : Keeps s t) (v) : Keeps s (t.cancelWait v).1 := by
  unfold State.cancelWait; dsimp only; split
  · exact (h.endWait v).notifyOwner _ _
  · exact h.endWait v

theorem Keeps.closesCycle (v) :
    ∀ (n b) {t : State}, Keeps s t → Keeps s (State.closesCycle v n b t).1
  | 0, _, _, h => h
  | n + 1, b, t, h => by
    simp only [State.closesCycle]; split
    · split
      · exact h.readBlock b
      · split
        · exact Keeps.closesCycle v n _ ((h.readBlock b).readVehicle _)
        · exact (h.readBlock b).readVehicle _
    · exact h.readBlock b

theorem Keeps.enterWait (h : Keeps s t) (v b) : Keeps s (t.enterWait v b) := by
  unfold State.enterWait
  exact ((h.writeWaiterSeq _).updBlock b _).updVehicle v _

theorem Keeps.setOwner (h : Keeps s t) (v) : Keeps s (t.setOwner v) := h.updVehicle v _

theorem Keeps.tryWait (h : Keeps s t) (v b n) : Keeps s (t.tryWait v b n).1 := by
  unfold State.tryWait; split
  · exact h
  · have h1 := Keeps.closesCycle v 130 b h
    dsimp only; split
    · exact h1
    · split
      · exact h1
      · have h2 := Keeps.readyWaiterSeq read_keeps h1
        split
        · exact h2
        · exact h2.enterWait v b

theorem Keeps.walk (v) :
    ∀ (bs n) {t : State}, Keeps s t → Keeps s (State.walk v bs n t).1
  | [], _, _, h => h
  | b :: bs, n, t, h => by
    simp only [State.walk]; split
    · exact h
    · split
      · exact h.readBlock b
      · split
        · exact Keeps.walk v bs _ ((h.readBlock b).grant b v)
        · exact (h.readBlock b).tryWait v b n

/-! ## Stalls, offers and evictions -/

theorem Keeps.readOrderOf (h : Keeps s t) (v) : Keeps s (t.readOrderOf v).1 := by
  unfold State.readOrderOf; split
  · exact h.readOrder _
  · exact h

theorem Keeps.stallOrder (h : Keeps s t) (v was) : Keeps s (t.stallOrder v was).1 := by
  unfold State.stallOrder; split
  · dsimp only; split
    · exact h.updVehicle v _
    · exact h
  · split
    · exact ((h.requeue _ v _).updVehicle v _).noteWithdraw v _ _
    · exact ((h.requeue _ v _).updVehicle v _).noteWithdraw v _ _
    · exact h.suspend _
    · exact h

theorem Keeps.stall (h : Keeps s t) (v c) : Keeps s (t.stall v c).1 :=
  ((((h.updVehicle v _).cancelWait v).readOrderOf v).stallOrder v _).noteVehicle v _

theorem Keeps.withdrawOffer (h : Keeps s t) (v o c) : Keeps s (t.withdrawOffer v o c).1 := by
  have h1 := (h.updVehicle v (·.offerOver o c)).requeue o v c
  unfold State.withdrawOffer; dsimp only
  refine Keeps.noteVehicle ?_ v _
  split
  · refine Keeps.noteWithdraw ?_ v o _
    split
    · exact h1.enterLoadedIdle v _
    · exact Keeps.enterIdle read_keeps h1 v
  · split
    · exact h1.enterLoadedIdle v _
    · exact Keeps.enterIdle read_keeps h1 v

theorem Keeps.evictOrder (h : Keeps s t) (v) : Keeps s (t.evictOrder v).1 := by
  unfold State.evictOrder; split
  · exact h
  · split
    · exact h.requeue _ v _
    · exact h.requeue _ v _
    · exact h.endOrder _ _ _

theorem Keeps.unbind (h : Keeps s t) (v) : Keeps s (t.unbind v) := by
  unfold State.unbind; split
  · exact h.updOrder _ _
  · exact h

/-! ## The Dispatch Engine -/

theorem Keeps.weigh (h : Keeps s t) (r v) : Keeps s (State.weigh r t v) := by
  unfold State.weigh; dsimp only; split
  · split
    · exact (h.readVehicle v).readBlock _
    · exact h.readVehicle v
  · exact h.readVehicle v

theorem Keeps.weighAll (r) : ∀ (vs : List VehicleId) {t : State}, Keeps s t → Keeps s (vs.foldl (State.weigh r) t)
  | [], _, h => h
  | v :: vs, _, h => Keeps.weighAll r vs (h.weigh r v)

theorem Keeps.findVehicle (h : Keeps s t) (r b) : Keeps s (t.findVehicle r b).1 := by
  unfold State.findVehicle; exact Keeps.weighAll r allVehicles h

theorem Keeps.consider (h : Keeps s t) (r) : Keeps s (t.consider r).1 := by
  unfold State.consider; split
  · split
    · next b _ _ _ => exact h.findVehicle r b
    · exact h
  · dsimp only; split
    · exact h.readVehicle _
    · exact h.readVehicle _
  · exact h

theorem Keeps.reserve? (h : Keeps s t) (o k p) : Keeps s (t.reserve? o k p) := by
  unfold State.reserve?; split
  · exact h.reserve _ o k
  · exact h

theorem Keeps.offer (h : Keeps s t) (o r v a) : Keeps s (t.offer o r v a) := by
  unfold State.offer
  exact Keeps.setTrigger (Keeps.noteVehicle (Keeps.notifyOwner (Keeps.reserve (Keeps.reserve?
    (((h.leaveQueue o).setOrder o _).updVehicle v _) o .pick r.source) _ _ _) _ _) v _)

theorem Keeps.scan : ∀ (os : List Slot) {t : State}, Keeps s t → Keeps s (State.scan os t)
  | [], _, h => h
  | o :: os, t, h => by
    simp only [State.scan]; split
    · next r _ _ =>
      have h1 := (h.readOrder o).consider r
      revert h1
      split
      · next he => intro h1; rw [he] at h1; exact h1.offer o r _ _
      · next he => intro h1; rw [he] at h1; exact Keeps.scan os h1
    · exact Keeps.scan os (h.readOrder o)

end Sys2Proof.Machine
end

