-- ==== Sys2Proof/Laws/Reads.lean ====
section
/-! SUPPORT. A checked read of a record whose check word agrees finds nothing and changes nothing (R132), one record and
lists of them. -/

namespace Sys2Proof.Machine

theorem read_step (r : RecRef) (s : State) : read r s = State.readWith (readNested 1408 .access) .access r s := rfl

theorem scrubRead_step (r : RecRef) (s : State) :
    scrubRead r s = State.readWith (readNested 1408 .access) .scrub r s := rfl

/-- R132: the check word of a record agrees. -/
def State.cleanAt (s : State) : RecRef → Bool
  | .block b => (s.block b).flips.isEmpty
  | .vehicle v => (s.vehicle v).flips.isEmpty
  | .order o => (s.order o).all fun r => r.flips.isEmpty

theorem readWith_clean (rd : Reader) (f : Finder) (r : RecRef) (s : State) (h : s.cleanAt r = true) :
    State.readWith rd f r s = (s, false) := by
  cases r <;> simp only [State.cleanAt, List.isEmpty_iff] at h
  · simp [State.readWith, h]
  · simp [State.readWith, h]
  · next o =>
    cases e : s.order o with
    | none => simp [State.readWith, e]
    | some x => rw [e] at h; simp at h; simp [State.readWith, e, h]

theorem read_clean (r : RecRef) (s : State) (h : s.cleanAt r = true) : read r s = (s, false) := by
  rw [read_step]; exact readWith_clean _ _ _ _ h

theorem scrubRead_clean (r : RecRef) (s : State) (h : s.cleanAt r = true) : scrubRead r s = (s, false) := by
  rw [scrubRead_step]; exact readWith_clean _ _ _ _ h

theorem readBlock_clean {s : State} {b : BlockId} (h : (s.block b).flips = []) : s.readBlock b = (s, false) :=
  read_clean _ _ (by simp [State.cleanAt, h])

theorem readVehicle_clean {s : State} {v : VehicleId} (h : (s.vehicle v).flips = []) : s.readVehicle v = (s, false) :=
  read_clean _ _ (by simp [State.cleanAt, h])

theorem readOrder_clean {s : State} {o : Slot} {r : OrderRec} (e : s.order o = some r) (h : r.flips = []) :
    s.readOrder o = (s, false) :=
  read_clean _ _ (by simp [State.cleanAt, e, h])

theorem readOrder_free {s : State} {o : Slot} (e : s.order o = none) : s.readOrder o = (s, false) :=
  read_clean _ _ (by simp [State.cleanAt, e])

/-- R132, R134: two flipped bits are found uncorrectable. -/
theorem readBlock_damaged {s : State} {b : BlockId} (h : (s.block b).flips.length = 2) : (s.readBlock b).2 = true := by
  have e : (s.block b).flips ≠ [] := fun x => by simp [x] at h
  simp [State.readBlock, read_step, State.readWith, e, checkBlock, h]

theorem readVehicle_damaged {s : State} {v : VehicleId} (h : (s.vehicle v).flips.length = 2) :
    (s.readVehicle v).2 = true := by
  have e : (s.vehicle v).flips ≠ [] := fun x => by simp [x] at h
  simp [State.readVehicle, read_step, State.readWith, e, checkVehicle, h]

theorem readOrder_damaged {s : State} {o : Slot} {r : OrderRec} (x : s.order o = some r) (h : r.flips.length = 2) :
    (s.readOrder o).2 = true := by
  have e : r.flips ≠ [] := fun y => by simp [y] at h
  simp [State.readOrder, read_step, State.readWith, x, e, checkOrder, h]

theorem readAll_clean (s : State) : ∀ rs : List RecRef, (∀ r ∈ rs, s.cleanAt r = true) →
    readAll read rs s = (s, false)
  | [], _ => rfl
  | r :: rs, h => by
    have h1 := read_clean r s (h r (by simp))
    have h2 := readAll_clean s rs fun x hx => h x (by simp [hx])
    simp [readAll, h1, h2]

theorem readUntilBad_clean (s : State) : ∀ rs : List RecRef, (∀ r ∈ rs, s.cleanAt r = true) →
    readUntilBad read rs s = (s, false)
  | [], _ => rfl
  | r :: rs, h => by
    have h1 := read_clean r s (h r (by simp))
    have h2 := readUntilBad_clean s rs fun x hx => h x (by simp [hx])
    simp [readUntilBad, h1, h2]

/-! ## From a state with no damaged record -/

theorem clean_block {s : State} (h : s.clean = true) (b : BlockId) : (s.block b).flips = [] := by
  simp only [State.clean, Bool.and_eq_true, Vector.all_eq_true] at h
  simpa [State.block] using h.1.1 b.val b.isLt

theorem clean_vehicle {s : State} (h : s.clean = true) (v : VehicleId) : (s.vehicle v).flips = [] := by
  simp only [State.clean, Bool.and_eq_true, Vector.all_eq_true] at h
  simpa [State.vehicle] using h.1.2 v.val v.isLt

theorem clean_order {s : State} (h : s.clean = true) {o : Slot} {r : OrderRec} (e : s.order o = some r) :
    r.flips = [] := by
  simp only [State.clean, Bool.and_eq_true, Vector.all_eq_true] at h
  have := h.2 o.val o.isLt
  have e' : s.orders[o.val] = some r := e
  rw [e'] at this
  simpa using this

theorem clean_cleanAt {s : State} (h : s.clean = true) (r : RecRef) : s.cleanAt r = true := by
  cases r with
  | block b => simp [State.cleanAt, clean_block h]
  | vehicle v => simp [State.cleanAt, clean_vehicle h]
  | order o =>
    cases e : s.order o with
    | none => simp [State.cleanAt, e]
    | some x => simp [State.cleanAt, e, clean_order h e]

theorem clean_of {s : State} (hb : ∀ b, (s.block b).flips = []) (hv : ∀ v, (s.vehicle v).flips = [])
    (ho : ∀ o r, s.order o = some r → r.flips = []) : s.clean = true := by
  simp only [State.clean, Bool.and_eq_true, Vector.all_eq_true]
  refine ⟨⟨fun i h => ?_, fun i h => ?_⟩, fun i h => ?_⟩
  · simpa [State.block] using hb ⟨i, h⟩
  · simpa [State.vehicle] using hv ⟨i, h⟩
  · cases e : s.orders[i] with
    | none => rfl
    | some r => simp [ho ⟨i, h⟩ r e]

/-- A state whose records are those of a clean state is clean. -/
theorem clean_congr {s t : State} (h : s.clean = true) (hb : t.blocks = s.blocks) (hv : t.vehicles = s.vehicles)
    (ho : t.orders = s.orders) : t.clean = true := by
  simpa [State.clean, hb, hv, ho] using h

theorem clean_setBlock {s : State} (h : s.clean = true) (b : BlockId) {r : BlockRec} (hr : r.flips = []) :
    (s.setBlock b r).clean = true := by
  refine clean_of (fun x => ?_) (fun v => by simpa using clean_vehicle h v) (fun o y e => clean_order h (by simpa using e))
  rw [setBlock_read]; split
  · exact hr
  · exact clean_block h x

theorem clean_setVehicle {s : State} (h : s.clean = true) (v : VehicleId) {r : VehicleRec} (hr : r.flips = []) :
    (s.setVehicle v r).clean = true := by
  refine clean_of (fun b => by simpa using clean_block h b) (fun x => ?_) (fun o y e => clean_order h (by simpa using e))
  rw [setVehicle_read]; split
  · exact hr
  · exact clean_vehicle h x

theorem clean_setOrder {s : State} (h : s.clean = true) (o : Slot) {x : Option OrderRec}
    (hr : ∀ r, x = some r → r.flips = []) : (s.setOrder o x).clean = true := by
  refine clean_of (fun b => by simpa using clean_block h b) (fun v => by simpa using clean_vehicle h v) (fun y r e => ?_)
  rw [setOrder_read] at e; split at e
  · exact hr r e
  · exact clean_order h e

end Sys2Proof.Machine
end

