-- ==== Sys2Proof/Laws/Request.lean ====
section
/-! SUPPORT. What a request does, said once: which one is taken (R161, R166), and what stands in the request slot after it. -/

namespace Sys2Proof.Machine

theorem permits_disabled (kind : ReqKind) : ReqKind.permits kind .disabled = false := by cases kind <;> rfl

theorem role_of_permits {kind : ReqKind} {r : Role} (h : ReqKind.permits kind r = true) : r ≠ .disabled := by
  intro e; rw [e, permits_disabled] at h; exact Bool.noConfusion h

@[simp] theorem receiverToHunt_role (s : State) (l l') : ((s.receiverToHunt l).link l').role = (s.link l').role := by
  simp only [State.receiverToHunt, State.updLink, setLink_read]; split
  · next e => subst e; rfl
  · rfl
@[simp] theorem receiverToHunt_slot (s : State) (l l') : ((s.receiverToHunt l).link l').slot = (s.link l').slot := by
  simp only [State.receiverToHunt, State.updLink, setLink_read]; split
  · next e => subst e; rfl
  · rfl

/-- A request that is taken: its own checks and effect, then the reply, then the transmitters. -/
theorem request_taken {s : State} {h : Hdr} {kind : ReqKind} (ht : s.takes h kind) (body : State → State × Answer) :
    s.request h kind body =
      .next (((body (s.receiverToHunt h.link)).1.placeReply h.link (kind.code + 0x80) h.tag
        (body (s.receiverToHunt h.link)).2).endEvent) := by
  obtain ⟨hp, hm, hf, hs⟩ := ht
  have hr := role_of_permits hp
  simp [State.request, State.takeFrame, State.carryOut, hr, hp, hm, hf, hs]

/-- A frame of a known link with an empty slot that the checks of stages 1 to 3 turn away. -/
theorem request_refused {s : State} {h : Hdr} {kind : ReqKind} (hr : (s.link h.link).role ≠ .disabled)
    (hs : (s.link h.link).slot = none) (code : ResultCode) (body : State → State × Answer)
    (hc : ∀ t : State, (t.link h.link).role = (s.link h.link).role → t.mode = s.mode →
      t.carryOut h kind body = (t, .plain code)) :
    s.request h kind body =
      .next (((s.receiverToHunt h.link).placeReply h.link (kind.code + 0x80) h.tag (.plain code)).endEvent) := by
  have e := hc (s.receiverToHunt h.link) (by simp) (by simp)
  simp [State.request, State.takeFrame, hr, hs, e]

/-- Hunting first and answering is answering: what `State.answered` writes. -/
theorem receiverToHunt_answered (t : State) (h : Hdr) (kind : ReqKind) (a : Answer) :
    ((t.receiverToHunt h.link).placeReply h.link (kind.code + 0x80) h.tag a).endEvent
      = t.answered h kind a.code a.fields := by
  simp [State.placeReply, State.receiverToHunt, State.endEvent, State.answered, State.updLink, State.setLink,
    State.link, Link.replied]

/-- The answer of a request that is taken, when its body works on a state whose receiver hunts. -/
theorem request_answered {s : State} {h : Hdr} {kind : ReqKind} (ht : s.takes h kind) (body : State → State × Answer)
    (t : State) (a : Answer) (hb : body (s.receiverToHunt h.link) = (t.receiverToHunt h.link, a)) :
    s.request h kind body = .next (t.answered h kind a.code a.fields) := by
  rw [request_taken ht, hb, receiverToHunt_answered]

end Sys2Proof.Machine
end

