-- ==== Sys2Proof/Laws/Hunts.lean ====
section
/-! SUPPORT. What a request does to the tables does not look at its link's receiver (R157): every shared operation gives the
same on a state whose receiver has been put in HUNT, with that receiver in HUNT. With `request_answered` this makes the next
state of a request the answer on the tables as they were; `read_hunt` is the case of a checked read and its repair. -/

namespace Sys2Proof.Machine

variable (s : State) (l : LinkId)

/-! ## Links -/

theorem updLink_updLink_comm (m : LinkId) (f g : Link → Link) (h : ∀ k, f (g k) = g (f k)) :
    (s.updLink l g).updLink m f = (s.updLink m f).updLink l g := by
  simp only [State.updLink, State.setLink, State.link]
  congr 1
  by_cases e : l.val = m.val
  · have : l = m := Fin.ext e
    subst this; simp [h]
  · simp [Vector.getElem_set_ne, e, Ne.symm e, Vector.set_comm _ _ e]

theorem mapLinks_updLink (f g : Link → Link) (h : ∀ k, f (g k) = g (f k)) :
    { s.updLink l g with links := (s.updLink l g).links.map f } = { s with links := s.links.map f }.updLink l g := by
  simp only [State.updLink, State.setLink, State.link]
  congr 1
  ext i hi
  by_cases e : l.val = i
  · subst e; simp [h]
  · simp [Vector.getElem_set_ne, e]

theorem enqueue_hunt (n : Notice) (k : Link) :
    Link.enqueue n { k with rx := .hunt, gapTimer := false } = { Link.enqueue n k with rx := .hunt, gapTimer := false } := by
  unfold Link.enqueue; split
  · rfl
  · split <;> rfl

theorem attend_hunt (c : Cause) (k : Link) :
    Link.attend c { k with rx := .hunt, gapTimer := false } = { Link.attend c k with rx := .hunt, gapTimer := false } := by
  unfold Link.attend; split <;> rfl

theorem notify_hunt (m n) : (s.receiverToHunt l).notify m n = (s.notify m n).receiverToHunt l :=
  updLink_updLink_comm _ _ _ _ _ (enqueue_hunt n)

theorem notifyOwner_hunt (o n) : (s.receiverToHunt l).notifyOwner o n = (s.notifyOwner o n).receiverToHunt l := by
  cases o with
  | none => rfl
  | some m => exact notify_hunt s l m n

/-- The links told are chosen by a test that does not look at the receiver. -/
theorem notifyWhere_hunt (p : Link → Bool) (hp : ∀ k : Link, p { k with rx := .hunt, gapTimer := false } = p k) (n) :
    (s.receiverToHunt l).notifyWhere p n = (s.notifyWhere p n).receiverToHunt l := by
  refine mapLinks_updLink s l (fun k => if p k then k.enqueue n else k) _ fun k => ?_
  simp only [hp]; split
  · exact enqueue_hunt n k
  · rfl

theorem notifyIntegrity_hunt (c r f v) :
    (s.receiverToHunt l).notifyIntegrity c r f v = (s.notifyIntegrity c r f v).receiverToHunt l := by
  refine mapLinks_updLink s l
    (fun k => if k.role = .service then (k.enqueue (.integrity c r f v s.fabClock)).attend .integrity else k) _ fun k => ?_
  dsimp only; split
  · rw [enqueue_hunt, attend_hunt]
  · rfl

theorem noteVehicle_hunt (v was) : (s.receiverToHunt l).noteVehicle v was = (s.noteVehicle v was).receiverToHunt l :=
  notifyWhere_hunt s l _ (fun _ => rfl) _

theorem noteOrder_hunt (o r k c) : (s.receiverToHunt l).noteOrder o r k c = (s.noteOrder o r k c).receiverToHunt l :=
  notify_hunt s l _ _

theorem noteWithdraw_hunt (v o c) : (s.receiverToHunt l).noteWithdraw v o c = (s.noteWithdraw v o c).receiverToHunt l :=
  notifyOwner_hunt s l _ _

/-! ## Tables -/

theorem setBlock_hunt (b r) : (s.receiverToHunt l).setBlock b r = (s.setBlock b r).receiverToHunt l := rfl
theorem updBlock_hunt (b f) : (s.receiverToHunt l).updBlock b f = (s.updBlock b f).receiverToHunt l := rfl
theorem setVehicle_hunt (v r) : (s.receiverToHunt l).setVehicle v r = (s.setVehicle v r).receiverToHunt l := rfl
theorem updVehicle_hunt (v f) : (s.receiverToHunt l).updVehicle v f = (s.updVehicle v f).receiverToHunt l := rfl
theorem setOrder_hunt (o r) : (s.receiverToHunt l).setOrder o r = (s.setOrder o r).receiverToHunt l := rfl
theorem setTrigger_hunt : (s.receiverToHunt l).setTrigger = s.setTrigger.receiverToHunt l := rfl
theorem leaveQueue_hunt (o) : (s.receiverToHunt l).leaveQueue o = (s.leaveQueue o).receiverToHunt l := rfl
theorem releaseAllPorts_hunt (o) : (s.receiverToHunt l).releaseAllPorts o = (s.releaseAllPorts o).receiverToHunt l := rfl
theorem freeOrder_hunt (o) : (s.receiverToHunt l).freeOrder o = (s.freeOrder o).receiverToHunt l := rfl
theorem removeEntry_hunt (b v) : (s.receiverToHunt l).removeEntry b v = (s.removeEntry b v).receiverToHunt l := rfl
theorem grant_hunt (b v) : (s.receiverToHunt l).grant b v = (s.grant b v).receiverToHunt l := rfl
theorem enterLoadedIdle_hunt (v c) : (s.receiverToHunt l).enterLoadedIdle v c = (s.enterLoadedIdle v c).receiverToHunt l := rfl

theorem enterQueue_hunt (o) : (s.receiverToHunt l).enterQueue o = (s.enterQueue o).receiverToHunt l := by
  unfold State.enterQueue; rw [receiverToHunt_at_order]; cases s.order o <;> rfl

theorem releasePort_hunt (o p) : (s.receiverToHunt l).releasePort o p = (s.releasePort o p).receiverToHunt l := by
  unfold State.releasePort; rw [receiverToHunt_at_port]; split
  · split
    · dsimp only; split <;> rfl
    · rfl
  · rfl

theorem releasePort?_hunt (o p) : (s.receiverToHunt l).releasePort? o p = (s.releasePort? o p).receiverToHunt l := by
  cases p with
  | none => rfl
  | some p => exact releasePort_hunt s l o p

theorem promote_hunt (o) : (s.receiverToHunt l).promote o = (s.promote o).receiverToHunt l := by
  unfold State.promote; rw [receiverToHunt_at_order]; split
  · rfl
  · simp only [leaveQueue_hunt, setOrder_hunt, enterQueue_hunt, noteOrder_hunt, setTrigger_hunt, receiverToHunt_msBase]

theorem requeue_hunt (o v c) : (s.receiverToHunt l).requeue o v c = (s.requeue o v c).receiverToHunt l := by
  unfold State.requeue; rw [receiverToHunt_at_order]; split
  · rfl
  · simp only [releasePort?_hunt, releasePort_hunt, setOrder_hunt, enterQueue_hunt, noteOrder_hunt, setTrigger_hunt]
    split
    · rw [if_pos (by assumption), promote_hunt]
    · rw [if_neg (by assumption)]

theorem suspend_hunt (o) : (s.receiverToHunt l).suspend o = (s.suspend o).receiverToHunt l := by
  unfold State.suspend; rw [receiverToHunt_at_order]; split
  · rfl
  · simp only [setOrder_hunt, noteOrder_hunt]

theorem captureError_hunt (r k f) : (s.receiverToHunt l).captureError r k f = (s.captureError r k f).receiverToHunt l := by
  unfold State.captureError; rw [receiverToHunt_capture]; split <;> rfl

theorem countCorrection_hunt (r f) : (s.receiverToHunt l).countCorrection r f = (s.countCorrection r f).receiverToHunt l :=
  captureError_hunt { s with corrections := min 255 (s.corrections + 1) } l r .corrected f

/-! ## Readers -/

/-- A reader that does not look at the receiver of the link. -/
def Reader.Hunts (rd : Reader) (l : LinkId) : Prop :=
  ∀ r s, rd r (s.receiverToHunt l) = ((rd r s).1.receiverToHunt l, (rd r s).2)

variable {s l} {rd : Reader}

theorem readAll_hunt (k : rd.Hunts l) : ∀ (rs : List RecRef) (s : State),
    readAll rd rs (s.receiverToHunt l) = ((readAll rd rs s).1.receiverToHunt l, (readAll rd rs s).2)
  | [], _ => rfl
  | r :: rs, s => by simp only [readAll, k r s, readAll_hunt k rs]

theorem readUntilBad_hunt (k : rd.Hunts l) : ∀ (rs : List RecRef) (s : State),
    readUntilBad rd rs (s.receiverToHunt l) = ((readUntilBad rd rs s).1.receiverToHunt l, (readUntilBad rd rs s).2)
  | [], _ => rfl
  | r :: rs, s => by
    simp only [readUntilBad, k r s]; split
    · rfl
    · exact readUntilBad_hunt k rs _

theorem renumberIdle_hunt (k : rd.Hunts l) (s : State) :
    (s.receiverToHunt l).renumberIdle rd = ((s.renumberIdle rd).1.receiverToHunt l, (s.renumberIdle rd).2) := by
  simp only [State.renumberIdle, readAll_hunt k]; rfl

theorem nextIdleSeq_hunt (k : rd.Hunts l) (s : State) : (s.receiverToHunt l).nextIdleSeq rd =
    ((s.nextIdleSeq rd).1.receiverToHunt l, (s.nextIdleSeq rd).2.1, (s.nextIdleSeq rd).2.2) := by
  simp only [State.nextIdleSeq, receiverToHunt_idleSeq, renumberIdle_hunt k]; split <;> rfl

theorem enterIdle_hunt (k : rd.Hunts l) (s : State) (v) :
    (s.receiverToHunt l).enterIdle rd v = ((s.enterIdle rd v).1.receiverToHunt l, (s.enterIdle rd v).2) := by
  unfold State.enterIdle; rw [receiverToHunt_at_vehicle, nextIdleSeq_hunt k]
  cases (s.vehicle v).drain <;> rfl

/-! ## Repairs -/

theorem dropWaitAt_hunt (s : State) (b v) :
    (s.receiverToHunt l).dropWaitAt b v = (s.dropWaitAt b v).receiverToHunt l := by
  unfold State.dropWaitAt; rw [receiverToHunt_at_vehicle]; dsimp only
  by_cases h : (s.vehicle v).waitingOn = some b
  · rw [if_pos h, if_pos h, setVehicle_hunt, notifyOwner_hunt]
  · rw [if_neg h, if_neg h]

theorem dropWaits_hunt (k : rd.Hunts l) (b) : ∀ (vs : List VehicleId) (s : State),
    State.dropWaits rd b vs (s.receiverToHunt l) = (State.dropWaits rd b vs s).receiverToHunt l
  | [], _ => rfl
  | v :: vs, s => by simp only [State.dropWaits, k (.vehicle v) s, dropWaitAt_hunt, dropWaits_hunt k b vs]

theorem freeze_hunt (k : rd.Hunts l) (s : State) (b vs) :
    (s.receiverToHunt l).freeze rd b vs = (s.freeze rd b vs).receiverToHunt l := by
  unfold State.freeze; rw [updBlock_hunt]; exact dropWaits_hunt k b vs _

theorem repairBlock_hunt (k : rd.Hunts l) (s : State) (b) :
    (s.receiverToHunt l).repairBlock rd b = (s.repairBlock rd b).receiverToHunt l := by
  unfold State.repairBlock; rw [updBlock_hunt, freeze_hunt k]; rfl

theorem passBlock_hunt (k : rd.Hunts l) (v b) (acc : State × List BlockId × Option BlockId) :
    State.passBlock rd v b (acc.1.receiverToHunt l, acc.2) =
      ((State.passBlock rd v b acc).1.receiverToHunt l, (State.passBlock rd v b acc).2) := by
  simp only [State.passBlock, k (.block b) acc.1, receiverToHunt_at_block]; split <;> rfl

theorem pass_hunt (k : rd.Hunts l) (v) : ∀ (bs : List BlockId) (acc : State × List BlockId × Option BlockId),
    State.pass rd v bs (acc.1.receiverToHunt l, acc.2) =
      ((State.pass rd v bs acc).1.receiverToHunt l, (State.pass rd v bs acc).2)
  | [], _ => rfl
  | b :: bs, acc => by simp only [State.pass, passBlock_hunt k, pass_hunt k v bs]

theorem freezeChain_hunt (k : rd.Hunts l) (f v) : ∀ (bs : List BlockId) (s : State),
    State.freezeChain rd f v bs (s.receiverToHunt l) = (State.freezeChain rd f v bs s).receiverToHunt l
  | [], _ => rfl
  | b :: bs, s => by
    simp only [State.freezeChain, receiverToHunt_at_block, freeze_hunt k, notifyIntegrity_hunt, freezeChain_hunt k f v bs]

theorem rebuildHolds_hunt (k : rd.Hunts l) (s : State) (f v found) :
    (s.receiverToHunt l).rebuildHolds rd f v found = (s.rebuildHolds rd f v found).receiverToHunt l := by
  unfold State.rebuildHolds
  cases found with
  | nil => rfl
  | cons b bs =>
    dsimp only [receiverToHunt_at_static]
    split
    · rfl
    · exact freezeChain_hunt k f v _ s

theorem rebuildOrder_hunt (s : State) (v) : (s.receiverToHunt l).rebuildOrder v = (s.rebuildOrder v).receiverToHunt l := by
  unfold State.rebuildOrder
  have e : (s.receiverToHunt l).orderOf v = s.orderOf v := rfl
  rw [e]; cases s.orderOf v with
  | none => rfl
  | some o =>
    dsimp only
    rw [receiverToHunt_at_order]; split
    · rw [← suspend_hunt]; rfl
    · rw [← noteWithdraw_hunt, ← requeue_hunt]; rfl

theorem repairVehicle_hunt (k : rd.Hunts l) (s : State) (f v) :
    (s.receiverToHunt l).repairVehicle rd f v = (s.repairVehicle rd f v).receiverToHunt l := by
  unfold State.repairVehicle; rw [receiverToHunt_mode]; split
  · rfl
  · have e := pass_hunt k v allBlocks (s.setVehicle v .lost, [], none)
    simp only [setVehicle_hunt, e, rebuildHolds_hunt k]
    generalize State.pass rd v allBlocks (s.setVehicle v .lost, [], none) = p
    cases p.2.2 with
    | none =>
      simp only [readAll_hunt k, rebuildOrder_hunt, noteVehicle_hunt, State.orderRefs, State.liveSlots,
        receiverToHunt_at_order]
    | some b =>
      simp only [receiverToHunt_at_vehicle, notifyOwner_hunt, readAll_hunt k, rebuildOrder_hunt, noteVehicle_hunt,
        State.orderRefs, State.liveSlots, receiverToHunt_at_order]

theorem releaseVehicleOf_hunt (k : rd.Hunts l) (o v) (s : State) :
    State.releaseVehicleOf rd o v (s.receiverToHunt l) = (State.releaseVehicleOf rd o v s).receiverToHunt l := by
  simp only [State.releaseVehicleOf, receiverToHunt_at_vehicle, setVehicle_hunt, noteWithdraw_hunt, enterIdle_hunt k,
    enterLoadedIdle_hunt, noteVehicle_hunt, updVehicle_hunt]
  split
  · split
    · split <;> simp only [noteVehicle_hunt]
    · rfl
    · rfl
    · split <;> rfl
    · rfl
  · rfl

theorem releaseVehiclesOf_hunt (k : rd.Hunts l) (o) : ∀ (vs : List VehicleId) (s : State),
    State.releaseVehiclesOf rd o vs (s.receiverToHunt l) = (State.releaseVehiclesOf rd o vs s).receiverToHunt l
  | [], _ => rfl
  | v :: vs, s => by
    simp only [State.releaseVehiclesOf, k (.vehicle v) s, releaseVehicleOf_hunt k, releaseVehiclesOf_hunt k o vs]

theorem repairOrder_hunt (k : rd.Hunts l) (s : State) (o) :
    (s.receiverToHunt l).repairOrder rd o = (s.repairOrder rd o).receiverToHunt l := by
  unfold State.repairOrder
  have e (t : State) (n) : (t.receiverToHunt l).notifyWhere (·.role = .scheduler) n =
      (t.notifyWhere (·.role = .scheduler) n).receiverToHunt l := notifyWhere_hunt t l _ (fun _ => rfl) n
  simp only [freeOrder_hunt, receiverToHunt_fabClock, e, releaseVehiclesOf_hunt k]

theorem repair_hunt (k : rd.Hunts l) (s : State) (f r) :
    (s.receiverToHunt l).repair rd f r = (s.repair rd f r).receiverToHunt l := by
  unfold State.repair
  simp only [captureError_hunt, notifyIntegrity_hunt]
  cases r
  · exact repairBlock_hunt k _ _
  · exact repairVehicle_hunt k _ _ _
  · exact repairOrder_hunt k _ _

theorem readWith_hunt (k : rd.Hunts l) (f r) (s : State) : State.readWith rd f r (s.receiverToHunt l) =
    ((State.readWith rd f r s).1.receiverToHunt l, (State.readWith rd f r s).2) := by
  cases r with
  | block b =>
    simp only [State.readWith, receiverToHunt_at_block]
    by_cases h : (s.block b).flips = []
    · simp only [h, ↓reduceIte]
    · simp only [h, ↓reduceIte]
      cases checkBlock (s.block b) <;> simp only [setBlock_hunt, countCorrection_hunt, repair_hunt k]
  | vehicle v =>
    simp only [State.readWith, receiverToHunt_at_vehicle]
    by_cases h : (s.vehicle v).flips = []
    · simp only [h, ↓reduceIte]
    · simp only [h, ↓reduceIte]
      cases checkVehicle (s.vehicle v) <;> simp only [setVehicle_hunt, countCorrection_hunt, repair_hunt k]
  | order o =>
    simp only [State.readWith, receiverToHunt_at_order]
    cases s.order o with
    | none => rfl
    | some x =>
      dsimp only
      by_cases h : x.flips = []
      · simp only [h, ↓reduceIte]
      · simp only [h, ↓reduceIte]
        cases checkOrder x <;> simp only [setOrder_hunt, countCorrection_hunt, repair_hunt k]

theorem readNested_hunt : ∀ n f, (readNested n f).Hunts l
  | 0, _ => fun _ _ => rfl
  | n + 1, f => fun r s => readWith_hunt (readNested_hunt n .access) f r s

/-- A checked read, its repair and the cascade of it, with the receiver in HUNT. -/
theorem read_hunt (r : RecRef) (s : State) (l : LinkId) :
    read r (s.receiverToHunt l) = ((read r s).1.receiverToHunt l, (read r s).2) := readNested_hunt _ _ r s

theorem read_hunts : read.Hunts l := fun r s => read_hunt r s l

theorem readBlock_hunt (s : State) (b) :
    (s.receiverToHunt l).readBlock b = ((s.readBlock b).1.receiverToHunt l, (s.readBlock b).2) := read_hunt _ _ _
theorem readVehicle_hunt (s : State) (v) :
    (s.receiverToHunt l).readVehicle v = ((s.readVehicle v).1.receiverToHunt l, (s.readVehicle v).2) := read_hunt _ _ _
theorem readOrder_hunt (s : State) (o) :
    (s.receiverToHunt l).readOrder o = ((s.readOrder o).1.receiverToHunt l, (s.readOrder o).2) := read_hunt _ _ _

/-- The answer of a request whose body, on a state whose receiver hunts, ends at a damaged record. -/
theorem request_damaged {h : Hdr} {kind : ReqKind} (ht : s.takes h kind) (body : State → State × Answer) (r : RecRef)
    (fields : State → List Byte)
    (hb : body (s.receiverToHunt h.link) =
      ((read r s).1.receiverToHunt h.link, ⟨.integrity, fields (read r s).1⟩)) :
    s.request h kind body = .next (s.answeredDamaged h kind r fields) :=
  request_answered ht body _ _ hb

/-! ## Arbiters and releases -/

theorem readWaiter_hunt (s : State) (v) :
    (s.receiverToHunt l).readWaiter v = ((s.readWaiter v).1.receiverToHunt l, (s.readWaiter v).2) := by
  unfold State.readWaiter; rw [readVehicle_hunt]; dsimp only
  rw [receiverToHunt_at_vehicle]
  cases ((s.readVehicle v).1.vehicle v).order with
  | none => rfl
  | some o => dsimp only; rw [readOrder_hunt]

theorem readWaiters_hunt : ∀ (ws : List Waiter) (s : State),
    State.readWaiters ws (s.receiverToHunt l) = ((State.readWaiters ws s).1.receiverToHunt l, (State.readWaiters ws s).2)
  | [], _ => rfl
  | w :: ws, s => by simp only [State.readWaiters, readWaiter_hunt, readWaiters_hunt ws]

theorem award_hunt (s : State) (b w) : (s.receiverToHunt l).award b w = (s.award b w).receiverToHunt l := by
  have e : (s.receiverToHunt l).bid w = s.bid w := rfl
  simp only [State.award, e, removeEntry_hunt, updVehicle_hunt, grant_hunt, receiverToHunt_at_vehicle, notifyOwner_hunt]

theorem arbitrate_hunt (s : State) (b) :
    (s.receiverToHunt l).arbitrate b = ((s.arbitrate b).1.receiverToHunt l, (s.arbitrate b).2) := by
  have e (t : State) (ws) : (t.receiverToHunt l).winner ws = t.winner ws := rfl
  have g : (s.receiverToHunt l).fenced b = s.fenced b := rfl
  unfold State.arbitrate; rw [receiverToHunt_mode, g]
  split
  · rfl
  · rw [readBlock_hunt]; dsimp only; rw [receiverToHunt_at_block]
    split
    · rfl
    · rw [readWaiters_hunt]; dsimp only; rw [receiverToHunt_at_block, e]
      split
      · split
        · rw [award_hunt]
        · rfl
      · rfl

theorem askArbiter_hunt (s : State) (b) : (s.receiverToHunt l).askArbiter b = (s.askArbiter b).receiverToHunt l :=
  congrArg Prod.fst (arbitrate_hunt s b)

theorem askArbiters_hunt : ∀ (bs : List BlockId) (s : State),
    (s.receiverToHunt l).askArbiters bs = (s.askArbiters bs).receiverToHunt l
  | [], _ => rfl
  | b :: bs, s => by
    have ih := askArbiters_hunt bs (s.askArbiter b)
    simp only [State.askArbiters, List.foldl_cons, askArbiter_hunt] at ih ⊢
    exact ih

theorem release_hunt (s : State) (v b) :
    (s.receiverToHunt l).release v b = ((s.release v b).1.receiverToHunt l, (s.release v b).2) := by
  simp only [State.release, receiverToHunt_at_block, updVehicle_hunt, updBlock_hunt, arbitrate_hunt]
  cases (s.block b).frozen <;> rfl

theorem releaseUntil_hunt (v) : ∀ (bs : List BlockId) (s : State), State.releaseUntil (s.receiverToHunt l) v bs =
    ((State.releaseUntil s v bs).1.receiverToHunt l, (State.releaseUntil s v bs).2)
  | [], _ => rfl
  | b :: bs, s => by
    unfold State.releaseUntil; rw [readBlock_hunt]
    cases h : (s.readBlock b).2
    · simp only [h, Bool.false_eq_true, ↓reduceIte, release_hunt, releaseUntil_hunt v bs]
    · simp only [h, ↓reduceIte]

theorem releaseEvery_hunt (v) : ∀ (bs : List BlockId) (s : State), State.releaseEvery (s.receiverToHunt l) v bs =
    ((State.releaseEvery s v bs).1.receiverToHunt l, (State.releaseEvery s v bs).2)
  | [], _ => rfl
  | b :: bs, s => by simp only [State.releaseEvery, readBlock_hunt, release_hunt, releaseEvery_hunt v bs]

theorem endWait_hunt (s : State) (v) :
    (s.receiverToHunt l).endWait v = ((s.endWait v).1.receiverToHunt l, (s.endWait v).2) := by
  unfold State.endWait; rw [receiverToHunt_at_vehicle]
  cases (s.vehicle v).waitingOn with
  | none => rfl
  | some b =>
    dsimp only; rw [readBlock_hunt]
    cases (s.readBlock b).2 <;> rfl

theorem cancelWait_hunt (s : State) (v) :
    (s.receiverToHunt l).cancelWait v = ((s.cancelWait v).1.receiverToHunt l, (s.cancelWait v).2) := by
  unfold State.cancelWait; rw [endWait_hunt]; dsimp only
  cases (s.endWait v).2.removed with
  | none => rfl
  | some b => dsimp only; rw [receiverToHunt_at_vehicle, notifyOwner_hunt]

/-! ## Stalls and withdrawals -/

theorem readOrderOf_hunt (s : State) (v) :
    (s.receiverToHunt l).readOrderOf v = ((s.readOrderOf v).1.receiverToHunt l, (s.readOrderOf v).2) := by
  unfold State.readOrderOf; rw [receiverToHunt_at_vehicle]
  cases (s.vehicle v).order with
  | none => rfl
  | some o => exact readOrder_hunt s o

theorem stallOrder_hunt (s : State) (v was) :
    (s.receiverToHunt l).stallOrder v was = ((s.stallOrder v was).1.receiverToHunt l, (s.stallOrder v was).2) := by
  have e (o) : (s.receiverToHunt l).boundTo o v = s.boundTo o v := rfl
  unfold State.stallOrder; rw [receiverToHunt_at_vehicle]
  cases (s.vehicle v).order with
  | none => dsimp only; split <;> rfl
  | some o =>
    dsimp only
    split <;> simp only [e, requeue_hunt, updVehicle_hunt, noteWithdraw_hunt, suspend_hunt]

theorem stall_hunt (s : State) (v c) :
    (s.receiverToHunt l).stall v c = ((s.stall v c).1.receiverToHunt l, (s.stall v c).2) := by
  simp only [State.stall, receiverToHunt_at_vehicle, updVehicle_hunt, cancelWait_hunt, readOrderOf_hunt, stallOrder_hunt,
    noteVehicle_hunt]

theorem withdrawOffer_hunt (s : State) (v o c) :
    (s.receiverToHunt l).withdrawOffer v o c = ((s.withdrawOffer v o c).1.receiverToHunt l, (s.withdrawOffer v o c).2) := by
  have e : (s.receiverToHunt l).boundTo o v = s.boundTo o v := rfl
  unfold State.withdrawOffer
  simp only [e, receiverToHunt_at_vehicle, updVehicle_hunt, requeue_hunt, enterLoadedIdle_hunt, enterIdle_hunt read_hunts]
  cases s.boundTo o v <;> by_cases h : c = .timeout <;>
    simp only [h, Bool.false_eq_true, ↓reduceIte, noteWithdraw_hunt, noteVehicle_hunt]

end Sys2Proof.Machine
end

