-- ==== Sys2Proof/Laws/Releases.lean ====
section
/-! SUPPORT. Arbiters and releases from a state with no damaged record: they meet none, leave none, and a run of releases is
`State.releasedInTurn`. -/

namespace Sys2Proof.Machine

theorem readWaiter_clean {s : State} (h : s.clean = true) (v) : s.readWaiter v = (s, false) := by
  simp only [State.readWaiter, readVehicle_clean (clean_vehicle h v)]
  split
  · next o _ =>
    cases e : s.order o with
    | none => simp [readOrder_free e]
    | some r => simp [readOrder_clean e (clean_order h e)]
  · rfl

theorem readWaiters_clean {s : State} (h : s.clean = true) : ∀ ws : List Waiter, State.readWaiters ws s = (s, false)
  | [] => rfl
  | w :: ws => by simp [State.readWaiters, readWaiter_clean h, readWaiters_clean h ws]

/-- A notice leaves every record as it is. -/
theorem clean_notifyOwner {s : State} (h : s.clean = true) (l : Option LinkId) (n : Notice) :
    (s.notifyOwner l n).clean = true := by
  cases l <;> exact clean_congr h rfl rfl rfl

theorem clean_updBlock {s : State} (h : s.clean = true) (b : BlockId) {f : BlockRec → BlockRec}
    (hf : (f (s.block b)).flips = []) : (s.updBlock b f).clean = true := clean_setBlock h b hf

theorem clean_updVehicle {s : State} (h : s.clean = true) (v : VehicleId) {f : VehicleRec → VehicleRec}
    (hf : (f (s.vehicle v)).flips = []) : (s.updVehicle v f).clean = true := clean_setVehicle h v hf

theorem clean_award {s : State} (h : s.clean = true) (b : BlockId) (w : Waiter) : (s.award b w).clean = true := by
  have h1 := clean_updBlock h b (f := fun r => { r with waiters := r.waiters.filter fun x => !x.isOf w.vehicle })
    (clean_block h b)
  have h2 := clean_updVehicle h1 w.vehicle (f := fun r => { r with waitingOn := none }) (clean_vehicle h1 _)
  have h3 := clean_updBlock h2 b (f := fun r => { r with holder := .vehicle w.vehicle }) (clean_block h2 b)
  exact clean_notifyOwner (clean_updVehicle h3 w.vehicle (f := fun r => { r with holds := r.holds ++ [b] })
    (clean_vehicle h3 _)) _ _

/-- R43: an arbiter that meets no damaged record says so and leaves none. -/
theorem arbitrate_clean {s : State} (h : s.clean = true) (b : BlockId) :
    s.arbitrate b = (s.askArbiter b, false) ∧ (s.askArbiter b).clean = true := by
  have e : s.arbitrate b = (s.askArbiter b, false) := by
    simp only [State.askArbiter, State.arbitrate, readBlock_clean (clean_block h b), readWaiters_clean h]
    generalize s.winner (s.block b).waiters = x
    cases x <;> split_ifs <;> rfl
  refine ⟨e, ?_⟩
  simp only [State.askArbiter, State.arbitrate, readBlock_clean (clean_block h b), readWaiters_clean h]
  generalize s.winner (s.block b).waiters = x
  cases x <;> split_ifs <;> first | exact h | exact clean_award h b _

/-- R31, R48: one release. -/
theorem release_clean {s : State} (h : s.clean = true) (v : VehicleId) (b : BlockId) :
    s.release v b = (s.releasedInTurn v [b], false) ∧ (s.releasedInTurn v [b]).clean = true := by
  have h1 := clean_updVehicle h v (f := fun r => { r with holds := r.holds.filter (· ≠ b) }) (clean_vehicle h v)
  have h2 := clean_updBlock h1 b (f := fun r => { r with holder := .none }) (clean_block h1 b)
  obtain ⟨e, h3⟩ := arbitrate_clean h2 b
  have es : s.releasedInTurn v [b] =
      if (s.block b).frozen then s.updVehicle v fun r => { r with holds := r.holds.filter (· ≠ b) }
      else ((s.updVehicle v fun r => { r with holds := r.holds.filter (· ≠ b) }).updBlock b
        fun r => { r with holder := .none }).askArbiter b := rfl
  rw [es, State.release]; split
  · exact ⟨rfl, h1⟩
  · exact ⟨e, h3⟩

/-- R31, R41, R48: a run of releases that meets no damaged record is `State.releasedInTurn`, and leaves none. -/
theorem releaseUntil_clean (v : VehicleId) : ∀ (bs : List BlockId) {s : State}, s.clean = true →
    State.releaseUntil s v bs = (s.releasedInTurn v bs, ⟨bs.length, none, false⟩) ∧ (s.releasedInTurn v bs).clean = true
  | [], _, h => ⟨rfl, h⟩
  | b :: bs, s, h => by
    obtain ⟨e, h1⟩ := release_clean h v b
    obtain ⟨e2, h2⟩ := releaseUntil_clean v bs h1
    have e3 : s.releasedInTurn v (b :: bs) = (s.releasedInTurn v [b]).releasedInTurn v bs := rfl
    simp [State.releaseUntil, readBlock_clean (clean_block h b), e, e2, e3, h2]

theorem releaseEvery_clean (v : VehicleId) : ∀ (bs : List BlockId) {s : State}, s.clean = true →
    State.releaseEvery s v bs = (s.releasedInTurn v bs, ⟨bs.length, none, false⟩) ∧ (s.releasedInTurn v bs).clean = true
  | [], _, h => ⟨rfl, h⟩
  | b :: bs, s, h => by
    obtain ⟨e, h1⟩ := release_clean h v b
    obtain ⟨e2, h2⟩ := releaseEvery_clean v bs h1
    have e3 : s.releasedInTurn v (b :: bs) = (s.releasedInTurn v [b]).releasedInTurn v bs := rfl
    simp [State.releaseEvery, readBlock_clean (clean_block h b), e, e2, e3, h2]

end Sys2Proof.Machine
end

