-- ==== Sys2Proof/Laws/Repairs.lean ====
section
/-! SUPPORT. What the searches of a repair do when every record they read has a check word that agrees (R137, R139, R141): the
pass over the blocks finds what the records say and changes nothing else, and a vehicle that does not name the lost record is
left as it is. -/

namespace Sys2Proof.Machine

theorem readNested_clean (n : Nat) (f : Finder) (r : RecRef) (s : State) (h : s.cleanAt r = true) :
    readNested (n + 1) f r s = (s, false) := readWith_clean _ _ _ _ h

variable {rd : Reader}

theorem readAll_same {s : State} : ∀ rs : List RecRef, (∀ r ∈ rs, rd r s = (s, false)) → readAll rd rs s = (s, false)
  | [], _ => rfl
  | r :: rs, h => by simp [readAll, h r (by simp), readAll_same rs fun x hx => h x (by simp [hx])]

/-- R139: a pass over clean blocks that do not mention the vehicle. -/
theorem pass_unmentioned {s : State} {v : VehicleId} (hr : ∀ b, rd (.block b) s = (s, false))
    (h : ∀ b, (s.block b).holder ≠ .vehicle v ∧ (s.block b).waiters.any (·.isOf v) = false) :
    ∀ (bs found : List BlockId) (wait : Option BlockId), State.pass rd v bs (s, found, wait) = (s, found, wait)
  | [], _, _ => rfl
  | b :: bs, found, wait => by
    have e : State.passBlock rd v b (s, found, wait) = (s, found, wait) := by
      simp [State.passBlock, hr b, (h b).1, (h b).2]
    rw [State.pass, e]; exact pass_unmentioned hr h bs found wait

/-- R141 step 4: clean vehicles of which none names the order. -/
theorem releaseVehiclesOf_unnamed {s : State} {o : Slot} (hr : ∀ v, rd (.vehicle v) s = (s, false))
    (h : ∀ v, (s.vehicle v).order ≠ some o) : ∀ vs : List VehicleId, State.releaseVehiclesOf rd o vs s = s
  | [] => rfl
  | v :: vs => by
    have e : State.releaseVehicleOf rd o v s = s := by simp [State.releaseVehicleOf, h v]
    rw [State.releaseVehiclesOf, hr v, e]; exact releaseVehiclesOf_unnamed hr h vs

/-- R137: clean vehicles of which none waits at the block. -/
theorem dropWaits_unnamed {s : State} {b : BlockId} (hr : ∀ v, rd (.vehicle v) s = (s, false))
    (h : ∀ v, (s.vehicle v).waitingOn ≠ some b) : ∀ vs : List VehicleId, State.dropWaits rd b vs s = s
  | [] => rfl
  | v :: vs => by
    have e : s.dropWaitAt b v = s := by simp [State.dropWaitAt, h v]
    rw [State.dropWaits, hr v, e]; exact dropWaits_unnamed hr h vs

/-- R138 to R140: the rebuild of a vehicle that no block and no order mentions, every other record clean. -/
theorem repairVehicle_unmentioned {s : State} {v : VehicleId} (n : Nat) (f : Finder) (hm : s.mode ≠ .setup)
    (hc : (s.setVehicle v .lost).clean = true)
    (hb : ∀ b, (s.block b).holder ≠ .vehicle v ∧ (s.block b).waiters.any (·.isOf v) = false)
    (ho : (s.setVehicle v .lost).orderOf v = none) :
    s.repairVehicle (readNested (n + 1) .access) f v =
      ((s.setVehicle v .lost).updVehicle v fun r =>
        { r with carrier := (s.setVehicle v .lost).rebuiltCarrier v none }).noteVehicle v .stalled := by
  have hr (r : RecRef) : readNested (n + 1) .access r (s.setVehicle v .lost) = (s.setVehicle v .lost, false) :=
    readNested_clean n _ r _ (clean_cleanAt hc r)
  simp only [State.repairVehicle, if_neg hm, pass_unmentioned (fun b => hr _) hb, List.reverse_nil, State.rebuildHolds,
    readAll_same _ fun r _ => hr r, State.rebuildOrder, ho]

end Sys2Proof.Machine
end

