-- ==== Sys2Proof/Tests/Slice0.lean ====
section
/-! SUPPORT. The model's own tests: the ill-formed terms that the check refuses, worked values of the spec, one small step a
kind of command, and for every statement of Obligations.lean a concrete state and operands that meet its hypotheses. -/

namespace Sys2Proof.Tests

open Sys2Proof.Machine

-- One theorem after another: many kernel evaluations at once would need more threads than the memory limit allows.
set_option Elab.async false

/-! ## Well-formedness -/

def blockField (n : Half) (kind bay count : Byte) (a b : Half) (port : Byte) : BlockField := ⟨n, kind, bay, count, a, b, port⟩

/-- A request on a link, with frame tag 31h and a body of the right length. -/
def on (l : LinkId) : Hdr := ⟨l, 0x31, true⟩

theorem test_illformed_claim : (Instr.claim (on 1) 0 (.replicate 124 0)).wellFormed = false := by decide +kernel
theorem test_illformed_writeBlocks :
    (Instr.writeBlocks (on 0) (.replicate 25 (blockField 0 0 0 0 0 0 0))).wellFormed = false := by decide +kernel
theorem test_illformed_writePorts : (Instr.writePorts (on 0) (.replicate 83 ⟨0, 0⟩)).wellFormed = false := by decide +kernel
theorem test_wellformed_longest : (Instr.claim (on 1) 0 (.replicate 123 0)).wellFormed = true ∧
    (Instr.writeBlocks (on 0) (.replicate 24 (blockField 0 0 0 0 0 0 0))).wellFormed = true ∧
    (Instr.writePorts (on 0) (.replicate 82 ⟨0, 0⟩)).wellFormed = true := by decide +kernel

/-! ## Worked values of the spec -/

/-- The worked example "one heartbeat on the line": the check over its length byte and body. -/
theorem test_crc_heartbeat : crc [0x03, 0x2C, 0x05, 0x0C] = 0xD2C2 := by decide +kernel
theorem test_frame_heartbeat : requestOfFrame 1 0x2C 0x05 [0x0C] = .heartbeat ⟨1, 0x05, true⟩ 12 := by decide +kernel
theorem test_frame_unknown_kind : requestOfFrame 1 0xAC 0x05 [0x0C] = .unknownKindRequest 1 0x05 := by decide +kernel
theorem test_frame_wrong_length : requestOfFrame 1 0x2C 0x05 [] = .heartbeat ⟨1, 0x05, false⟩ 0 := by decide +kernel
theorem test_no_table_word : decodeTableWord 8 0x2C = none := by decide

/-! ## A small part in RUN

A ring of blocks 0 to 9 and 1023 in bay 0, whose owner is LINK1; ports 0, 1, 2, 3, 4 and 191 on it; a vehicle in each state
and three orders under way. -/

def idOf (c : Byte) : CarrierField := #v[c, 0x20, 0x20, 0x20, 0x20, 0x20, 0x20, 0x20]
def noChars : CarrierField := .replicate 8 0x20
def carrierA : Carrier := .id (idOf 0x41)
def carrierB : Carrier := .id (idOf 0x42)
def carrierC : Carrier := .id (idOf 0x43)
def carrierD : Carrier := .id (idOf 0x44)
def carrierE : Carrier := .id (idOf 0x45)

def lay (b next : BlockId) (port : Option PortId) (holder : Holder) (s : State) : State :=
  let x : BlockStatic := ⟨if port.isSome then .port else .lane, 0, [next], port⟩
  let t := { s with map := s.map.set b.val x }.setBlock b ⟨x, holder, false, [], []⟩
  match port with
  | some p => t.setPort p ⟨some b, false, none⟩
  | none => t

def car (st : VState) (holds : List BlockId) (o : Option Slot) (c : Carrier) : VehicleRec :=
  { VehicleRec.reset with state := st, owner := some 1, holds := holds, order := o, carrier := c }

def job (src : Option PortId) (dest : PortId) (st : OState) (c : Carrier) (v bound : Option VehicleId) (seq : Word) :
    OrderRec :=
  ⟨3, 7, c, src, dest, none, false, .standard, seq, 0, st, false, v, bound, none, []⟩

/-- Bay 0 owned by LINK1, in RUN, with no rail yet. -/
def depot : State := { State.reset.setBay 0 ⟨some 1, .replicate 32 0⟩ with mode := .run, committed := true }

def rail : State :=
  lay 0 1 none (.vehicle 0) <| lay 1 2 (some 2) .none <| lay 2 3 none (.vehicle 1) <| lay 3 4 (some 0) (.vehicle 2) <|
  lay 4 5 none (.vehicle 5) <| lay 5 6 none (.vehicle 4) <| lay 6 7 none (.vehicle 4) <| lay 7 8 (some 1) (.vehicle 3) <|
  lay 8 9 (some 4) (.vehicle 6) <| lay 9 1023 (some 3) .none <| lay 1023 0 (some 191) .none
    depot

def fabVehicle : VehicleId → VehicleRec
  | 0 => { car .idle [0] none .none with idleSeq := 1 }
  | 1 => { car .offered [2] (some 0) .none with offer := some 0 }
  | 2 => car .toSource [3] (some 1) .none
  | 3 => car .toDest [7] (some 2) carrierA
  | 4 => car .loadedIdle [5, 6] none carrierB
  | 5 => car .withdrawn [4] none .none
  | 6 => { car .stalled [8] none .none with cause := some .lost, saved := some .idle }
  | 7 => { car .stalled [] none .unknown with cause := some .integrity, owner := none }
  | 8 => { car .stalled [] none carrierD with cause := some .fault, saved := some .loadedIdle }
  | _ => .reset

def fabOrder : Slot → Option OrderRec
  | 0 => some (job (some 2) 3 .offered carrierC (some 1) none 1)
  | 1 => some (job (some 0) 4 .toSource carrierD (some 2) none 2)
  | 2 => some (job none 1 .carrying carrierA (some 3) none 3)
  | 3 => some (job (some 191) 2 .queued carrierE none none 4)
  | _ => none

def railOrders : State := { rail with queues := ⟨[], [], [3], []⟩, submitSeq := 4, idleSeq := 1 }

@[irreducible] def fab : State :=
  let s := railOrders
  let s := [0, 1, 2, 3, 4, 5, 6, 7, 8].foldl (fun s v => s.setVehicle v (fabVehicle v)) s
  let s := [0, 1, 2, 3].foldl (fun s o => s.setOrder o (fabOrder o)) s
  let s := s.setPort 2 ⟨some 1, false, some ⟨0, .pick⟩⟩
  let s := s.setPort 3 ⟨some 9, false, some ⟨0, .drop⟩⟩
  let s := s.setPort 0 ⟨some 3, false, some ⟨1, .pick⟩⟩
  let s := s.setPort 4 ⟨some 8, false, some ⟨1, .drop⟩⟩
  s.setPort 1 ⟨some 7, false, some ⟨2, .drop⟩⟩

theorem reset_block (b) : State.reset.block b = .reset := by simp [State.block, State.reset, State.hardReset]
theorem reset_vehicle (v) : State.reset.vehicle v = .reset := by simp [State.vehicle, State.reset, State.hardReset]
theorem reset_order (o) : State.reset.order o = none := by simp [State.order, State.reset, State.hardReset]
theorem reset_port (p) : State.reset.port p = .reset := by simp [State.port, State.reset, State.hardReset]
theorem reset_static (b) : State.reset.static b = .unused := by simp [State.static, State.reset, State.hardReset]

theorem reset_clean : State.reset.clean = true :=
  clean_of (fun b => by rw [reset_block]; rfl) (fun v => by rw [reset_vehicle]; rfl)
    (fun o r e => by rw [reset_order] at e; cases e)

theorem lay_block (b n p h s x) : ((lay b n p h s).block x) =
    if x = b then ⟨⟨if p.isSome then .port else .lane, 0, [n], p⟩, h, false, [], []⟩ else s.block x := by
  cases p <;> exact setBlock_read _ _ _ _
theorem lay_vehicle (b n p h s v) : (lay b n p h s).vehicle v = s.vehicle v := by cases p <;> rfl
theorem lay_order (b n p h s o) : (lay b n p h s).order o = s.order o := by cases p <;> rfl

theorem rail_vehicle (v) : rail.vehicle v = .reset := by simp only [rail, lay_vehicle]; exact reset_vehicle v
theorem rail_order (o) : rail.order o = none := by simp only [rail, lay_order]; exact reset_order o

/-- A block record that waits for nobody, whose check word agrees, and that vehicle 127 does not hold. -/
def bare (r : BlockRec) : Bool := r.flips = [] && r.waiters = [] && r.holder ≠ .vehicle 127

theorem lay_bare {b n p h s} (hs : ∀ x, bare (s.block x) = true) (hh : h ≠ .vehicle 127) :
    ∀ x, bare ((lay b n p h s).block x) = true := by
  intro x; rw [lay_block]; split
  · simp [bare, hh]
  · exact hs x

theorem depot_bare : ∀ b, bare (depot.block b) = true := by
  intro b; rw [show depot.block b = .reset from reset_block b]; rfl

theorem rail_bare : ∀ b, bare (rail.block b) = true :=
  lay_bare (lay_bare (lay_bare (lay_bare (lay_bare (lay_bare (lay_bare (lay_bare (lay_bare (lay_bare (lay_bare depot_bare
    (by decide)) (by decide)) (by decide)) (by decide)) (by decide)) (by decide)) (by decide)) (by decide)) (by decide))
    (by decide)) (by decide)

theorem fab_block (b) : fab.block b = rail.block b := by
  simp only [fab, List.foldl_cons, List.foldl_nil, setPort_at_block, setOrder_at_block, setVehicle_at_block]; rfl

theorem fab_vehicle (v) : fab.vehicle v = fabVehicle v := by
  have e : railOrders.vehicle v = .reset := rail_vehicle v
  simp only [fab, List.foldl_cons, List.foldl_nil, setPort_at_vehicle, setOrder_at_vehicle, setVehicle_read, e]
  repeat' split
  all_goals first | (subst v; rfl) | (unfold fabVehicle; split <;> first | contradiction | rfl)
theorem fab_order (o) : fab.order o = fabOrder o := by
  have e : railOrders.order o = none := rail_order o
  simp only [fab, List.foldl_cons, List.foldl_nil, setPort_at_order, setOrder_read, setVehicle_at_order, e]
  repeat' split
  all_goals first | (subst o; rfl) | (unfold fabOrder; split <;> first | contradiction | rfl)

theorem all_some {x : Option OrderRec} {p : OrderRec → Bool} (h : x.all p = true) (r : OrderRec) (e : x = some r) :
    p r = true := by subst e; exact h

/-- The QUEUED order that names a carrier, found in the table of orders. -/
theorem fab_naming {c : Carrier} {x : Option Slot} (h : ((List.finRange 256).find? fun o => (fabOrder o).any fun r =>
    r.state = .queued && r.carrier = c) = x) : fab.queuedNaming c = x := by
  rw [← h, State.queuedNaming, State.liveSlots, List.find?_filter]
  congr 1; funext o; rw [fab_order]; cases fabOrder o <;> simp

theorem fab_clean : fab.clean = true :=
  clean_of (fun b => by have h := rail_bare b; rw [fab_block]; simp [bare] at h; exact h.1.1)
    (fun v => by rw [fab_vehicle]; revert v; decide +kernel)
    (fun o r e => by
      rw [fab_order] at e
      have h : ∀ o, (fabOrder o).all (fun r => r.flips = []) = true := by decide +kernel
      simpa using all_some (h o) r e)

/-- What a link answers in a state: its reply's code and fields, sent at once by an idle transmitter. -/
def said (l : LinkId) : Host.Outcome State Fault Refusal → Option (ResultCode × List Byte)
  | .next s => (s.link l).heldReply.map fun r => (r.code, r.fields)
  | _ => none

/-- A field of the state that a command leaves. -/
def after {α : Type} (f : State → α) : Host.Outcome State Fault Refusal → Option α
  | .next s => some (f s)
  | _ => none

/-! ## Steps and resets: states that meet the hypotheses of the statements

One theorem a statement of Obligations.lean that has hypotheses, under the statement's name, at the ends of the ranges where
a clause has a range. A hypothesis about every order record is met in the form `Option.all`. -/

theorem test_meets_IdleStep : State.reset.pending = [] ∧ ¬(State.reset.trigger = true ∧ State.reset.mode = .run) ∧
    fab.setTrigger.pending = [] ∧ fab.setTrigger.trigger = true ∧ fab.setTrigger.mode = .run := by decide +kernel

def ratePending (m : LinkId) : State := fab.updLink 0 fun k => { k with pendingRate := some (m, .r921600) }

theorem test_meets_LinkResetOfOneLink : (fab.link 5).role = .disabled ∧
    (fab.link 1).role ≠ .disabled ∧ (fab.link 1).pendingRate = none ∧
    ((ratePending 0).link 0).role ≠ .disabled ∧ ((ratePending 0).link 0).pendingRate = some (0, .r921600) ∧
    ((ratePending 5).link 0).pendingRate = some (5, .r921600) ∧ (5 : LinkId) ≠ 0 := by decide +kernel

def hearing (rx : Rx) : State := fab.updLink 1 fun k => { k with rx := rx, gapTimer := true }

def aReply : Reply := ⟨0xAC, 0x31, .ok, .clear, []⟩

def holding (begun : Bool) : State := fab.updLink 1 fun k => { k with slot := some ⟨aReply, begun⟩ }

theorem test_meets_ReceptionFaults : ((hearing .length).link 1).role ≠ .disabled ∧
    ((hearing .length).link 1).rx ≠ .hunt ∧ (fab.link 1).rx = .hunt ∧ (fab.link 5).role = .disabled ∧
    ((holding true).link 1).role ≠ .disabled ∧ ((holding true).link 1).slot.isSome ∧
    (Instr.heartbeat (on 1) 0).requestFields = some (on 1, .heartbeat, [0]) ∧ (on 1).link = 1 ∧
    (fab.link 1).slot = none := by decide +kernel

def sending (b : TxBody) : State := (holding true).updLink 1 fun k => { k with tx := some ⟨b, .r115200⟩ }

theorem test_meets_TransmitterChoosesAndCompletes :
    ((holding false).link 1).role ≠ .disabled ∧ ((holding false).link 1).tx = none ∧
    ((holding false).link 1).slot = some ⟨aReply, false⟩ ∧
    (({ fab.link 1 with queue := [.withdraw 0 0 .timeout] } : Link).slot = none) ∧
    (fab.link 5).role = .disabled ∧ (fab.link 1).tx = none ∧ (fab.link 1).queue = [] ∧
    ((sending (.notice (.withdraw 0 0 .timeout))).link 1).tx = some ⟨.notice (.withdraw 0 0 .timeout), .r115200⟩ ∧
    ((sending (.reply aReply)).link 1).tx = some ⟨.reply aReply, .r115200⟩ ∧
    ((sending (.reply aReply)).link 1).pendingRate = none ∧
    (((sending (.reply aReply)).updLink 1 fun k => { k with pendingRate := some (5, .r57600) }).link 1).pendingRate
      = some (5, .r57600) := by decide +kernel

def queued (n : Nat) : State := fab.updLink 1 fun k => { k with queue := .replicate n (.withdraw 0 0 .timeout) }

theorem test_meets_FullQueueDropsNotice : ((queued 31).link 1).role ≠ .disabled ∧ ((queued 31).link 1).queue.length < 32 ∧
    ((queued 32).link 1).role ≠ .disabled ∧ 32 ≤ ((queued 32).link 1).queue.length ∧ (fab.link 5).role = .disabled ∧
    (fab.link 0).role = .service := by
  decide +kernel

theorem test_meets_ReceiverRows : (fab.link 5).role = .disabled ∧ (fab.link 1).role ≠ .disabled ∧ (fab.link 1).rx = .hunt ∧
    ((hearing .length).link 1).role ≠ .disabled ∧ ((hearing .length).link 1).rx = .length ∧
    ((hearing .length).link 1).rx ≠ .hunt ∧ 2 ≤ (2 : Byte).toNat ∧ (250 : Byte).toNat ≤ 250 ∧ (1 : Byte).toNat < 2 ∧
    250 < (251 : Byte).toNat ∧
    ((hearing (.body 2 [])).link 1).rx = .body 2 [] ∧ ([] : List Byte).length + 1 < (2 : Byte).toNat ∧
    ((hearing (.body 2 [0x80])).link 1).rx = .body 2 [0x80] ∧ (2 : Byte).toNat ≤ [(0x80 : Byte)].length + 1 ∧
    ((hearing (.check 2 [1, 2] none)).link 1).rx = .check 2 [1, 2] none ∧
    ((hearing (.check 3 [0x2C, 5, 0x0C] (some 0xD2))).link 1).rx = .check 3 [0x2C, 5, 0x0C] (some 0xD2) ∧
    crc [3, 0x2C, 5, 0x0C] ≠ (0xD2 : Byte) ++ (0xC3 : Byte) := by decide +kernel

theorem test_meets_CompletedFrameIsCarriedOut :
    ((hearing (.check 3 [0x2C, 5, 0x0C] (some 0xD2))).link 1).role ≠ .disabled ∧
    ((hearing (.check 3 [0x2C, 5, 0x0C] (some 0xD2))).link 1).rx = .check 3 (0x2C :: 5 :: [0x0C]) (some 0xD2) ∧
    crc (3 :: 0x2C :: 5 :: [0x0C]) = (0xD2 : Byte) ++ (0xC2 : Byte) := by decide +kernel

theorem test_meets_RequestFramesReadBack :
    (Instr.claim (on 1) 127 (.replicate 123 1023)).wellFormed = true ∧
    (Instr.claim (on 1) 127 [1023]).requestFields = some (on 1, .claim, [127, 1, 3, 255]) ∧ (on 1).fits = true := by
  decide +kernel

/-! ## The router and the requests of every role -/

theorem test_meets_RouterTurnsAway :
    (Instr.heartbeat (on 0) 0).requestFields = some (on 0, .heartbeat, [0]) ∧ (fab.link 0).role ≠ .disabled ∧
    (fab.link 0).slot = none ∧ ReqKind.permits .heartbeat (fab.link 0).role = false ∧
    (Instr.claim (on 1) 0 []).requestFields = some (on 1, .claim, [0, 0]) ∧ (State.reset.link 1).slot = none ∧
    ReqKind.permits .claim (State.reset.link 1).role = true ∧ ReqKind.allowedIn .claim State.reset.mode = false ∧
    ReqKind.permits .heartbeat (fab.link 1).role = true ∧ ReqKind.allowedIn .heartbeat fab.mode = true ∧
    ({ on 1 with fits := false } : Hdr).fits = false := by decide +kernel

theorem test_meets_EveryRequestIsAnswered :
    (Instr.heartbeat (on 1) 0).requestFields = some (on 1, .heartbeat, [0]) ∧ (fab.link (on 1).link).role ≠ .disabled ∧
    (fab.link (on 1).link).slot = none := by decide +kernel

def fenceAt (b : BlockId) : State := fab.setFence 15 ⟨true, b, b⟩

def tagged (l : LinkId) (tag : Half) (x : Option OrderRec) : Bool := x.any fun r => r.origin = l ∧ r.tag = tag

theorem test_meets_QueriesReport : (fab.free (on 3) ∧
    vehicle? 127 = some 127 ∧ (fab.vehicle 127).flips = [] ∧ 128 ≤ (128 : Byte).toNat ∧
    block? 1023 = some 1023 ∧ (fab.block 1023).flips = [] ∧ 1024 ≤ (1024 : Half).toNat ∧
    slot? 255 = some 255 ∧ fab.order 255 = none ∧ slot? 3 = some 3 ∧ (fab.order 3).all (·.flips = []) ∧
    256 ≤ (256 : Half).toNat ∧ tagged 3 7 (fab.order 0) = true ∧ 2 ≤ (2 : Byte).toNat ∧
    port? 191 = some 191 ∧ 192 ≤ (192 : Byte).toNat ∧
    (fenceAt 1023).free (on 3) ∧ ((fenceAt 1023).fence 15).covers 1023 = true ∧
    (∀ g, g < 15 → ((fenceAt 1023).fence g).covers 1023 = false) ∧ ∀ f, (fab.fence f).covers 1023 = false) ∧
    fab.clean = true ∧ ∀ x, tagged 3 0xFFFF (fab.order x) = false :=
  ⟨by decide +kernel, fab_clean, by simp only [fab_order]; decide +kernel⟩

theorem test_meets_ClearAttention : fab.free (on 1) ∧ 32 ≤ (32 : Byte).toNat ∧ (31 : Byte).toNat < 32 := by decide +kernel

theorem test_meets_SetNoticeMask : fab.free (on 1) ∧ fab.free (on 0) ∧ 6 ≤ (6 : Byte).toNat ∧ 4 ≤ (4 : Byte).toNat ∧
    (5 : Byte).toNat = (5 : LinkId).val ∧ (3 : Byte).toNat < 4 ∧ (fab.link 1).role ≠ .service ∧ (5 : LinkId) ≠ (on 1).link ∧
    (fab.link (on 0).link).role = .service ∧ (1 : LinkId) = (on 1).link := by decide +kernel

/-! ## Orders -/

def idF : CarrierField := idOf 0x46

theorem test_meets_SubmitOrder : (fab.ready (on 3) .scheduler ∧ fab.mode ≠ .setup ∧
    carrierId? idF = some (.id idF) ∧ carrierId? (idOf 0x42) = some carrierB ∧
    portOrNone? 191 = some (some 191) ∧ portOrNone? 0xFF = some none ∧ port? 0 = some 0 ∧ cls? 3 = some .bulk ∧
    (fab.port 0).block ≠ none ∧ (fab.port 191).block ≠ none ∧ (fab.vehicle 4).state = .loadedIdle ∧
    fab.order 4 = none ∧ (∀ x : Slot, x < 4 → fab.order x ≠ none) ∧ fab.submitSeq ≠ 0xFFFFFFFF ∧
    [1, 2, 3].Pairwise (fun x y : Slot => fab.submitSeqOf x ≤ fab.submitSeqOf y) ∧
    (∀ x ∈ [(0 : Slot), 1, 2], fab.submitSeqOf x ≤ fab.submitSeqOf 3)) ∧ fab.clean = true ∧
    (∀ x, (fab.order x).all fun r =>
      r.carrier ≠ .id idF ∧ r.carrier ≠ carrierB ∧ ¬(r.origin = (on 3).link ∧ r.tag = 8)) ∧
    (∀ v, (fab.vehicle v).carrier = .id idF ↔ none = some v) ∧
    (∀ v, (fab.vehicle v).carrier = carrierB ↔ some 4 = some v) :=
  ⟨by decide +kernel, fab_clean, by simp only [fab_order]; decide +kernel, by simp only [fab_vehicle]; decide +kernel,
    by simp only [fab_vehicle]; decide +kernel⟩

/-- Every slot holds an order. -/
def crowded : State := { fab with orders := .replicate 256 (some (job (some 191) 2 .queued carrierE none none 4)) }

theorem crowded_order (o) : crowded.order o = some (job (some 191) 2 .queued carrierE none none 4) := by
  simp [crowded, State.order]
theorem crowded_clean : crowded.clean = true :=
  clean_of (fun b => clean_block fab_clean b) (fun v => clean_vehicle fab_clean v)
    (fun o r e => by rw [crowded_order] at e; cases e; rfl)

/-- RANGE of each field and of an unplaced or a repeated port; STATE, DUPLICATE and FULL. -/
theorem test_meets_SubmitOrder_refusals : (carrierId? noChars = none ∧ portOrNone? 192 = none ∧ port? 192 = none ∧
    cls? 4 = none ∧ (fab.port 5).block = none ∧ (some (0 : PortId) = some 0) ∧
    (fab.order 0).any (fun r => r.origin = (on 3).link ∧ r.tag = 7) ∧ (fab.vehicle 3).carrier = carrierA ∧
    (fab.vehicle 3).state = .toDest ∧ crowded.ready (on 3) .scheduler ∧ crowded.mode ≠ .setup) ∧ crowded.clean = true ∧
    (∀ v, (fab.vehicle v).carrier ≠ .id idF) ∧
    (∀ x, crowded.order x ≠ none) ∧ (∀ v, (crowded.vehicle v).carrier ≠ .id idF) ∧
    ∀ x, (crowded.order x).all fun r => r.carrier ≠ .id idF ∧ ¬(r.origin = (on 3).link ∧ r.tag = 8) :=
  ⟨by decide +kernel, crowded_clean, by simp only [fab_vehicle]; decide +kernel, fun x => by simp [crowded_order],
    by simp only [show ∀ v, crowded.vehicle v = fab.vehicle v from fun _ => rfl, fab_vehicle]; decide +kernel,
    fun x => by rw [crowded_order]; decide⟩

theorem test_meets_FreeOrder : (fab.port 0).reservation = some ⟨1, .pick⟩ ∧ (⟨1, .pick⟩ : Reservation).slot = 1 ∧
    (fab.port 191).reservation = none := by decide +kernel

def late : State := { fab with msBase := 900000 }

theorem test_meets_Requeue : fab.order 1 = some (job (some 0) 4 .toSource carrierD (some 2) none 2) ∧
    promoTime late.timing .standard ≠ 0 ∧ promoTime late.timing .standard * 1000 ≤ (late.msBase - 0).toNat := by
  decide +kernel

def orderIs (s : State) (o : Slot) (p : OrderRec → Bool) : Bool := (s.order o).any p

/-- Order 0 is offered to vehicle 4, which carries its carrier. -/
def boundOffer : State :=
  (fab.setOrder 0 (some { job none 3 .offered carrierB (some 4) (some 4) 1 with tag := 7 })).setVehicle 4
    { car .offered [5, 6] (some 0) carrierB with offer := some 0 }

theorem test_meets_CancelOrder : fab.ready (on 3) .scheduler ∧ slot? 3 = some 3 ∧ 256 ≤ (256 : Half).toNat ∧
    (255 : Half).toNat = (255 : Slot).val ∧ fab.order 255 = none ∧ (fab.order 0).all (fun r => r.flips = [] ∧ r.tag ≠ 8) ∧
    orderIs (fab.updOrder 3 fun r => { r with origin := 4 }) 3 (fun r => r.flips = [] ∧ r.tag = 7 ∧ r.origin ≠ (on 3).link) ∧
    orderIs fab 2 (fun r => r.flips = [] ∧ r.tag = 7 ∧ r.origin = (on 3).link ∧ r.state = .carrying) ∧
    orderIs fab 3 (fun r => r.origin = (on 3).link ∧ r.state = .queued ∧ r.vehicle = none) ∧
    orderIs fab 1 (fun r => r.origin = (on 3).link ∧ r.state = .toSource ∧ r.vehicle = some 2) ∧
    orderIs fab 0 (fun r => r.origin = (on 3).link ∧ r.state = .offered ∧ r.vehicle = some 1 ∧ r.bound ≠ some 1) ∧
    (fab.vehicle 2).flips = [] ∧ fab.idleSeq ≠ 0xFFFFFFFF ∧ boundOffer.ready (on 3) .scheduler ∧
    orderIs boundOffer 0 (fun r => r.flips = [] ∧ r.tag = 7 ∧ r.origin = (on 3).link ∧ r.state = .offered ∧
      r.vehicle = some 4 ∧ r.bound = some 4) ∧ (boundOffer.vehicle 4).flips = [] := by decide +kernel

def downPort (p : PortId) : State := fab.setPort p { fab.port p with down := true }

theorem test_meets_RedirectOrder : fab.ready (on 3) .scheduler ∧ 256 ≤ (256 : Half).toNat ∧ port? 192 = none ∧
    portOrNone? 192 = none ∧ (fab.port 5).block = none ∧ fab.order 255 = none ∧ orderIs fab 1 (fun r => r.tag ≠ 8 ∧
      r.source = some 0) ∧ orderIs fab 3 (fun r => r.origin ≠ (on 4).link) ∧ port? 191 = some 191 ∧ port? 4 = some 4 ∧
    portOrNone? 0xFF = some none ∧ (fab.port 191).block ≠ none ∧ (fab.port 4).block ≠ none ∧ (none : Option PortId) ≠ some 191 ∧
    orderIs fab 0 (fun r => r.flips = [] ∧ r.tag = 7 ∧ r.origin = (on 3).link ∧ r.state = .offered ∧ r.source ≠ some 191) ∧
    orderIs fab 1 (fun r => r.state = .toSource ∧ r.vehicle = some 2 ∧ r.source ≠ some 191 ∧ r.source ≠ some 4) ∧
    orderIs fab 2 (fun r => r.state = .carrying ∧ r.vehicle = some 3 ∧ r.source = none) ∧
    (fab.port 191).down = false ∧ (fab.port 191).reservation = none ∧
    ((downPort 191).port 191).down = true ∧ (downPort 191).ready (on 3) .scheduler ∧
    (fab.port 4).reservation = some ⟨1, .drop⟩ ∧ (⟨1, .drop⟩ : Reservation) ≠ ⟨2, .drop⟩ ∧
    orderIs (fab.updOrder 3 fun r => { r with source := some 2 }) 3 (fun r =>
      r.state = .queued ∧ r.vehicle = none ∧ r.source ≠ some 191) ∧ (fab.vehicle 2).flips = [] := by decide +kernel

theorem test_meets_ReclassOrder : fab.ready (on 3) .scheduler ∧ 256 ≤ (256 : Half).toNat ∧ 4 ≤ (4 : Byte).toNat ∧
    fab.order 255 = none ∧ orderIs fab 3 (fun r => r.tag ≠ 8 ∧ r.origin ≠ (on 4).link) ∧ slot? 3 = some 3 ∧ cls? 3 = some .bulk ∧
    orderIs fab 3 (fun r => r.flips = [] ∧ r.tag = 7 ∧ r.origin = (on 3).link ∧ r.state = .queued) ∧
    orderIs fab 2 (fun r => r.flips = [] ∧ r.tag = 7 ∧ r.origin = (on 3).link ∧ r.state ≠ .queued) := by decide +kernel

theorem test_meets_SetPortState : fab.free (on 3) ∧ (fab.link 3).role = .scheduler ∧ (fab.link 0).role = .service ∧
    192 ≤ (192 : Byte).toNat ∧ 2 ≤ (2 : Byte).toNat ∧ (191 : Byte).toNat = (191 : PortId).val ∧ (1 : Byte).toNat < 2 ∧
    fab.mode ≠ .setup ∧ (fab.port 5).block = none ∧ (fab.port 191).block ≠ none ∧ (fab.port 191).down = false ∧
    ((downPort 191).port 191).down = true := by decide +kernel

/-! ## Track -/

theorem test_meets_Join : (fab.ready (on 1) .bay ∧ fab.mode ≠ .setup ∧ vehicle? 128 = none ∧ block? 1024 = none ∧
    carrier? (.replicate 8 0x7F) = none ∧ fab.used 10 = false ∧ (fab.vehicle 0).state ≠ .offline ∧
    (fab.vehicle 0).flips = [] ∧ carrier? (idOf 0x42) = some carrierB ∧ (fab.vehicle 4).carrier = carrierB ∧
    vehicle? 127 = some 127 ∧ block? 1023 = some 1023 ∧
    carrier? noChars = some .none ∧ carrier? (.replicate 8 0x3F) = some .unknown ∧ carrier? idF = some (.id idF) ∧
    fab.used 1023 = true ∧ fab.bayOwner 1023 = some (on 1).link ∧ (fab.vehicle 127).flips = [] ∧
    (fab.vehicle 127).state = .offline ∧ (fab.block 1023).flips = [] ∧ (fab.block 1023).holder = .none ∧
    (fab.block 1023).frozen = false ∧ fab.used 0 = true ∧ fab.bayOwner 0 = some (on 1).link ∧ (fab.block 0).flips = [] ∧
    (fab.block 0).holder ≠ .none ∧ fab.idleSeq ≠ 0xFFFFFFFF ∧ carrier? (idOf 0x45) = some carrierE) ∧ fab.clean = true ∧
    (∀ w, w ≠ 127 → (fab.vehicle w).carrier ≠ .id idF ∧ (fab.vehicle w).carrier ≠ carrierE) ∧
    (∀ o, (fab.order o).all fun r => r.state = .queued ∨ (r.carrier ≠ .id idF ∧ r.carrier ≠ carrierE)) ∧
    fab.queuedNaming (.id idF) = none ∧ fab.queuedNaming carrierE = some 3 :=
  ⟨by decide +kernel, fab_clean, by simp only [fab_vehicle]; decide +kernel, by simp only [fab_order]; decide +kernel,
    fab_naming (by decide +kernel), fab_naming (by decide +kernel)⟩

/-- Vehicle 5 waits on block 5, which vehicle 4 holds ahead of it: a release grants it. -/
def yielding : State :=
  (fab.setVehicle 5 { fab.vehicle 5 with waitingOn := some 5 }).updBlock 5 fun r => { r with waiters := [⟨5, 1, 0⟩] }

theorem yielding_clean : yielding.clean = true := by
  have h := clean_setVehicle fab_clean 5 (r := { fab.vehicle 5 with waitingOn := some 5 }) (clean_vehicle fab_clean 5)
  exact clean_setBlock h 5 (clean_block h 5)

/-- A release in RUN that an arbiter answers: LEAVE, POSITION, RELEASE_AHEAD, EVICT and RECOVER where the released block has
a waiter. -/
theorem test_meets_releases_in_turn : (yielding.mode = .run ∧ yielding.quiet (yielding.vehicle 4).holds = false ∧
    yielding.ready (on 1) .bay ∧ yielding.ready (on 0) .service ∧ (yielding.vehicle 4).owner = some (on 1).link ∧
    6 ∈ (yielding.vehicle 4).holds ∧ (yielding.vehicle 4).state = .loadedIdle ∧ yielding.used 6 = true ∧
    (((yielding.releasedInTurn 4 [5]).block 5).holder = .vehicle 5) ∧
    ((yielding.releasedInTurn 4 [5]).vehicle 5).holds = [4, 5]) ∧ yielding.clean = true :=
  ⟨by decide +kernel, yielding_clean⟩

theorem test_meets_Leave : fab.ready (on 1) .bay ∧ vehicle? 0 = some 0 ∧ (fab.vehicle 0).flips = [] ∧
    (fab.vehicle 0).owner = some (on 1).link ∧ (fab.vehicle 0).state = .idle ∧ fab.quiet (fab.vehicle 0).holds = true ∧
    fab.waitClean 0 = true ∧ (fab.vehicle 5).owner = some 1 ∧ (fab.vehicle 5).state = .withdrawn ∧
    fab.quiet (fab.vehicle 5).holds = true ∧ (fab.vehicle 4).owner = some 1 ∧ (fab.vehicle 4).flips = [] ∧
    (fab.vehicle 4).state ≠ .idle ∧ (fab.vehicle 4).state ≠ .withdrawn := by decide +kernel

theorem test_meets_Position : fab.ready (on 1) .bay ∧ vehicle? 4 = some 4 ∧ block? 6 = some 6 ∧ block? 1023 = some 1023 ∧
    fab.used 6 = true ∧ fab.used 1023 = true ∧ (fab.vehicle 4).flips = [] ∧ (fab.vehicle 4).owner = some (on 1).link ∧
    (fab.vehicle 4).state ≠ .offline ∧ (fab.vehicle 4).state ≠ .stalled ∧ 1023 ∉ (fab.vehicle 4).holds ∧
    6 ∈ (fab.vehicle 4).holds ∧ 5 ∈ (fab.vehicle 4).holds ∧
    fab.quiet ((fab.vehicle 4).holds.takeWhile (· ≠ 6)) = true ∧
    fab.quiet ((fab.vehicle 4).holds.takeWhile (· ≠ 5)) = true := by decide +kernel

theorem test_meets_ReleaseAhead : fab.ready (on 1) .bay ∧ vehicle? 4 = some 4 ∧ (fab.vehicle 4).flips = [] ∧
    (fab.vehicle 4).owner = some (on 1).link ∧ (fab.vehicle 4).state ≠ .offline ∧ (fab.vehicle 4).state ≠ .stalled ∧
    (5 : Byte).toNat ≤ 5 ∧ (fab.vehicle 4).holds.length ≤ (2 : Byte).toNat ∧
    (1 : Byte).toNat < (fab.vehicle 4).holds.length ∧ (0 : Byte).toNat < (fab.vehicle 4).holds.length ∧
    fab.quiet ((fab.vehicle 4).holds.reverse.take 1) = true ∧ fab.quiet ((fab.vehicle 4).holds.reverse.take 0) = true ∧
    fab.waitClean 4 = true := by decide +kernel

def withBlock (b : BlockId) (f : BlockRec → BlockRec) : State := fab.updBlock b f

/-- Vehicle 1 waits on block 0, which the claiming vehicle 0 holds. -/
def facing : State :=
  (fab.setVehicle 1 { fab.vehicle 1 with waitingOn := some 0 }).updBlock 0 fun r => { r with waiters := [⟨1, 1, 0⟩] }

/-- Vehicle 1, the holder of block 2, waits on block 5, whose holder, vehicle 4, waits on `x`. -/
def chained (x : Option BlockId) : State :=
  (fab.setVehicle 1 { fab.vehicle 1 with waitingOn := some 5 }).setVehicle 4 { fab.vehicle 4 with waitingOn := x }

/-- Block 0, which vehicle 0 holds, is its own successor. -/
def selfNext : State := { fab with map := fab.map.set 0 ⟨.lane, 0, [0], none⟩ }

theorem test_meets_ClaimWalk_refusals : vehicle? 128 = none ∧ 5 < (List.replicate 6 (1 : Half)).length ∧
    [(1024 : Half)].mapM block? = none ∧ fab.used 10 = false ∧ [(10 : Half)].mapM block? = some [10] ∧
    (fab.vehicle 127).flips = [] ∧ (fab.vehicle 127).owner ≠ some (on 1).link ∧
    (fab.vehicle 6).owner = some (on 1).link ∧ (fab.vehicle 6).state = .stalled ∧ (fab.vehicle 6).flips = [] ∧
    (facing.vehicle 1).waitingOn ≠ none ∧ (fab.vehicle 0).holds.getLast? = some 0 ∧ 2 ∉ (fab.static 0).succs ∧
    (selfNext.vehicle 0).holds.getLast? = some 0 ∧ 0 ∈ (selfNext.static 0).succs ∧ 0 ∈ (selfNext.vehicle 0).holds ∧
    selfNext.used 0 = true ∧ selfNext.ready (on 1) .bay ∧ selfNext.mode = .run ∧ 1 ∈ (fab.static 0).succs ∧
    6 < [(3 : BlockId), 4, 5, 6, 7, 0].length + 1 ∧ 1 ∉ [(3 : BlockId), 4, 5, 6, 7, 0] := by decide +kernel

def twoLinks : List (BlockId × VehicleId) := [(2, 1), (5, 4)]

/-- Chains of two links: one whose last vehicle does not wait, one that ends at the free block 9, one that closes at block 0
of the claiming vehicle. -/
theorem test_meets_ClaimWalk_chains : [none, some (9 : BlockId), some 0].all (fun x =>
    (chained x).ready (on 1) .bay ∧ (chained x).grantable [1] = true ∧ ((chained x).vehicle 4).waitingOn = x ∧
    twoLinks.all (fun y => ((chained x).block y.1).flips = [] ∧ ((chained x).block y.1).holder = .vehicle y.2 ∧ y.2 ≠ 0 ∧
      ((chained x).vehicle y.2).flips = []) ∧
    (twoLinks.zip twoLinks.tail).all (fun y => ((chained x).vehicle y.1.2).waitingOn = some y.2.1)) ∧
    ((chained (some 0)).block 0).holder = .vehicle 0 ∧ ((chained (some 9)).block 9).holder = .none ∧
    ((chained (some 9)).block 9).flips = [] ∧ (chained none).waiterSeq ≠ 0xFFFFFFFF := by decide +kernel

theorem test_meets_ClaimWalk : (fab.ready (on 1) .bay ∧ fab.mode = .run ∧ vehicle? 0 = some 0 ∧
    [(1 : Half), 2].mapM block? = some [1, 2] ∧ [(1 : Half)].mapM block? = some [1] ∧ [(1 : BlockId), 2].all fab.used = true ∧
    (fab.vehicle 0).flips = [] ∧ (fab.vehicle 0).owner = some (on 1).link ∧ (fab.vehicle 0).state ≠ .stalled ∧
    (fab.vehicle 0).waitingOn = none ∧ (fab.vehicle 0).holds.getLast? = some 0) ∧
    (([(0 : BlockId), 1, 2].zip [1, 2]).all (fun x => (fab.static x.1).succs.contains x.2) = true ∧ [(1 : BlockId), 2].Nodup ∧
    [(1 : BlockId), 2].all (fun b => !(fab.vehicle 0).holds.contains b) = true ∧ (fab.vehicle 0).holds.length + 2 ≤ 6) ∧
    fab.grantable [1] = true ∧ fab.grantable [] = true ∧ (fenceAt 2).fenced 2 = true ∧ (fenceAt 2).grantable [1] = true ∧
    fab.fenced 2 = false ∧ (fab.block 2).flips = [] ∧
    ((withBlock 2 fun r => { r with frozen := true }).block 2).frozen = true ∧
    8 ≤ ((withBlock 2 fun r => { r with waiters := .replicate 8 ⟨9, 1, 0⟩ }).block 2).waiters.length ∧
    (fab.block 2).frozen = false ∧ (fab.block 2).waiters.length < 8 ∧ (fab.block 2).holder = .vehicle 1 ∧
    (1 : VehicleId) ≠ 0 ∧ (fab.vehicle 1).flips = [] ∧ (fab.vehicle 1).waitingOn = none ∧ fab.waiterSeq ≠ 0xFFFFFFFF ∧
    (facing.vehicle 1).waitingOn = some 0 ∧ (facing.block 0).flips = [] ∧ (facing.block 0).holder = .vehicle 0 ∧
    (facing.block 2).holder = .vehicle 1 ∧ facing.grantable [1] = true ∧ (facing.vehicle 0).waitingOn = none :=
  ⟨by decide +kernel, by decide +kernel, by decide +kernel⟩

/-- Vehicles 0 and 1 wait on block 9, which has become free. -/
def contest : State :=
  ((fab.setVehicle 0 { fab.vehicle 0 with waitingOn := some 9 }).setVehicle 1
    { fab.vehicle 1 with waitingOn := some 9 }).updBlock 9 fun r => { r with waiters := [⟨0, 1, 0⟩, ⟨1, 2, 0⟩] }

theorem test_meets_ArbiterGrantsHighestBid : ({ contest with mode := .halted } : State).mode = .halted ∧
    (fenceAt 9).fenced 9 = true ∧ (fab.block 0).holder ≠ .none ∧ (fab.block 9).waiters = [] ∧ (fab.block 9).flips = [] ∧
    contest.mode ≠ .halted ∧ contest.fenced 9 = false ∧ (contest.block 9).flips = [] ∧ (contest.block 9).holder = .none ∧
    (contest.block 9).frozen = false ∧ (⟨1, 2, 0⟩ : Waiter) ∈ (contest.block 9).waiters ∧
    (∀ x ∈ (contest.block 9).waiters, x ≠ ⟨1, 2, 0⟩ → contest.bid x < contest.bid ⟨1, 2, 0⟩ ∨
      (contest.bid x = contest.bid ⟨1, 2, 0⟩ ∧ (2 : Word) < x.seq)) ∧
    (∀ x ∈ (contest.block 9).waiters, (contest.vehicle x.vehicle).flips = [] ∧
      ∀ o, (contest.vehicle x.vehicle).order = some o → (contest.order o).all (·.flips = [])) := by decide +kernel

/-! ## The roster -/

theorem test_meets_StallOfAVehicle : fab.waitClean 0 = true ∧ (fab.vehicle 0).order = none ∧ (fab.vehicle 0).state = .idle ∧
    (fab.vehicle 4).state = .loadedIdle ∧ (fab.vehicle 5).state = .withdrawn ∧ (fab.vehicle 1).order = some 0 ∧
    (fab.order 0).all (·.flips = []) ∧ (fab.vehicle 1).state = .offered ∧ (fab.vehicle 2).order = some 1 ∧
    (fab.vehicle 2).state = .toSource ∧ (fab.vehicle 3).order = some 2 ∧ (fab.vehicle 3).state = .toDest ∧
    orderIs boundOffer 0 (fun r => r.bound = some 4) ∧ fab.ready (on 1) .bay ∧ vehicle? 6 = some 6 ∧
    (fab.vehicle 6).flips = [] ∧ (fab.vehicle 6).owner = some (on 1).link ∧ (fab.vehicle 6).state = .stalled ∧
    (fab.vehicle 0).state ≠ .stalled ∧ (fab.stall 0 .fault).2.bad = false ∧
    ((fab.setVehicle 0 { fab.vehicle 0 with silence := some 0 }).vehicle 0).silence = some 0 ∧
    (fab.vehicle 0).state ≠ .offline ∧ (fab.vehicle 0).silence ≠ some 0 := by decide +kernel

/-- Vehicle 6 stalled in another state it had, at block 8. -/
def stalledFrom (saved : VState) (o : Option Slot) : State :=
  fab.setVehicle 6 { fab.vehicle 6 with saved := some saved, order := o }

theorem test_meets_Recover : fab.ready (on 1) .bay ∧ vehicle? 6 = some 6 ∧ block? 8 = some 8 ∧ block? 1023 = some 1023 ∧
    fab.used 8 = true ∧ fab.used 1023 = true ∧ (fab.vehicle 6).flips = [] ∧ (fab.vehicle 6).owner = some (on 1).link ∧
    (fab.vehicle 0).state ≠ .stalled ∧ (fab.vehicle 0).owner = some (on 1).link ∧ fab.bayOwner 8 = some (on 1).link ∧
    (fab.vehicle 7).cause = some .integrity ∧ (fab.vehicle 6).state = .stalled ∧ (fab.vehicle 6).cause = some .lost ∧
    (fab.vehicle 8).cause = some .fault ∧ 1023 ∉ (fab.vehicle 6).holds ∧ 8 ∈ (fab.vehicle 6).holds ∧
    fab.quiet ((fab.vehicle 6).holds.takeWhile (· ≠ 8)) = true ∧ (fab.vehicle 6).order = none ∧
    (fab.vehicle 6).saved = some .idle ∧ fab.idleSeq ≠ 0xFFFFFFFF ∧
    ((stalledFrom .loadedIdle none).vehicle 6).saved = some .loadedIdle ∧
    ((stalledFrom .withdrawn none).vehicle 6).saved = some .withdrawn ∧
    ((stalledFrom .toDest (some 2)).vehicle 6).order = some 2 ∧ orderIs (stalledFrom .toDest (some 2)) 2 (·.flips = []) ∧
    ((stalledFrom .toDest (some 2)).vehicle 6).saved = some .toDest := by decide +kernel

theorem test_meets_Heartbeat : fab.free (on 0) ∧ (fab.link 0).role ≠ .bay ∧ fab.free (on 1) ∧ (fab.link 1).role = .bay ∧
    128 ≤ (128 : Byte).toNat ∧ (127 : Byte).toNat = (127 : VehicleId).val ∧ (fab.vehicle 127).flips = [] ∧
    (fab.vehicle 127).owner ≠ some (on 1).link ∧ (fab.vehicle 6).flips = [] ∧ (fab.vehicle 6).owner = some (on 1).link := by
  decide +kernel

theorem test_meets_DrainAndRestore : fab.ready (on 0) .service ∧ 128 ≤ (128 : Byte).toNat ∧ vehicle? 127 = some 127 ∧
    (fab.vehicle 127).state = .offline ∧ (fab.vehicle 0).state = .idle ∧ (fab.vehicle 5).state = .withdrawn ∧
    (fab.vehicle 6).state = .stalled ∧ (fab.vehicle 0).flips = [] ∧ fab.idleSeq ≠ 0xFFFFFFFF := by decide +kernel

theorem test_meets_Evict : (fab.ready (on 0) .service ∧ vehicle? 127 = some 127 ∧
    (fab.vehicle 127).state = .offline ∧ (fab.vehicle 3).state ≠ .offline ∧ fab.quiet (fab.vehicle 3).holds = true ∧
    (fab.vehicle 7).state ≠ .offline ∧ fab.quiet (fab.vehicle 7).holds = true) ∧ fab.clean = true :=
  ⟨by decide +kernel, fab_clean⟩

/-! ## The handshake -/

/-- The next idle sequence needs a renumbering, whose reads meet the damaged record of vehicle 0. The mode is SETUP, where a
rebuild is one write. -/
def worn : State :=
  { fab.updVehicle 0 fun r => { r with flips := [0, 1] } with idleSeq := 0xFFFFFFFF, mode := .setup }

theorem test_meets_WithdrawalOfAnOffer : orderIs fab 0 (fun r => r.bound ≠ some 1) ∧ fab.idleSeq ≠ 0xFFFFFFFF ∧
    orderIs boundOffer 0 (fun r => r.bound = some 4) := by decide +kernel

theorem test_meets_AnswersToAnOffer : fab.ready (on 1) .bay ∧ vehicle? 1 = some 1 ∧ slot? 0 = some 0 ∧
    blockOrNone? 1 = some (some 1) ∧ blockOrNone? 0xFFFF = some none ∧ block? 9 = some 9 ∧ block? 1023 = some 1023 ∧
    carrier? (idOf 0x43) = some carrierC ∧ (fab.vehicle 1).flips = [] ∧ (fab.vehicle 1).owner = some (on 1).link ∧
    (fab.vehicle 1).state = .offered ∧ (fab.vehicle 1).order = some 0 ∧ (fab.vehicle 1).offer = some 0 ∧
    orderIs fab 0 (fun r => r.flips = [] ∧ (r.source.bind fun p => (fab.port p).block) = some 1 ∧
      (fab.port r.destInUse).block = some 9 ∧ r.carrier = carrierC) ∧
    ((fab.setVehicle 0 { fab.vehicle 0 with timedOut := some 255 }).vehicle 0).timedOut = some 255 ∧
    slot? 255 = some 255 ∧ (fab.vehicle 0).state ≠ .stalled ∧ (fab.vehicle 0).state ≠ .offered ∧
    (fab.vehicle 6).state = .stalled ∧ (fab.vehicle 6).owner = some (on 1).link ∧ (fab.vehicle 0).offer ≠ some 0 ∧
    (fab.vehicle 1).timedOut ≠ some 3 ∧ (fab.vehicle 1).order ≠ some 3 ∧ (fab.withdrawOffer 1 0 .mismatch).2 = false ∧
    (worn.withdrawOffer 1 0 .mismatch).2 = true ∧ worn.ready (on 1) .bay ∧ (worn.vehicle 1).state = .offered := by
  decide +kernel

def atBlock (v : VehicleId) (b : BlockId) : State := fab.setVehicle v { fab.vehicle v with holds := [b] }

theorem test_meets_PickDone : (fab.ready (on 1) .bay ∧ vehicle? 2 = some 2 ∧ carrier? (idOf 0x44) = some carrierD ∧
    (fab.vehicle 2).flips = [] ∧ (fab.vehicle 2).owner = some (on 1).link ∧ (fab.vehicle 2).state = .toSource ∧
    (fab.vehicle 2).order = some 1 ∧ fab.order 1 = some (job (some 0) 4 .toSource carrierD (some 2) none 2) ∧
    (fab.port 0).block = some 3 ∧ ((atBlock 2 1023).vehicle 2).holds.head? ≠ some 3 ∧
    (fab.vehicle 2).holds.head? = some 3 ∧ carrier? noChars = some .none ∧ Carrier.none ≠ carrierD ∧
    fab.idleSeq ≠ 0xFFFFFFFF ∧ carrier? idF = some (.id idF) ∧ Carrier.id idF ≠ carrierD ∧ carrierE ≠ carrierD ∧
    carrier? (.replicate 8 0x3F) = some .unknown ∧ Carrier.unknown ≠ carrierD ∧ carrier? (idOf 0x42) = some carrierB ∧
    (4 : VehicleId) ≠ 2 ∧ (fab.vehicle 4).carrier = carrierB) ∧ fab.clean = true ∧
    (∀ w, w ≠ 2 → (fab.vehicle w).carrier ≠ .id idF ∧ (fab.vehicle w).carrier ≠ carrierE) ∧
    (∀ x, (fab.order x).all fun r => r.state = .queued ∨ (r.carrier ≠ .id idF ∧ r.carrier ≠ carrierE)) ∧
    fab.queuedNaming (.id idF) = none ∧ fab.queuedNaming carrierE = some 3 :=
  ⟨by decide +kernel, fab_clean, by simp only [fab_vehicle]; decide +kernel, by simp only [fab_order]; decide +kernel,
    fab_naming (by decide +kernel), fab_naming (by decide +kernel)⟩

def withAlternate (p : PortId) : State := fab.updOrder 2 fun r => { r with alt := some p }

theorem test_meets_DropReports : fab.ready (on 1) .bay ∧ vehicle? 3 = some 3 ∧ (fab.vehicle 3).flips = [] ∧
    (fab.vehicle 3).owner = some (on 1).link ∧ (fab.vehicle 3).state = .toDest ∧ (fab.vehicle 3).order = some 2 ∧
    fab.order 2 = some (job none 1 .carrying carrierA (some 3) none 3) ∧ (fab.port 1).block = some 7 ∧
    ((atBlock 3 1023).vehicle 3).holds.head? ≠ some 7 ∧ (fab.vehicle 3).holds.head? = some 7 ∧ fab.idleSeq ≠ 0xFFFFFFFF ∧
    orderIs (withAlternate 191) 2 (fun r => r.alt = some 191 ∧ r.altInUse = false ∧ r.dest ≠ 191) ∧
    (fab.port 191).down = false ∧ (fab.port 191).reservation = none ∧
    orderIs fab 2 (fun r => r.alt = none) ∧ orderIs (withAlternate 4) 2 (fun r => r.alt = some 4) ∧
    (fab.port 4).reservation ≠ none := by decide +kernel

/-! ## Dispatch and promotion -/

/-- Order 3 carries the carrier of vehicle 4 and is bound to it. -/
def bindable : State := fab.updOrder 3 fun r => { r with source := none, bound := some 4, carrier := carrierB, dest := 191 }

/-- Order 3 can go from port 191 to port 3, which nothing reserves. -/
def ready3 : State := { (fab.updOrder 3 fun r => { r with dest := 3 }).setPort 3 ⟨some 9, false, none⟩ with trigger := true }

theorem ready3_clean : ready3.clean = true :=
  clean_congr (clean_setOrder fab_clean 3 (by rw [fab_order]; decide +kernel)) rfl rfl rfl

/-- Order 3, bound to vehicle 4, has no usable port: its destination is reserved, and so is its alternate if it has one. -/
def outOfPorts (alt : Option PortId) : State := bindable.updOrder 3 fun r => { r with dest := 2, alt := alt }

/-- Order 3 can go from port 191 to its alternate alone, and no vehicle is IDLE. -/
def withTurn (alt : PortId) : State :=
  ((fab.setVehicle 0 (car .withdrawn [0] none .none)).updOrder 3 fun r => { r with alt := some alt }).setPort 3
    ⟨some 9, false, none⟩

theorem withTurn_vehicle (w) : (withTurn 3).vehicle w = (fab.setVehicle 0 (car .withdrawn [0] none .none)).vehicle w := rfl

theorem withTurn_clean : (withTurn 3).clean = true :=
  clean_congr (clean_setOrder (clean_setVehicle fab_clean 0 rfl) 3
    (x := (fab.order 3).map fun r => { r with alt := some 3 }) (by rw [fab_order]; decide +kernel)) rfl rfl rfl

theorem test_meets_DispatchChoice : (orderIs bindable 3 (fun r => r.source = none ∧ r.bound = some 4) ∧
    (bindable.vehicle 4).flips = [] ∧ (bindable.vehicle 4).state = .loadedIdle ∧ bindable.usable 191 = true ∧
    (boundOffer.vehicle 4).state ≠ .loadedIdle ∧ bindable.usable 4 = false ∧
    orderIs ready3 3 (fun r => r.source = some 191 ∧ r.dest = 3 ∧ r.alt = none ∧ r.declinedBy = none ∧ r.cls = .standard) ∧
    (ready3.port 191).block = some 1023 ∧ ready3.usable 191 = true ∧ ready3.usable 3 = true ∧ fab.usable 2 = false ∧
    (ready3.vehicle 0).state = .idle ∧ (ready3.vehicle 0).drain = false ∧ (ready3.vehicle 0).holds.head? = some 0 ∧
    (ready3.bay (ready3.block 0).fixed.bay).row[(ready3.static 1023).bay.val] = 0 ∧ ready3.timing.reachStandard = 255 ∧
    [none, some (4 : PortId)].all (fun p => orderIs (outOfPorts p) 3 (fun r => r.source = none ∧ r.bound = some 4 ∧
      (outOfPorts p).usable r.dest = false ∧ r.alt = p) ∧ ((outOfPorts p).vehicle 4).flips = [] ∧
      ((outOfPorts p).vehicle 4).state = .loadedIdle ∧ p.all fun q => !(outOfPorts p).usable q) ∧
    orderIs (withTurn 3) 3 (fun r => r.source = some 191 ∧ (withTurn 3).usable r.dest = false ∧ r.alt = some 3) ∧
    ((withTurn 3).port 191).block = some 1023 ∧ (withTurn 3).usable 3 = true) ∧
    ready3.clean = true ∧ (withTurn 3).clean = true ∧ (∀ w, w ≠ 0 → (ready3.vehicle w).state ≠ .idle) ∧
    ∀ w, ((withTurn 3).vehicle w).state ≠ .idle :=
  ⟨by decide +kernel, ready3_clean, withTurn_clean,
    by simp only [show ∀ w, ready3.vehicle w = fab.vehicle w from fun _ => rfl, fab_vehicle]; decide +kernel,
    by simp only [withTurn_vehicle, setVehicle_read, fab_vehicle]; decide +kernel⟩

theorem test_meets_DispatchDecision : (fab.trigger = false ∧ ready3.mode = .run ∧ ready3.trigger = true ∧
    ready3.queues.hot ++ ready3.queues.express ++ ready3.queues.standard ++ ready3.queues.bulk = [] ++ 3 :: [] ∧ orderIs ready3 3 (fun r => r.source = some 191) ∧
    (fab.setTrigger.queues.scanOrder = [3]) ∧ orderIs fab 3 (fun r => r.dest = 2 ∧ r.alt = none) ∧
    fab.usable 2 = false) ∧ ready3.clean = true ∧ fab.setTrigger.clean = true :=
  ⟨by decide +kernel, ready3_clean, clean_congr fab_clean rfl rfl rfl⟩

theorem test_meets_Promotion :
    orderIs late 3 (fun r => r.flips = [] ∧ r.state = .queued ∧ promoTime late.timing r.cls ≠ 0 ∧
      promoTime late.timing r.cls * 1000 ≤ (late.msBase - r.classEntry).toNat) ∧
    orderIs fab 3 (fun r => (fab.msBase - r.classEntry).toNat < promoTime fab.timing r.cls * 1000) ∧
    fab.order 255 = none := by decide +kernel

/-! ## The map and the mode -/

def blank : State := State.reset

theorem test_meets_WriteBlocks : blank.ready (on 0) .service ∧ blank.mode = .setup ∧
    16 < (List.replicate 17 (blockField 0 0 0 0 0 0 0)).length ∧ blockRecord? (blockField 1024 0 0 0 0 0 0) = none ∧
    blockRecord? (blockField 1 4 0 1 0 0 192) = none ∧
    (List.replicate 16 (blockField 1023 4 31 2 1 1023 191)).mapM blockRecord?
      = some (.replicate 16 (1023, ⟨.port, 31, [1, 1023], some 191⟩)) ∧
    (List.replicate 16 (blockField 1023 4 31 2 1 1023 191)).length ≤ 16 ∧ (blank.block 1023).flips = [] := by decide +kernel

theorem test_meets_WritePortsAndBay : blank.ready (on 0) .service ∧ blank.mode = .setup ∧
    32 < (List.replicate 33 (⟨0, 0⟩ : PortField)).length ∧ 192 ≤ (192 : Byte).toNat ∧
    1024 ≤ (1024 : Half).toNat ∧ (1024 : Half) ≠ 0xFFFF ∧
    [(⟨191, 1023⟩ : PortField), ⟨0, 0xFFFF⟩].mapM portRecord? = some [(191, some 1023), (0, none)] ∧
    32 ≤ (32 : Byte).toNat ∧ 6 ≤ (6 : Byte).toNat ∧ (6 : Byte) ≠ 0xFF ∧ (31 : Byte).toNat = (31 : BayId).val ∧
    (5 : Byte).toNat = (5 : LinkId).val := by decide +kernel

/-- A map of one block, 1023, that is its own successor. -/
def looped : State := { blank with map := blank.map.set 1023 ⟨.lane, 0, [1023], none⟩ }
def orphaned : State := blank.setPort 191 ⟨some 0, false, none⟩
def selfDistant : State := blank.setBay 31 ⟨none, .replicate 32 1⟩

theorem blank_unused (b) : blank.used b = false := by simp [blank, State.used, reset_static]; rfl
theorem blank_port (p) : (blank.port p).block = none := by rw [blank, reset_port]; rfl
theorem blank_bay (a : BayId) : (blank.bay a).row[a.val] = 0 := by revert a; decide +kernel
theorem looped_unused (b : BlockId) (h : b < 1023) : looped.used b = false := by
  have e : looped.static b = blank.static b := by
    have h' : (1023 : Nat) ≠ b.val := fun e => by rw [Fin.lt_def, ← e] at h; exact absurd h (by decide)
    simp only [looped, State.static]; exact Vector.getElem_set_ne _ _ h'
  rw [State.used, e]; exact blank_unused b

theorem orphaned_unused (b) : orphaned.used b = false := by
  rw [State.used, orphaned, setPort_at_static]; exact blank_unused b
theorem orphaned_port (p : PortId) (h : p < 191) : (orphaned.port p).block = none := by
  rw [orphaned, setPort_read, if_neg (by rintro rfl; revert h; decide)]; exact blank_port p
theorem selfDistant_unused (b) : selfDistant.used b = false := by
  rw [State.used, selfDistant, setBay_at_static]; exact blank_unused b
theorem selfDistant_port (p) : (selfDistant.port p).block = none := by
  rw [selfDistant, setBay_at_port]; exact blank_port p
theorem selfDistant_bay (a : BayId) (h : a < 31) : (selfDistant.bay a).row[a.val] = 0 := by
  rw [selfDistant, setBay_read, if_neg (by rintro rfl; revert h; decide)]; exact blank_bay a

/-- Two blocks, 0 of the given kind and 1 a lane, each the other's successor but for what is given. -/
def pair (kind : BlockKind) (first second : List BlockId) : State :=
  { blank with map := (blank.map.set 0 ⟨kind, 0, first, none⟩).set 1 ⟨.lane, 0, second, none⟩ }

theorem pair_static (k f g b) : (pair k f g).static b =
    if b = 1 then ⟨.lane, 0, g, none⟩ else if b = 0 then ⟨k, 0, f, none⟩ else .unused := by
  have e := reset_static b
  simp only [State.static] at e
  simp only [pair, State.static, Vector.getElem_set, Fin.ext_iff, blank, e, eq_comm]
  rfl

/-- Block 0 fails the second, the third and the fourth check; bay 0, with used blocks and no owning link, the fifth. -/
theorem test_meets_CommitMap_reasons : ((pair .lane [1] [0]).ready (on 0) .service ∧ (pair .lane [1] [0]).mode = .setup ∧
    ((pair .lane [1] [0]).bay 0).owner = none) ∧
    ((pair .lane [] [0]).used 0 = true ∧ ((pair .lane [] [0]).static 0).succs = [] ∧
    ((pair .lane [1] [1]).static 0).succs = [1] ∧ (pair .lane [1] [1]).used 1 = true ∧
    (allBlocks.filter fun x => (pair .lane [1] [1]).used x && ((pair .lane [1] [1]).static x).succs.contains 0) = [] ∧
    (allBlocks.filter fun x => (pair .port [1] [0]).used x && ((pair .port [1] [0]).static x).succs.contains 0) = [1] ∧
    (allBlocks.filter fun x => (pair .lane [1] [0]).used x && ((pair .lane [1] [0]).static x).succs.contains 1) = [0] ∧
    ((pair .port [1] [0]).static 0).kind = .port ∧ ((pair .port [1] [0]).static 0).port = none ∧
    ((pair .lane [1] [0]).static 0).bay = 0 ∧ ∀ b, (pair .lane [1] [0]).used b = true → b = 0 ∨ b = 1) :=
  ⟨by decide +kernel, by simp only [State.used, pair_static]; decide +kernel⟩

/-- The map after hard reset passes, having no used block; the others fail at block 1023, port 191 and bay 31. -/
theorem test_meets_CommitMap : (blank.ready (on 0) .service ∧ blank.mode = .setup ∧ looped.ready (on 0) .service ∧
    looped.mode = .setup ∧ looped.used 1023 = true ∧ 1023 ∈ (looped.static 1023).succs ∧
    orphaned.ready (on 0) .service ∧ orphaned.mode = .setup ∧ (orphaned.port 191).block = some 0 ∧
    (orphaned.static 0).kind ≠ .port ∧ selfDistant.ready (on 0) .service ∧ selfDistant.mode = .setup ∧
    (selfDistant.bay 31).row[31] ≠ 0) ∧
    (∀ b, blank.used b = false) ∧ (∀ p, (blank.port p).block = none) ∧ (∀ a : BayId, (blank.bay a).row[a.val] = 0) ∧
    (∀ b, b < 1023 → looped.used b = false) ∧
    (∀ b, orphaned.used b = false) ∧ (∀ p, p < 191 → (orphaned.port p).block = none) ∧
    (∀ b, selfDistant.used b = false) ∧ (∀ p, (selfDistant.port p).block = none) ∧
    ∀ a : BayId, a < 31 → (selfDistant.bay a).row[a.val] = 0 :=
  ⟨by decide +kernel, blank_unused, blank_port, blank_bay, looped_unused, orphaned_unused, orphaned_port,
    selfDistant_unused, selfDistant_port, selfDistant_bay⟩

def empty : State := { rail with mode := .halted }

theorem empty_vehicle (v) : (empty.vehicle v).state = .offline := by
  rw [show empty.vehicle v = .reset from rail_vehicle v]; rfl
theorem rail_flips (b) : (rail.block b).flips = [] := by have h := rail_bare b; simp [bare] at h; exact h.1.1
theorem empty_clean : empty.clean = true :=
  clean_of rail_flips (fun v => by rw [show empty.vehicle v = .reset from rail_vehicle v]; rfl)
    (fun o r e => by rw [show empty.order o = none from rail_order o] at e; cases e)

theorem test_meets_ModeRequests : (fab.ready (on 0) .service ∧ fab.mode ≠ .setup ∧
    (fab.vehicle 0).state ≠ .offline ∧ fab.order 0 ≠ none ∧ empty.ready (on 0) .service ∧ empty.mode = .halted ∧
    fab.mode = .run) ∧ fab.clean = true ∧
    empty.clean = true ∧ (∀ v, (empty.vehicle v).state = .offline) ∧ (∀ o, empty.order o = none) :=
  ⟨by decide +kernel, fab_clean, empty_clean, empty_vehicle, rail_order⟩

theorem test_meets_SoftReset : (fab.ready (on 0) .service ∧ (fab.vehicle 0).state ≠ .offline ∧
    fab.mode = .run ∧ empty.mode ≠ .run) ∧ fab.clean = true ∧ empty.clean = true ∧
    (∀ v, (empty.vehicle v).state = .offline) := ⟨by decide +kernel, fab_clean, empty_clean, empty_vehicle⟩

/-! ## Settings and integrity -/

theorem test_meets_Fences : fab.ready (on 0) .service ∧ 16 ≤ (16 : Byte).toNat ∧ 1024 ≤ (1024 : Half).toNat ∧
    (0 : Half).toNat < (1 : Half).toNat ∧ (15 : Byte).toNat = (15 : FenceId).val ∧ (0 : Half).toNat = (0 : BlockId).val ∧
    (1023 : Half).toNat = (1023 : BlockId).val ∧ (0 : BlockId) ≤ 1023 ∧ (fenceAt 1023).fenced 1023 = true := by decide +kernel

def slow : Timing := { defaultTiming with silence := 0, scrub := 0, promoStandard := 0xFFFF, reachHot := 3 }

/-- A promotion time lowered to a second, which order 3 of `late` has passed. -/
def brisk : Timing := { defaultTiming with promoStandard := 1 }

theorem test_meets_WeightsRateAndClock : (({ slow with offer := 0 } : Timing).offer = 0 ∧
    ({ slow with aging := 0 } : Timing).aging = 0 ∧ slow.offer ≠ 0 ∧ slow.aging ≠ 0 ∧ late.ready (on 0) .service ∧
    promoTime brisk .standard < promoTime late.timing .standard ∧ 3 ∈ late.queues.get .standard ∧
    orderIs late 3 (fun r => promoTime brisk r.cls * 1000 ≤ (late.msBase - r.classEntry).toNat) ∧
    fab.ready (on 0) .service ∧ 200 < (201 : Byte).toNat ∧ (200 : Byte).toNat ≤ 200 ∧
    6 ≤ (6 : Byte).toNat ∧ 5 ≤ (5 : Byte).toNat ∧ (5 : Byte).toNat = (5 : LinkId).val ∧ rate? 4 = some .r921600 ∧
    fab.free (on 3) ∧ (fab.link 3).role = .scheduler ∧ (fab.link 0).role = .service ∧
    ({ fab with divider := 999 } : State).divider = 999 ∧ fab.divider ≠ 999) ∧ fab.clean = true ∧ late.clean = true :=
  ⟨by decide +kernel, fab_clean, clean_congr fab_clean rfl rfl rfl⟩

def topped : State := { fab with idleSeq := 0xFFFFFFFF, submitSeq := 0xFFFFFFFF, waiterSeq := 0xFFFFFFFF }

theorem test_meets_SequenceCounters : ([(5 : Word), 7].length < 0xFFFFFFFF ∧ (5 : Word) ∈ [(5 : Word), 7] ∧ (5 : Word) < 7 ∧
    fab.idleSeq ≠ 0xFFFFFFFF ∧ fab.submitSeq ≠ 0xFFFFFFFF ∧ fab.waiterSeq ≠ 0xFFFFFFFF ∧
    topped.idleSeq = 0xFFFFFFFF ∧ topped.submitSeq = 0xFFFFFFFF ∧ topped.waiterSeq = 0xFFFFFFFF) ∧
    fab.clean = true ∧ topped.clean = true :=
  ⟨by decide +kernel, fab_clean, clean_congr fab_clean rfl rfl rfl⟩

def frozenAt (b : BlockId) : State := fab.updBlock b fun r => { r with frozen := true, holder := .unknown }

theorem frozen_clean (b) : (frozenAt b).clean = true := clean_setBlock fab_clean b (clean_block fab_clean b)

theorem test_meets_Thaw : (fab.ready (on 0) .service ∧ block? 1023 = some 1023 ∧
    (fab.block 1023).frozen = false ∧ ((frozenAt 1023).block 1023).frozen = true ∧
    ((frozenAt 1023).block 1023).waiters = [] ∧ ((frozenAt 5).block 5).frozen = true ∧
    5 ∈ ((frozenAt 5).vehicle 4).holds) ∧ fab.clean = true ∧ (frozenAt 1023).clean = true ∧ (frozenAt 5).clean = true ∧
    (∀ v, 1023 ∉ ((frozenAt 1023).vehicle v).holds) ∧ (∀ w, 5 ∈ ((frozenAt 5).vehicle w).holds → w = 4) :=
  ⟨by decide +kernel, fab_clean, frozen_clean _, frozen_clean _,
    by simp only [frozenAt, State.updBlock, setBlock_at_vehicle, fab_vehicle]; decide +kernel,
    by simp only [frozenAt, State.updBlock, setBlock_at_vehicle, fab_vehicle]; decide +kernel⟩

theorem test_meets_CaptureRequests : fab.ready (on 0) .service := by decide +kernel

def damagedVehicle (v : VehicleId) (s : State) : State := s.updVehicle v fun r => { r with flips := [0, 1] }

theorem damaged_vehicle (v s w) : ((damagedVehicle v s).vehicle w) =
    if w = v then { s.vehicle v with flips := [0, 1] } else s.vehicle w := setVehicle_read _ _ _ _

def scrubAt (r : RecRef) : State := { fab with cursor := r, scrubTimer := some 0 }

theorem test_meets_ScrubStep : (fab.scrubTimer ≠ some 0 ∧ (scrubAt (.block 1022)).scrubTimer = some 0 ∧
    (1022 : BlockId).val < 1023 ∧ (126 : VehicleId).val < 127 ∧ (0 : Slot) ≤ 0 ∧ fab.order 0 ≠ none ∧
    (fab.setOrder 255 (fab.order 3)).order 255 ≠ none ∧
    ({ damagedVehicle 126 fab with cursor := .vehicle 126, scrubTimer := some 0 }.vehicle 126).flips = [0, 1]) ∧
    (∀ r, (scrubAt r).clean = true) ∧
    (∀ x : Slot, 4 ≤ x → fab.order x = none) ∧
    (∀ x : Slot, 4 ≤ x → x < 255 → (fab.setOrder 255 (fab.order 3)).order x = none) :=
  ⟨by decide +kernel, fun _ => clean_congr fab_clean rfl rfl rfl, by simp only [fab_order]; decide +kernel,
    by simp only [setOrder_read, fab_order]; decide +kernel⟩

theorem test_meets_CorrectableErrorIsWrittenBack : (fab.block 1023).flips = [] ∧ (fab.vehicle 127).flips = [] ∧
    orderIs fab 3 (·.flips = []) ∧ fab.order 255 = none := by decide +kernel

theorem test_meets_DamagedBlockFreezes : ((withBlock 1023 fun r => { r with flips := [0, 1] }).block 1023).flips.length = 2 ∧
    (∀ v, (fab.vehicle v).flips = []) := by decide +kernel

theorem test_meets_DamagedVehicleIsRebuilt : (((damagedVehicle 127 blank).vehicle 127).flips.length = 2 ∧
    (damagedVehicle 127 blank).mode = .setup ∧ ((damagedVehicle 127 fab).vehicle 127).flips.length = 2 ∧
    (damagedVehicle 127 fab).mode ≠ .setup) ∧ (∀ b, ((damagedVehicle 127 fab).block b).flips = [] ∧
      ((damagedVehicle 127 fab).block b).holder ≠ .vehicle 127 ∧
      ∀ w ∈ ((damagedVehicle 127 fab).block b).waiters, w.vehicle ≠ 127) ∧
    (∀ o, ((damagedVehicle 127 fab).order o).all fun r =>
      r.flips = [] ∧ r.vehicle ≠ some 127 ∧ r.bound ≠ some 127) :=
  ⟨by decide +kernel, fun b => by
      have h := rail_bare b; simp only [bare, decide_eq_true_eq, Bool.and_eq_true] at h
      rw [show (damagedVehicle 127 fab).block b = rail.block b from fab_block b]
      exact ⟨h.1.1, h.2, by rw [h.1.2]; simp⟩,
    by simp only [damagedVehicle, State.updVehicle, setVehicle_at_order, fab_order]; decide +kernel⟩

/-- The hypotheses of the general rebuild: `work` and `bound` as the tables of orders have them. -/
def rebuilds (s : State) (v : VehicleId) (held : List BlockId) (wait : Option BlockId)
    (work bound : Option (Slot × OrderRec)) : Prop :=
  (s.mode ≠ .setup ∧ (s.vehicle v).flips.length = 2) ∧ (∀ b, (s.block b).flips = []) ∧
    (∀ w, w ≠ v → (s.vehicle w).flips = []) ∧ (∀ o, (s.order o).all (·.flips = [])) ∧
    held = (List.finRange 1024).filter (fun b => (s.block b).holder = .vehicle v) ∧
    (∀ b, wait = some b ↔ ∃ w ∈ (s.block b).waiters, w.vehicle = v) ∧
    (∀ o, (s.order o).all fun r => (r.vehicle = some v → work = some (o, r)) ∧
      (r.state = .queued → r.bound = some v → bound = some (o, r))) ∧
    (work.all fun x => s.order x.1 = some x.2 ∧ x.2.vehicle = some v ∧ x.2.state ≠ .queued) ∧
    bound.all fun x => s.order x.1 = some x.2 ∧ x.2.state = .queued ∧ x.2.bound = some v

/-- Vehicle 4 holds the chain of blocks 5 and 6, waits on block 9 and has order 3 bound to it. -/
def wreck : State := damagedVehicle 4 (bindable.updBlock 9 fun r => { r with waiters := [⟨4, 1, 0⟩] })

/-- Vehicle 4 is the holder of blocks 5 and 9, which are no chain. -/
def scattered : State :=
  damagedVehicle 4 ((fab.updBlock 6 fun r => { r with holder := .none }).updBlock 9 fun r => { r with holder := .vehicle 4 })

theorem rail_holder (b) : (rail.block b).holder =
    if b = 0 then .vehicle 0 else if b = 1 then .none else if b = 2 then .vehicle 1 else if b = 3 then .vehicle 2
    else if b = 4 then .vehicle 5 else if b = 5 then .vehicle 4 else if b = 6 then .vehicle 4
    else if b = 7 then .vehicle 3 else if b = 8 then .vehicle 6 else if b = 9 then .none
    else if b = 1023 then .none else .none := by
  simp only [rail, lay_block, apply_ite BlockRec.holder, show depot.block b = .reset from reset_block b]; rfl
theorem rail_waiters (b) : (rail.block b).waiters = [] := by have h := rail_bare b; simp [bare] at h; exact h.1.2

theorem wreck_block (b) : wreck.block b = if b = 9 then { rail.block 9 with waiters := [⟨4, 1, 0⟩] } else rail.block b := by
  simp only [wreck, damagedVehicle, State.updVehicle, setVehicle_at_block, State.updBlock, setBlock_read, bindable,
    State.updOrder, fab_order, fabOrder, setOrder_at_block, fab_block]
theorem wreck_order (o) : wreck.order o = if o = 3 then
    (fabOrder 3).map (fun r => { r with source := none, bound := some 4, carrier := carrierB, dest := 191 }) else fabOrder o := by
  simp only [wreck, damagedVehicle, State.updVehicle, setVehicle_at_order, State.updBlock, setBlock_at_order, bindable,
    State.updOrder, fab_order, setOrder_read]
theorem scattered_order (o) : scattered.order o = fabOrder o := by
  simp only [scattered, damagedVehicle, State.updVehicle, setVehicle_at_order, State.updBlock, setBlock_at_order, fab_order]
theorem scattered_block (b) : scattered.block b = if b = 9 then { rail.block 9 with holder := .vehicle 4 }
    else if b = 6 then { rail.block 6 with holder := .none } else rail.block b := by
  simp only [scattered, damagedVehicle, State.updVehicle, setVehicle_at_block, State.updBlock, setBlock_read, fab_block]; rfl

theorem test_meets_DamagedVehicleIsRebuilt_chain :
    rebuilds wreck 4 [5, 6] (some 9) none ((wreck.order 3).map ((3 : Slot), ·)) ∧ (wreck.order 3).isSome ∧
    6 ∈ (wreck.static 5).succs ∧ 5 ∉ (wreck.static 5).succs ∧ 5 ∉ (wreck.static 6).succs := by
  refine ⟨⟨by decide +kernel, fun b => ?_, fun w h => ?_, ?_, ?_, fun b => ?_, ?_, by decide +kernel, by decide +kernel⟩,
    by decide +kernel⟩
  · rw [wreck_block]; split <;> exact rail_flips _
  · rw [wreck, damaged_vehicle, if_neg h]; exact clean_vehicle fab_clean w
  · simp only [wreck_order]; decide +kernel
  · simp only [wreck_block, apply_ite BlockRec.holder, rail_holder]; decide +kernel
  · simp only [wreck_block, apply_ite BlockRec.waiters, rail_waiters]; split <;> simp [*, eq_comm]
  · simp only [wreck_order]; decide +kernel

theorem test_meets_DamagedVehicleIsRebuilt_work :
    rebuilds (damagedVehicle 3 fab) 3 [7] none ((fab.order 2).map ((2 : Slot), ·)) none ∧ (fab.order 2).isSome := by
  have eb b : (damagedVehicle 3 fab).block b = rail.block b := fab_block b
  refine ⟨⟨by decide +kernel, fun b => ?_, fun w h => ?_, ?_, ?_, fun b => ?_, ?_, by decide +kernel, by decide +kernel⟩,
    by decide +kernel⟩
  · rw [eb]; exact rail_flips _
  · rw [damaged_vehicle, if_neg h]; exact clean_vehicle fab_clean w
  · simp only [damagedVehicle, State.updVehicle, setVehicle_at_order, fab_order]; decide +kernel
  · simp only [eb, rail_holder]; decide +kernel
  · simp [eb, rail_waiters]
  · simp only [damagedVehicle, State.updVehicle, setVehicle_at_order, fab_order]; decide +kernel

theorem test_meets_DamagedVehicleIsRebuilt_broken : rebuilds scattered 4 [5, 9] none none none ∧
    ∀ chain : List BlockId, chain.Nodup → (∀ b, b ∈ chain ↔ b ∈ [(5 : BlockId), 9]) →
      ¬∀ x ∈ chain.zip chain.tail, x.2 ∈ (scattered.static x.1).succs := by
  refine ⟨⟨by decide +kernel, fun b => ?_, fun w h => ?_, ?_, ?_, fun b => ?_, ?_, by decide, by decide⟩, fun c hn hm h => ?_⟩
  · rw [scattered_block]; repeat' split
    all_goals exact rail_flips _
  · rw [scattered, damaged_vehicle, if_neg h]; exact clean_vehicle fab_clean w
  · simp only [scattered_order]; decide +kernel
  · simp only [scattered_block, apply_ite BlockRec.holder, rail_holder]; decide +kernel
  · simp [scattered_block, apply_ite BlockRec.waiters, rail_waiters]
  · simp only [scattered_order]; decide +kernel
  · have p := (List.perm_ext_iff_of_nodup hn (by decide)).mpr hm
    match c, p.length_eq, hm, h with
    | [x, y], _, hm, h =>
      have hx := (hm x).mp (by simp); have hy := (hm y).mp (by simp); have hz := h (x, y) (by simp)
      revert hz; simp only [List.mem_cons, List.not_mem_nil, or_false] at hx hy
      rcases hx with rfl | rfl <;> rcases hy with rfl | rfl <;> decide +kernel

theorem test_meets_DamagedOrderIsFreed :
    orderIs (fab.updOrder 3 fun r => { r with flips := [0, 1] }) 3 (fun r => r.flips.length = 2) ∧
    (∀ v, (fab.vehicle v).flips = []) ∧ (∀ v, (fab.vehicle v).order ≠ some 3) ∧ (fab.vehicle 2).order = some 1 ∧
    (∀ w, (fab.vehicle w).order = some 1 → w = 2) ∧ (fab.vehicle 2).state = .toSource ∧ (fab.vehicle 1).state = .offered ∧
    (fab.vehicle 1).carrier = .none ∧ (boundOffer.vehicle 4).state = .offered ∧ (boundOffer.vehicle 4).carrier ≠ .none ∧
    (fab.vehicle 3).state = .toDest ∧ ((stalledFrom .toDest (some 2)).vehicle 6).state = .stalled ∧
    ((stalledFrom .toDest (some 2)).vehicle 6).saved = some .toDest := by decide +kernel

/-! ## Requests that meet a damaged record -/

def damagedOrder (o : Slot) (s : State) : State := s.updOrder o fun r => { r with flips := [0, 1] }
def damagedBlock (b : BlockId) : State := withBlock b fun r => { r with flips := [0, 1] }

/-- STATUS and the queries, CLAIM, POSITION, RELEASE_AHEAD, JOIN, LEAVE, HEARTBEAT, FAULT, RECOVER, DRAIN, RESTORE, EVICT, the
handshake, REOPEN_MAP and SOFT_RESET about a vehicle whose record is damaged, with operands in range. -/
theorem test_meets_damaged_vehicle : (damagedVehicle 0 fab).free (on 1) ∧ (damagedVehicle 0 fab).ready (on 1) .bay ∧
    (damagedVehicle 0 fab).ready (on 0) .service ∧ ((damagedVehicle 0 fab).vehicle 0).flips.length = 2 ∧
    ((fab.updVehicle 0 fun r => { r with flips := [7] }).vehicle 0).flips.length = 1 ∧ vehicle? 0 = some 0 ∧
    (damagedVehicle 0 fab).mode = .run ∧ block? 0 = some 0 ∧ (damagedVehicle 0 fab).used 0 = true ∧
    (damagedVehicle 0 fab).bayOwner 0 = some (on 1).link ∧ [(1 : Half), 2].mapM block? = some [1, 2] ∧
    [(1 : BlockId), 2].all (damagedVehicle 0 fab).used = true ∧ (5 : Byte).toNat ≤ 5 ∧
    (0 : Byte).toNat = (0 : VehicleId).val ∧ carrier? noChars = some .none ∧ slot? 0 = some 0 ∧ block? 9 = some 9 ∧
    blockOrNone? 1 = some (some 1) ∧ (∀ w : VehicleId, ¬w < 0) ∧ (damagedVehicle 0 fab).mode ≠ .setup ∧
    (let s := (damagedVehicle 0 fab).updVehicle 0 fun r => { r with silence := some 0 }
     (s.vehicle 0).silence = some 0 ∧ (s.vehicle 0).state = .idle ∧ (s.vehicle 0).flips.length = 2) ∧
    (let s := (damagedVehicle 1 fab).updVehicle 1 fun r => { r with offer := some 0 }
     (s.vehicle 1).offer = some 0 ∧ (s.vehicle 1).state = .offered ∧ (s.vehicle 1).flips.length = 2) ∧
    (damagedVehicle 3 blank).ready (on 0) .service ∧ ((damagedVehicle 3 blank).vehicle 3).flips.length = 2 ∧
    (damagedVehicle 3 blank).mode = .setup := by decide +kernel

/-- The state in which a vehicle that the rebuild finds nowhere on the rail has been reported, before it is rebuilt. -/
def missing : State :=
  ((damagedVehicle 127 fab).captureError (.vehicle 127) .uncorrectable .access).notifyIntegrity .record (.vehicle 127) .access none

theorem missing_clean : (missing.setVehicle 127 .lost).clean = true := by
  refine clean_congr (clean_setVehicle fab_clean 127 (r := VehicleRec.lost) rfl) ?_ ?_ ?_ <;>
    simp [missing, damagedVehicle, State.updVehicle, State.setVehicle]

theorem missing_read : read (.vehicle 127) (damagedVehicle 127 fab) =
    (missing.repairVehicle (readNested 1408 .access) .access 127, true) := by
  have hf : ((damagedVehicle 127 fab).vehicle 127).flips = [0, 1] := by decide +kernel
  simp [read_step, State.readWith, hf, checkVehicle, State.repair, missing]

/-- EVICT of a damaged vehicle goes on, from a state with no damaged record, the vehicle STALLED. -/
theorem test_meets_Evict_damaged : (damagedVehicle 127 fab).ready (on 0) .service ∧ vehicle? 127 = some 127 ∧
    ((damagedVehicle 127 fab).vehicle 127).flips.length = 2 ∧ (read (.vehicle 127) (damagedVehicle 127 fab)).1.clean = true ∧
    ((read (.vehicle 127) (damagedVehicle 127 fab)).1.vehicle 127).state = .stalled := by
  have h := repairVehicle_unmentioned 1407 .access (show missing.mode ≠ .setup by decide +kernel) missing_clean
    (fun b => by
      have h := rail_bare b; simp only [bare, decide_eq_true_eq, Bool.and_eq_true] at h
      rw [show missing.block b = rail.block b by simp [missing, damagedVehicle, State.updVehicle, fab_block]]
      exact ⟨h.2, by rw [h.1.2]; rfl⟩)
    (by decide +kernel)
  rw [missing_read, h]
  refine ⟨by decide +kernel, by decide +kernel, by decide +kernel, ?_, ?_⟩
  · exact clean_congr (clean_setVehicle missing_clean 127 (r := { VehicleRec.lost with
      carrier := (missing.setVehicle 127 .lost).rebuiltCarrier 127 none }) rfl) rfl (by simp [State.updVehicle]) rfl
  · simp [State.updVehicle, VehicleRec.lost]

/-- Requests about an order whose record is damaged, in each of its states, and a submission beside it. -/
theorem test_meets_damaged_order : [(0 : Slot), 1, 2, 3].all (fun o =>
    (damagedOrder o fab).ready (on 3) .scheduler ∧ (damagedOrder o fab).ready (on 1) .bay ∧
    orderIs (damagedOrder o fab) o (fun r => r.flips.length = 2)) ∧
    orderIs (fab.updOrder 3 fun r => { r with flips := [7] }) 3 (fun r => r.flips.length = 1) ∧ slot? 3 = some 3 ∧
    cls? 3 = some .bulk ∧ port? 4 = some 4 ∧ portOrNone? 0xFF = some none ∧ (fab.port 4).block ≠ none ∧
    [((0 : Slot), (1 : VehicleId), VState.offered), (1, 2, .toSource), (2, 3, .toDest)].all (fun (o, v, st) =>
      ((damagedOrder o fab).vehicle v).order = some o ∧ ((damagedOrder o fab).vehicle v).owner = some (on 1).link ∧
      ((damagedOrder o fab).vehicle v).state = st ∧ ((damagedOrder o fab).vehicle v).flips = []) := by decide +kernel

/-- CANCEL_ORDER and REDIRECT_ORDER of an order whose vehicle's record is damaged. -/
theorem test_meets_damaged_vehicle_of_order : (damagedVehicle 2 fab).ready (on 3) .scheduler ∧
    orderIs (damagedVehicle 2 fab) 1 (fun r => r.flips = [] ∧ r.tag = 7 ∧ r.origin = (on 3).link ∧ r.state = .toSource ∧
      r.vehicle = some 2 ∧ r.source ≠ some 191) ∧ ((damagedVehicle 2 fab).vehicle 2).flips.length = 2 ∧
    ((damagedVehicle 2 fab).port 191).down = false ∧ ((damagedVehicle 2 fab).port 191).reservation = none := by
  decide +kernel

theorem damagedOrder_read (o x s) : (damagedOrder o s).order x =
    if x = o then (s.order o).map (fun r => { r with flips := [0, 1] }) else s.order x := setOrder_read _ _ _ _

/-- QUERY_ORDER by tag past a damaged order, a match above it and no match. -/
theorem test_meets_QueriesReport_damaged : ((damagedOrder 0 fab).free (on 3) ∧
    orderIs (damagedOrder 0 fab) 0 (fun r => r.flips.length = 2) ∧ (0 : Slot) < 1 ∧
    tagged 3 7 ((damagedOrder 0 fab).order 1) = true ∧ (∀ x : Slot, ¬(x < 1 ∧ x ≠ 0))) ∧
    (∀ v, ((damagedOrder 0 fab).vehicle v).flips = []) ∧
    (∀ x, x ≠ 0 → ((damagedOrder 0 fab).order x).all fun r => r.flips = []) ∧
    ∀ x, tagged 3 0xFFFF ((damagedOrder 0 fab).order x) = false :=
  ⟨by decide +kernel, fun v => clean_vehicle fab_clean v, by simp only [damagedOrder_read, fab_order]; decide +kernel,
    by simp only [damagedOrder_read, fab_order]; decide +kernel⟩

theorem rail_clean : rail.clean = true :=
  clean_of rail_flips (fun v => by rw [rail_vehicle]; rfl) (fun o r e => by rw [rail_order] at e; cases e)

/-- An order that has been damaged in the book of a rail with no vehicle. -/
def lostJob : State :=
  rail.setOrder 3 (some { job (some 191) 2 .queued carrierE none none 4 with flips := [0, 1] })

theorem lostJob_order (x) : lostJob.order x =
    if x = 3 then some { job (some 191) 2 .queued carrierE none none 4 with flips := [0, 1] } else none := by
  rw [lostJob, setOrder_read, rail_order]

/-- A submission whose reads free a damaged order and leave no other. -/
theorem test_meets_SubmitOrder_damaged :
    (lostJob.ready (on 3) .scheduler ∧ lostJob.mode ≠ .setup ∧ orderIs lostJob 3 (fun r => r.flips.length = 2) ∧
    (lostJob.port 0).block ≠ none ∧ (lostJob.port 191).block ≠ none) ∧
    (((List.finRange 256).filter fun o => (lostJob.order o).isSome).foldl (fun u o => (read (.order o) u).1)
      lostJob).clean = true := by
  refine ⟨by decide +kernel, ?_⟩
  have e : ((List.finRange 256).filter fun o => (lostJob.order o).isSome) = [3] := by
    simp only [lostJob_order]; decide +kernel
  have hr (t : State) (ht : t.vehicles = rail.vehicles) (v) : readNested 1408 .access (.vehicle v) t = (t, false) := by
    refine readNested_clean 1407 _ _ _ ?_
    have h : t.vehicle v = .reset := (show t.vehicle v = rail.vehicle v by simp [State.vehicle, ht]).trans (rail_vehicle v)
    simp [State.cleanAt, h, VehicleRec.reset]
  have hn (t : State) (ht : t.vehicles = rail.vehicles) (v) : (t.vehicle v).order ≠ some 3 := by
    have h : t.vehicle v = .reset := (show t.vehicle v = rail.vehicle v by simp [State.vehicle, ht]).trans (rail_vehicle v)
    simp [h, VehicleRec.reset]
  rw [e, List.foldl_cons, List.foldl_nil, read_step]
  simp only [State.readWith, lostJob_order, ↓reduceIte, checkOrder, State.repair, State.repairOrder, List.length_cons,
    List.length_nil, List.cons_ne_nil]
  rw [releaseVehiclesOf_unnamed (hr _ ?_) (hn _ ?_)]
  · have h : (rail.setOrder 3 none).clean = true := clean_setOrder rail_clean 3 (x := none) fun _ e => nomatch e
    refine clean_congr h ?_ ?_ ?_ <;>
      simp [lostJob, State.freeOrder, State.releaseAllPorts, State.leaveQueue, State.setOrder]
  all_goals simp [lostJob, State.freeOrder, State.releaseAllPorts, State.leaveQueue]

/-- Requests that meet a damaged block record: the named block of QUERY_BLOCK, JOIN, THAW and WRITE_BLOCKS, a listed block of
CLAIM, a block behind the reported one of POSITION, and a block ahead of RELEASE_AHEAD. -/
theorem test_meets_damaged_block : ((damagedBlock 1023).free (on 1) ∧ (damagedBlock 1023).ready (on 1) .bay ∧
    (damagedBlock 1023).ready (on 0) .service ∧ ((damagedBlock 1023).block 1023).flips.length = 2 ∧
    ((withBlock 1023 fun r => { r with flips := [7] }).block 1023).flips.length = 1 ∧
    (∀ f, ((damagedBlock 1023).fence f).covers 1023 = false) ∧ (damagedBlock 1023).used 1023 = true ∧
    (damagedBlock 1023).bayOwner 1023 = some (on 1).link ∧ ((damagedBlock 1023).vehicle 127).state = .offline ∧
    (damagedBlock 2).grantable [1] = true ∧ (damagedBlock 2).fenced 2 = false ∧ ((damagedBlock 2).block 2).flips.length = 2 ∧
    [1, 2] = [1] ++ (2 : BlockId) :: [] ∧
    ((damagedBlock 5).vehicle 4).holds.takeWhile (· ≠ 6) = [] ++ 5 :: [] ∧ ((damagedBlock 5).block 5).flips.length = 2 ∧
    ((damagedBlock 6).vehicle 4).holds.reverse.take 1 = [] ++ 6 :: [] ∧ ((damagedBlock 6).block 6).flips.length = 2 ∧
    (damagedBlock 5).quiet [] = true ∧ (damagedBlock 6).waitClean 4 = true) ∧
    ∀ b v, ((damagedBlock b).vehicle v).flips = [] :=
  ⟨by decide +kernel, fun _ v => clean_vehicle fab_clean v⟩

theorem test_meets_Promotion_damaged : orderIs (damagedOrder 3 late) 3 (fun r => r.flips.length = 2 ∧ r.state = .queued ∧
    promoTime late.timing r.cls ≠ 0 ∧ promoTime late.timing r.cls * 1000 ≤ (late.msBase - r.classEntry).toNat) := by
  decide +kernel

/-- A lane of two blocks in RUN, vehicle 0 IDLE on the first. -/
def lone : State :=
  (lay 0 1023 none (.vehicle 0) <| lay 1023 0 none .none depot).setVehicle 0 (car .idle [0] none .none)

theorem lone_block (b) : lone.block b =
    if b = 0 then ⟨⟨.lane, 0, [1023], none⟩, .vehicle 0, false, [], []⟩
    else if b = 1023 then ⟨⟨.lane, 0, [0], none⟩, .none, false, [], []⟩ else .reset := by
  rw [lone, setVehicle_at_block, lay_block, lay_block, show depot.block b = .reset from reset_block b]; rfl
theorem lone_vehicle (v) : lone.vehicle v = if v = 0 then car .idle [0] none .none else .reset := by
  rw [lone, setVehicle_read, lay_vehicle, lay_vehicle, show depot.vehicle v = .reset from reset_vehicle v]
theorem lone_order (o) : lone.order o = none := by
  rw [lone, setVehicle_at_order, lay_order, lay_order]; exact reset_order o
theorem lone_port (p) : lone.port p = .reset := reset_port p
theorem lone_holds {v b} : b ∈ (lone.vehicle v).holds ↔ v = 0 ∧ b = 0 := by
  rw [lone_vehicle]; split
  · simp [car, *]
  · simp [VehicleRec.reset, *]
theorem lone_waits (v) : (lone.vehicle v).waitingOn = none := by rw [lone_vehicle]; split <;> rfl
theorem lone_waiters (b) : (lone.block b).waiters = [] := by
  rw [lone_block]; repeat' split
  all_goals rfl

theorem lay_static (b n p h s x) : (lay b n p h s).static x =
    if x = b then ⟨if p.isSome then .port else .lane, 0, [n], p⟩ else s.static x := by
  cases p <;> simp [lay, State.static, State.setBlock, State.setPort, Vector.getElem_set, Fin.ext_iff, eq_comm]
theorem lone_static (b) : lone.static b =
    if b = 0 then ⟨.lane, 0, [1023], none⟩ else if b = 1023 then ⟨.lane, 0, [0], none⟩ else .unused := by
  rw [lone, setVehicle_at_static, lay_static, lay_static, show depot.static b = .unused from reset_static b]; rfl
theorem lone_queue (c) : lone.queues.get c = [] := by cases c <;> rfl

theorem lone_lawful : lone.lawful := by
  refine ⟨⟨fun h => absurd h (by decide), fun _ b => ?_⟩, ⟨fun b => ⟨?_, fun _ => lone_waiters b, fun _ v => ?_⟩, fun v w b => ?_⟩,
    fun v => ?_, ⟨fun v b => ?_, fun v b h => ?_, fun b => ?_⟩, fun v => ?_, ⟨fun v o => ?_, fun o r e => ?_⟩,
    fun c => ⟨fun o => ?_, ?_⟩, fun p o k => ?_⟩
  · rw [State.used, State.bayOwner, lone_static]; repeat' split
    all_goals decide
  · rw [lone_block]; repeat' split
    all_goals decide
  · rw [lone_holds, lone_block]; split
    · next h => exact ⟨fun e => ⟨(Holder.vehicle.inj e).symm, h⟩, fun e => by rw [e.1]⟩
    · next h => refine ⟨fun e => absurd e ?_, fun e => absurd e.2 h⟩; split <;> nofun
  · simp only [lone_holds]; rintro ⟨rfl, _⟩ ⟨rfl, _⟩; rfl
  · rw [lone_vehicle]; split
    · simp [car, State.used, lone_static]
    · simp [VehicleRec.reset]
  · simp [lone_waits, lone_waiters]
  · rw [lone_waits] at h; cases h
  · simp [lone_waiters]
  · rw [lone_vehicle]; split <;> simp [VehicleRec.reset, car]
  · rw [lone_vehicle, lone_order]; split <;> simp [VehicleRec.reset, car]
  · rw [lone_order] at e; cases e
  · simp [lone_order, lone_queue]
  · simp [lone_queue]
  · rw [lone_port, lone_order]; simp [PortRec.reset]

theorem test_meets_LawsAreKept : lone.lawful ∧ lone.fewFlips ∧ after (·.msBase) (step lone) = some 1 :=
  ⟨lone_lawful, ⟨fun b => by rw [lone_block]; repeat' split
                             all_goals decide,
    fun v => by rw [lone_vehicle]; split <;> decide, fun o r e => by rw [lone_order] at e; cases e⟩, by decide +kernel⟩

theorem test_meets_SoundStateIsKept : fab.sound = true ∧ ({ fab with pending := [.linkReset 1] } : State).sound = true := by
  decide +kernel

theorem test_meets_MapAndRolesAreKept : fab.pending = [] ∧ fab.mode ≠ .setup := by decide +kernel

/-! ## One small step a family -/

theorem test_heartbeat_of_a_stalled_vehicle : said 1 (exec (.heartbeat (on 1) 6) fab) =
    some (.ok, [7, 0, 1, 0, 0xFF, 0xFF, 1]) := by decide +kernel

theorem test_decline_requeues : said 1 (exec (.decline (on 1) 1 0) fab) = some (.ok, [1]) ∧
    after (fun s => (s.queues.standard, (s.port 2).reservation, s.idleSeq, s.trigger)) (exec (.decline (on 1) 1 0) fab) =
      some ([0, 3], none, 2, true) := by decide +kernel

theorem test_claim_waits : said 1 (exec (.claim (on 1) 0 [1, 2]) fab) = some (.queued, [0, 1, 0, 2, 0xFF]) ∧
    after (fun s => ((s.vehicle 0).holds, (s.vehicle 0).waitingOn, (s.block 2).waiters)) (exec (.claim (on 1) 0 [1, 2]) fab)
      = some ([0, 1], some 2, [⟨0, 1, 0⟩]) := by decide +kernel

theorem test_position_releases_rear_first : said 1 (exec (.position (on 1) 4 6) fab) = some (.ok, [1, 0xFF, 0xFF]) ∧
    after (fun s => ((s.vehicle 4).holds, (s.block 5).holder)) (exec (.position (on 1) 4 6) fab) = some ([6], .none) := by
  decide +kernel

theorem test_two_flips_freeze_a_block :
    after (fun s => ((s.block 2).frozen, (s.block 2).holder, s.capture.isSome))
      (exec (.queryBlock (on 0) 2) (withBlock 2 fun r => { r with flips := [0, 9] })) = some (true, .unknown, true) := by
  decide +kernel

/-- R72 comes first: a FAULT whose order record is damaged saves the state, and the repair leaves the vehicle STALLED. -/
theorem test_fault_with_a_damaged_order :
    let s := fab.updOrder 1 fun r => { r with flips := [0, 9] }
    said 1 (exec (.fault (on 1) 2) s) = some (.integrity, [1, 0xFF, 0xFF, 0xFF]) ∧
    after (fun s => ((s.vehicle 2).state, (s.vehicle 2).cause, (s.vehicle 2).saved, (s.vehicle 2).order, s.idleSeq))
      (exec (.fault (on 1) 2) s) = some (.stalled, some .fault, some .idle, none, fab.idleSeq) := by decide +kernel

/-- R37: the waiters of a block of a broken chain are told head first. -/
theorem test_broken_chain_tells_waiters_head_first :
    let s := contest.updBlock 9 fun r => { r with waiters := [⟨1, 1, 0⟩, ⟨0, 2, 0⟩] }
    ((s.freezeChain read .access 4 [9]).link 1).queue =
      [.waitCancelled 1 9 .frozen 1, .waitCancelled 0 9 .frozen 1] ∧
    ((s.freezeChain read .access 4 [9]).block 9).waiters = [] := by decide +kernel

theorem test_heartbeat_frame_arrives :
    said 1 (exec (.characterReceived 1 0xC2 false) (hearing (.check 3 [0x2C, 5, 0x0C] (some 0xD2)))) =
      some (.notYours, []) := by decide +kernel

end Sys2Proof.Tests
end

section
/-! The map writes of ports and bays: what an operand out of range makes of a request, and WRITE_PORTS and WRITE_BAY
whole (R6, R7). -/

namespace Sys2Proof.Machine

/-! ## Operands in and out of range (R166 stage 3, R177) -/

theorem below_val {n : Nat} (a : Fin n) : below n a.val = some a := by simp [below]

theorem below_of_eq_val {n k : Nat} {a : Fin n} (h : k = a.val) : below n k = some a := by rw [h, below_val]

theorem below_eq_none {n k : Nat} (h : n ≤ k) : below n k = none := by simp [below, h]

theorem blockOrNone?_eq_none {x : Half} (hge : 1024 ≤ x.toNat) (hne : x ≠ 0xFFFF) : blockOrNone? x = none := by
  have hb : block? x = none := below_eq_none hge
  rw [blockOrNone?, if_neg hne, hb, Option.map_none]

theorem linkOrNone?_eq_none {x : Byte} (hge : 6 ≤ x.toNat) (hne : x ≠ 0xFF) : linkOrNone? x = none := by
  have hl : link? x = none := below_eq_none hge
  rw [linkOrNone?, if_neg hne, hl, Option.map_none]

@[simp] theorem linkOrNone?_none : linkOrNone? 0xFF = some none := rfl

theorem linkOrNone?_link {x : Byte} {l : LinkId} (h : x.toNat = l.val) : linkOrNone? x = some (some l) := by
  have hne : x ≠ 0xFF := by
    rintro rfl
    exact absurd h (Nat.ne_of_gt (Nat.lt_trans l.isLt (by decide)))
  have hl : link? x = some l := below_of_eq_val h
  rw [linkOrNone?, if_neg hne, hl, Option.map_some]

/-- R6: one port record has a field out of range. -/
theorem portRecord?_eq_none {r : PortField}
    (h : 192 ≤ r.port.toNat ∨ (1024 ≤ r.block.toNat ∧ r.block ≠ 0xFFFF)) : portRecord? r = none := by
  rcases h with hport | ⟨hge, hne⟩
  · have hp : port? r.port = none := below_eq_none hport
    rw [portRecord?, hp, Option.bind_none]
  · rw [portRecord?, blockOrNone?_eq_none hge hne]
    simp

/-- A list of records with one out of range is out of range as a whole. -/
theorem mapM_eq_none_of_mem {α β : Type} {f : α → Option β} {x : α} (hf : f x = none) :
    ∀ {xs : List α}, x ∈ xs → xs.mapM f = none
  | y :: ys, hx => by
    rw [List.mapM_cons]
    rcases List.mem_cons.mp hx with rfl | hys
    · rw [hf]; rfl
    · rw [mapM_eq_none_of_mem hf hys]
      cases f y <;> rfl

@[simp] theorem inRange_none {α : Type} (s : State) (go : α → State × Answer) :
    inRange none s go = (s, .plain .range) := rfl

@[simp] theorem inRange_some {α : Type} (a : α) (s : State) (go : α → State × Answer) :
    inRange (some a) s go = go a := rfl

/-! ## Requests that are taken -/

/-- R166: a link of a role and in a mode that permit the kind has its request taken. -/
theorem takes_of_ready {s : State} {h : Hdr} {r : Role} {kind : ReqKind} (hr : s.ready h r)
    (hp : ReqKind.permits kind r = true) (hm : ReqKind.allowedIn kind s.mode = true) : s.takes h kind := by
  obtain ⟨hrole, hfits, hslot⟩ := hr
  exact ⟨hrole ▸ hp, hm, hfits, hslot⟩

/-- A request whose own checks turn it away leaves the state with the refusal as its reply. -/
theorem request_answered_plain {s : State} {h : Hdr} {kind : ReqKind} (ht : s.takes h kind) {code : ResultCode}
    {body : State → State × Answer} (hb : ∀ t, body t = (t, .plain code)) :
    s.request h kind body = .next (s.answered h kind code []) :=
  request_answered ht body s (.plain code) (hb _)

/-! ## WRITE_PORTS (R6) -/

theorem exec_writePorts (h : Hdr) (records : List PortField) (s : State) :
    exec (.writePorts h records) s = execWritePorts h records s := rfl

/-- R6: one placement written into the Map Store, the DOWN flag and the reservation kept. -/
def placed (ps : Vector PortRec 192) (x : PortId × Option BlockId) : Vector PortRec 192 :=
  ps.set x.1.val { ps[x.1.val] with block := x.2 }

theorem writePort_eq (s : State) (x : PortId × Option BlockId) :
    s.writePort x = { s with ports := placed s.ports x } := rfl

/-- R6: the placements in list order change the port table alone. -/
theorem foldl_writePort (rs : List (PortId × Option BlockId)) (s : State) :
    rs.foldl State.writePort s = { s with ports := rs.foldl placed s.ports } := by
  induction rs generalizing s with
  | nil => rfl
  | cons x rs ih => rw [List.foldl_cons, ih, writePort_eq, List.foldl_cons]

theorem execWritePorts_range {h : Hdr} {records : List PortField} {s : State} (ht : s.takes h .writePorts)
    (hbad : records = [] ∨ 32 < records.length ∨ records.mapM portRecord? = none) :
    execWritePorts h records s = .next (s.answered h .writePorts .range []) := by
  refine request_answered_plain ht fun t => ?_
  by_cases hlen : records = [] ∨ 32 < records.length
  · rw [if_pos hlen]
  · have hnone : records.mapM portRecord? = none := (or_assoc.mpr hbad).resolve_left hlen
    rw [if_neg hlen, hnone, inRange_none]

theorem execWritePorts_ok {h : Hdr} {records : List PortField} {rs : List (PortId × Option BlockId)} {s : State}
    (ht : s.takes h .writePorts) (hne : records ≠ []) (hlen : records.length ≤ 32)
    (hrs : records.mapM portRecord? = some rs) :
    execWritePorts h records s =
      .next ({ s with ports := rs.foldl placed s.ports, committed := false }.answered h .writePorts .ok
        [.ofNat 8 rs.length]) := by
  have hgo : ¬(records = [] ∨ 32 < records.length) := not_or.mpr ⟨hne, Nat.not_lt.mpr hlen⟩
  refine request_answered ht _ { s with ports := rs.foldl placed s.ports, committed := false }
    ⟨.ok, [.ofNat 8 rs.length]⟩ ?_
  rw [if_neg hgo, hrs, inRange_some, foldl_writePort]
  rfl

/-! ## WRITE_BAY (R7) -/

theorem exec_writeBay (h : Hdr) (bay owner : Byte) (row : Vector Byte 32) (s : State) :
    exec (.writeBay h bay owner row) s = execWriteBay h bay owner row s := rfl

theorem execWriteBay_range {h : Hdr} {bay owner : Byte} {row : Vector Byte 32} {s : State}
    (ht : s.takes h .writeBay) (hbad : bay? bay = none ∨ linkOrNone? owner = none) :
    execWriteBay h bay owner row s = .next (s.answered h .writeBay .range []) := by
  refine request_answered_plain ht fun t => ?_
  rcases hbad with hbay | howner
  · rw [hbay, inRange_none]
  · rw [howner]
    cases bay? bay with
    | none => rfl
    | some a => rfl

theorem execWriteBay_ok {h : Hdr} {bay owner : Byte} {row : Vector Byte 32} {s : State} {a : BayId}
    {l : Option LinkId} (ht : s.takes h .writeBay) (hbay : bay.toNat = a.val) (howner : linkOrNone? owner = some l) :
    execWriteBay h bay owner row s =
      .next ({ s.setBay a ⟨l, row⟩ with committed := false }.answered h .writeBay .ok [0x01]) := by
  have ha : bay? bay = some a := below_of_eq_val hbay
  refine request_answered ht _ { s.setBay a ⟨l, row⟩ with committed := false } ⟨.ok, [0x01]⟩ ?_
  rw [ha, howner, inRange_some, inRange_some]
  rfl

/-- Settles O43: the two map writes by their checks, each check's failure giving RANGE. -/
theorem writePortsAndBay : Obligations.WritePortsAndBay := by
  unfold Obligations.WritePortsAndBay
  refine ⟨fun h records s hr hm => ?_, fun h bay owner row s hr hm => ?_⟩
  · have ht : s.takes h .writePorts := takes_of_ready hr rfl (by rw [hm]; rfl)
    simp only [exec_writePorts]
    refine ⟨fun hbad => execWritePorts_range ht ?_, fun rs hne hlen hrs => execWritePorts_ok ht hne hlen hrs⟩
    rcases hbad with hnil | hlong | ⟨r, hmem, hout⟩
    · exact .inl hnil
    · exact .inr (.inl hlong)
    · exact .inr (.inr (mapM_eq_none_of_mem (portRecord?_eq_none hout) hmem))
  · have ht : s.takes h .writeBay := takes_of_ready hr rfl (by rw [hm]; rfl)
    simp only [exec_writeBay]
    refine ⟨fun hbad => execWriteBay_range ht ?_, fun a l hbay howner => ?_, fun a hbay hnone => ?_⟩
    · exact hbad.imp below_eq_none fun ⟨hge, hne⟩ => linkOrNone?_eq_none hge hne
    · exact execWriteBay_ok ht hbay (linkOrNone?_link howner)
    · exact execWriteBay_ok ht hbay (hnone ▸ linkOrNone?_none)

end Sys2Proof.Machine
end

section
/-! The vehicle roster: a request from a role that may not send it, the read and the ownership check of the vehicle a BAY
request is about (R63, R84), the restart of the silence countdown (R68), and HEARTBEAT whole (R70). -/

namespace Sys2Proof.Machine

/-! ## Requests from a link of the wrong role -/

/-- R166 stage 1: a role that does not permit the kind gets ROLE, in every mode. -/
theorem request_role {s : State} {h : Hdr} {kind : ReqKind} (hfree : s.free h)
    (hp : ReqKind.permits kind (s.link h.link).role = false) (body : State → State × Answer) :
    s.request h kind body = .next (s.answered h kind .role []) := by
  obtain ⟨hrole, -, hslot⟩ := hfree
  have hcheck (t : State) (ht : (t.link h.link).role = (s.link h.link).role) :
      t.carryOut h kind body = (t, .plain .role) := by simp [State.carryOut, ht, hp]
  rw [request_refused hrole hslot .role body fun t ht _ => hcheck t ht, receiverToHunt_answered]
  rfl

/-! ## The vehicle of a BAY request (R63, R84)

A request that is taken finds its link's receiver in HUNT, so these are stated of such a state. -/

section Owned

variable {s : State} {l m : LinkId} {v : VehicleId} {damaged : State → List Byte} {go : State → State × Answer}

/-- R84: a damaged vehicle is repaired and the request answered INTEGRITY, before its owner is looked at. -/
theorem withOwned_damaged (hflips : (s.vehicle v).flips.length = 2) : (s.receiverToHunt m).withOwned l v damaged go =
    ((read (.vehicle v) s).1.receiverToHunt m, ⟨.integrity, damaged ((read (.vehicle v) s).1.receiverToHunt m)⟩) := by
  have hbad : (s.readVehicle v).2 = true := readVehicle_damaged hflips
  rw [State.withOwned, State.withVehicle, readVehicle_hunt]
  exact if_pos hbad

theorem withOwned_notYours (hflips : (s.vehicle v).flips = []) (howner : (s.vehicle v).owner ≠ some l) :
    (s.receiverToHunt m).withOwned l v damaged go = (s.receiverToHunt m, .plain .notYours) := by
  simp [State.withOwned, State.withVehicle, readVehicle_hunt, readVehicle_clean hflips, howner]

theorem withOwned_owner (hflips : (s.vehicle v).flips = []) (howner : (s.vehicle v).owner = some l) :
    (s.receiverToHunt m).withOwned l v damaged go = go (s.receiverToHunt m) := by
  simp [State.withOwned, State.withVehicle, readVehicle_hunt, readVehicle_clean hflips, howner]

end Owned

/-! ## The silence countdown (R68) -/

/-- A vehicle record written back as it stands. -/
theorem setVehicle_self (s : State) (v : VehicleId) : s.setVehicle v (s.vehicle v) = s := by
  simp [State.setVehicle, State.vehicle]

/-- R68: the restart writes the vehicle's restarted record. -/
theorem restartSilence_eq (s : State) (v : VehicleId) :
    s.restartSilence v = s.setVehicle v (VehicleRec.restarted s.timing.silence (s.vehicle v)) := by
  by_cases hlimit : s.timing.silence = 0
  · rw [State.restartSilence, if_pos hlimit, VehicleRec.restarted, if_pos (.inl hlimit), setVehicle_self]
  · simp only [State.restartSilence, VehicleRec.restarted, hlimit, ↓reduceIte, false_or, State.updVehicle, units]

theorem restartSilence_hunt (s : State) (l : LinkId) (v : VehicleId) :
    (s.receiverToHunt l).restartSilence v = (s.restartSilence v).receiverToHunt l := by
  simp only [restartSilence_eq, receiverToHunt_timing, receiverToHunt_at_vehicle, setVehicle_hunt]

/-- R68: the restart changes the silence countdown of the record and nothing else. -/
theorem restarted_eq (limit : Byte) (r : VehicleRec) :
    VehicleRec.restarted limit r = { r with silence := (VehicleRec.restarted limit r).silence } := by
  unfold VehicleRec.restarted
  split <;> rfl

/-! ## HEARTBEAT (R70) -/

theorem exec_heartbeat (h : Hdr) (vehicle : Byte) (s : State) :
    exec (.heartbeat h vehicle) s = execHeartbeat h vehicle s := rfl

/-- R169: HEARTBEAT is a BAY request. -/
theorem permits_heartbeat_of_ne {r : Role} (hr : r ≠ .bay) : ReqKind.permits .heartbeat r = false := by
  cases r with
  | bay => exact absurd rfl hr
  | _ => rfl

/-- R70: HEARTBEAT from a BAY link is taken in every mode. -/
theorem takes_heartbeat {s : State} {h : Hdr} (hfree : s.free h) (hbay : (s.link h.link).role = .bay) :
    s.takes h .heartbeat := by
  obtain ⟨-, hfits, hslot⟩ := hfree
  exact takes_of_ready ⟨hbay, hfits, hslot⟩ rfl rfl

@[simp] theorem receiverToHunt_heartbeatFields (s : State) (l : LinkId) (v : VehicleId) :
    (s.receiverToHunt l).heartbeatFields v = s.heartbeatFields v := rfl

/-- R70: the report does not show the silence countdown, so it is the same after the restart. -/
theorem restartSilence_heartbeatFields (s : State) (v : VehicleId) :
    (s.restartSilence v).heartbeatFields v = s.heartbeatFields v := by
  rw [restartSilence_eq, State.heartbeatFields, setVehicle_same, restarted_eq]
  rfl

section Heartbeat

variable {h : Hdr} {vehicle : Byte} {s : State}

theorem execHeartbeat_role (hfree : s.free h) (hrole : (s.link h.link).role ≠ .bay) :
    execHeartbeat h vehicle s = .next (s.answered h .heartbeat .role []) :=
  request_role hfree (permits_heartbeat_of_ne hrole) _

theorem execHeartbeat_range (ht : s.takes h .heartbeat) (hv : 128 ≤ vehicle.toNat) :
    execHeartbeat h vehicle s = .next (s.answered h .heartbeat .range []) := by
  have hnone : vehicle? vehicle = none := below_eq_none hv
  refine request_answered_plain ht fun t => ?_
  rw [hnone, inRange_none]

variable {v : VehicleId}

theorem execHeartbeat_damaged (ht : s.takes h .heartbeat) (hv : vehicle.toNat = v.val)
    (hflips : (s.vehicle v).flips.length = 2) :
    execHeartbeat h vehicle s = .next (s.answeredDamaged h .heartbeat (.vehicle v) (·.heartbeatFields v)) := by
  have hsome : vehicle? vehicle = some v := below_of_eq_val hv
  refine request_damaged ht _ (.vehicle v) (·.heartbeatFields v) ?_
  rw [hsome, inRange_some, withOwned_damaged hflips, receiverToHunt_heartbeatFields]

theorem execHeartbeat_notYours (ht : s.takes h .heartbeat) (hv : vehicle.toNat = v.val)
    (hflips : (s.vehicle v).flips = []) (howner : (s.vehicle v).owner ≠ some h.link) :
    execHeartbeat h vehicle s = .next (s.answered h .heartbeat .notYours []) := by
  have hsome : vehicle? vehicle = some v := below_of_eq_val hv
  refine request_answered ht _ s (.plain .notYours) ?_
  rw [hsome, inRange_some, withOwned_notYours hflips howner]

theorem execHeartbeat_ok (ht : s.takes h .heartbeat) (hv : vehicle.toNat = v.val)
    (hflips : (s.vehicle v).flips = []) (howner : (s.vehicle v).owner = some h.link) :
    execHeartbeat h vehicle s = .next ((s.restartSilence v).answered h .heartbeat .ok (s.heartbeatFields v)) := by
  have hsome : vehicle? vehicle = some v := below_of_eq_val hv
  refine request_answered ht _ (s.restartSilence v) ⟨.ok, s.heartbeatFields v⟩ ?_
  rw [hsome, inRange_some, withOwned_owner hflips howner, restartSilence_hunt]
  dsimp only
  rw [receiverToHunt_heartbeatFields, restartSilence_heartbeatFields]

end Heartbeat

/-- Settles O32: HEARTBEAT by its checks in the router's order, the accepted one restarting the silence countdown alone. -/
theorem heartbeat : Obligations.Heartbeat := by
  unfold Obligations.Heartbeat
  intro h vehicle s hfree
  simp only [exec_heartbeat]
  refine ⟨fun hrole => execHeartbeat_role hfree hrole,
    fun hbay hv => execHeartbeat_range (takes_heartbeat hfree hbay) hv,
    fun v hbay hv hflips => execHeartbeat_damaged (takes_heartbeat hfree hbay) hv hflips,
    fun v hbay hv hflips => ⟨fun howner => ?_, fun howner => ?_⟩⟩
  · exact execHeartbeat_notYours (takes_heartbeat hfree hbay) hv hflips howner
  · rw [execHeartbeat_ok (takes_heartbeat hfree hbay) hv hflips howner, restartSilence_eq]
    rfl

end Sys2Proof.Machine
end

section
/-! The capture record's two requests: READ_CAPTURE and CLEAR_CAPTURE whole (R144). -/

namespace Sys2Proof.Machine

/-! ## The capture fields of a reply (R179) -/

@[simp] theorem captureFields_none : captureFields none = [0, 0, 0, 0, 0, 0, 0, 0, 0, 0, 0] := rfl

@[simp] theorem captureFields_some (c : Capture) : captureFields (some c) =
    [0x01] ++ Enc.record c.record ++ [c.kind.code, c.finder.code] ++ bytes4 c.stamp ++ Enc.flag c.more := rfl

/-! ## The two requests -/

theorem exec_readCapture (h : Hdr) (s : State) : exec (.readCapture h) s = execReadCapture h s := rfl

theorem exec_clearCapture (h : Hdr) (s : State) : exec (.clearCapture h) s = execClearCapture h s := rfl

/-- R144: CLEAR_CAPTURE's writes, which touch neither the links nor the attention they carry. -/
def State.captureCleared (s : State) : State := { s with capture := none, corrections := 0 }

theorem captureCleared_hunt (s : State) (l : LinkId) :
    (s.receiverToHunt l).captureCleared = s.captureCleared.receiverToHunt l := rfl

section Taken

variable {h : Hdr} {s : State}

theorem execReadCapture_ok (ht : s.takes h .readCapture) :
    execReadCapture h s = .next (s.answered h .readCapture .ok
      (captureFields s.capture ++ Enc.num s.corrections ++ Enc.record s.cursor)) := by
  refine request_answered ht _ s ⟨.ok, captureFields s.capture ++ Enc.num s.corrections ++ Enc.record s.cursor⟩ ?_
  rw [receiverToHunt_capture, receiverToHunt_corrections, receiverToHunt_cursor]

/-- R144: the reply's fields are those of the state before the clear. -/
theorem execClearCapture_ok (ht : s.takes h .clearCapture) :
    execClearCapture h s = .next (s.captureCleared.answered h .clearCapture .ok
      (captureFields s.capture ++ Enc.num s.corrections)) := by
  refine request_answered ht _ s.captureCleared ⟨.ok, captureFields s.capture ++ Enc.num s.corrections⟩ ?_
  rw [receiverToHunt_capture, receiverToHunt_corrections, ← captureCleared_hunt, State.captureCleared]

end Taken

/-- Settles O52: a SERVICE link's two requests are taken in every mode, and each is answered from the state it found. -/
theorem captureRequests : Obligations.CaptureRequests := by
  unfold Obligations.CaptureRequests
  intro h s hr capture
  have hcapture : capture = captureFields s.capture := by
    simp only [capture]
    cases s.capture with
    | none => exact captureFields_none.symm
    | some c => exact (captureFields_some c).symm
  rw [hcapture, exec_readCapture, exec_clearCapture]
  exact ⟨execReadCapture_ok (takes_of_ready hr rfl rfl), execClearCapture_ok (takes_of_ready hr rfl rfl)⟩

end Sys2Proof.Machine
end

section
/-! CLEAR_ATTENTION whole (R174), and the requests that every role may send. -/

namespace Sys2Proof.Machine

/-! ## Requests of every role -/

/-- R169: the role alone never turns away a kind that every role may send. -/
theorem takes_of_free {s : State} {h : Hdr} {kind : ReqKind} (hfree : s.free h)
    (hp : ∀ r, r ≠ .disabled → ReqKind.permits kind r = true) (hm : ReqKind.allowedIn kind s.mode = true) :
    s.takes h kind := by
  obtain ⟨hrole, hfits, hslot⟩ := hfree
  exact takes_of_ready ⟨rfl, hfits, hslot⟩ (hp _ hrole) hm

@[simp] theorem receiverToHunt_attention (s : State) (l l') :
    ((s.receiverToHunt l).link l').attention = (s.link l').attention := by
  simp only [State.receiverToHunt, State.updLink, setLink_read]
  split
  · next e => subst e; rfl
  · rfl

/-! ## The mask of causes (R174, R177) -/

theorem ofMask_eq_none {mask : Byte} (hout : 32 ≤ mask.toNat) : Attention.ofMask mask = none :=
  if_neg (Nat.not_lt.mpr hout)

theorem ofMask_eq_some {mask : Byte} (hin : mask.toNat < 32) : Attention.ofMask mask =
    some ⟨mask.getLsbD 0, mask.getLsbD 1, mask.getLsbD 2, mask.getLsbD 3, mask.getLsbD 4⟩ :=
  if_pos hin

/-! ## CLEAR_ATTENTION (R174) -/

theorem exec_clearAttention (h : Hdr) (mask : Byte) (s : State) :
    exec (.clearAttention h mask) s = execClearAttention h mask s := rfl

/-- R169: every role but DISABLED may send CLEAR_ATTENTION. -/
theorem permits_clearAttention {r : Role} (hr : r ≠ .disabled) : ReqKind.permits .clearAttention r = true := by
  cases r with
  | disabled => exact absurd rfl hr
  | _ => rfl

/-- R174: CLEAR_ATTENTION's write, the summary of one link. -/
def State.attentionCleared (s : State) (l : LinkId) (named : Attention) : State :=
  s.updLink l fun k => { k with attention := k.attention.without named }

theorem attentionCleared_hunt (s : State) (l m : LinkId) (named : Attention) :
    (s.receiverToHunt l).attentionCleared m named = (s.attentionCleared m named).receiverToHunt l :=
  updLink_updLink_comm s l m _ _ fun _ => rfl

section ClearAttention

variable {h : Hdr} {mask : Byte} {s : State}

theorem execClearAttention_range (ht : s.takes h .clearAttention) (hout : Attention.ofMask mask = none) :
    execClearAttention h mask s = .next (s.answered h .clearAttention .range []) := by
  refine request_answered_plain ht fun t => ?_
  rw [hout, inRange_none]

/-- R174: the reply carries the summary of the state before the clear. -/
theorem execClearAttention_ok {named : Attention} (ht : s.takes h .clearAttention)
    (hin : Attention.ofMask mask = some named) :
    execClearAttention h mask s = .next ((s.attentionCleared h.link named).answered h .clearAttention .ok
      [(s.link h.link).attention.byte]) := by
  refine request_answered ht _ (s.attentionCleared h.link named) ⟨.ok, [(s.link h.link).attention.byte]⟩ ?_
  rw [hin, inRange_some, receiverToHunt_attention, ← attentionCleared_hunt, State.attentionCleared]

end ClearAttention

/-- Settles O15: any role's CLEAR_ATTENTION is taken in every mode, so its mask alone decides between RANGE and the clear. -/
theorem clearAttention : Obligations.ClearAttention := by
  unfold Obligations.ClearAttention
  intro h mask s hfree a
  have ht : s.takes h .clearAttention := takes_of_free hfree (fun _ => permits_clearAttention) rfl
  rw [exec_clearAttention]
  refine ⟨fun hout => execClearAttention_range ht (ofMask_eq_none hout), fun hin => ?_⟩
  rw [execClearAttention_ok ht (ofMask_eq_some hin)]
  rfl

end Sys2Proof.Machine
end

section
/-! The frames of R178 read back, what every request has in common, and the first statements about a step: the reset state,
the idle step, the router's first stages and the one reply of a request. -/

namespace Sys2Proof.Machine

/-! ## Requests and the commands that spell them -/

/-- Every request runs through the router with its own header and kind. -/
theorem exec_eq_request {i : Instr} {h : Hdr} {kind : ReqKind} {fields : List Byte}
    (hi : i.requestFields = some (h, kind, fields)) : ∃ body, ∀ s, exec i s = s.request h kind body := by
  cases i <;> simp only [Instr.requestFields, Option.some.injEq, Prod.mk.injEq, reduceCtorEq] at hi <;>
    (obtain ⟨rfl, rfl, -⟩ := hi; exact ⟨_, fun _ => rfl⟩)

theorem request_answers (s : State) (h : Hdr) (kind : ReqKind) (body : State → State × Answer) :
    ∃ t, s.request h kind body = .next t := ⟨_, rfl⟩

/-- A frame of a known kind spells a request of that kind, on its link and with its tag. -/
theorem requestOfKind_requestFields (l : LinkId) (tag : Byte) (kind : ReqKind) (fields : List Byte) :
    ∃ h fs, (requestOfKind l tag kind fields).requestFields = some (h, kind, fs) ∧ h.link = l ∧ h.tag = tag := by
  cases kind
  case status | commitMap | reopenMap | readCapture | clearCapture | halt | resume | softReset =>
    exact ⟨_, _, rfl, rfl, rfl⟩
  case claim | writeBlocks | writePorts | writeBay =>
    simp only [requestOfKind]
    split
    · split <;> exact ⟨_, _, rfl, rfl, rfl⟩
    · exact ⟨_, _, rfl, rfl, rfl⟩
  all_goals
    simp only [requestOfKind]
    split <;> exact ⟨_, _, rfl, rfl, rfl⟩

/-- A completed frame runs the same meaning as the command it spells. -/
theorem runRequest_of_requestFields {i : Instr} {x} (hi : i.requestFields = some x) (s : State) :
    runRequest i s = exec i s := by
  cases i <;> first | rfl | exact absurd hi (by simp [Instr.requestFields])

theorem runRequest_requestOfFrame (l : LinkId) (kind tag : Byte) (fields : List Byte) (s : State) :
    runRequest (requestOfFrame l kind tag fields) s = exec (requestOfFrame l kind tag fields) s := by
  unfold requestOfFrame
  split
  · next k _ =>
    obtain ⟨h, fs, hi, -, -⟩ := requestOfKind_requestFields l tag k fields
    exact runRequest_of_requestFields hi s
  · rfl

/-! ## Every command answers (R168) -/

theorem exec_requestOfFrame_answers (l : LinkId) (kind tag : Byte) (fields : List Byte) (s : State) :
    ∃ t, exec (requestOfFrame l kind tag fields) s = .next t := by
  unfold requestOfFrame
  split
  · next k _ =>
    obtain ⟨h, fs, hi, -, -⟩ := requestOfKind_requestFields l tag k fields
    obtain ⟨body, hb⟩ := exec_eq_request hi
    exact ⟨_, hb s⟩
  · exact ⟨_, rfl⟩

theorem completeFrame_answers (s : State) (l : LinkId) (len : Byte) (body : List Byte) (first second : Byte) :
    ∃ t, s.completeFrame l len body first second = .next t := by
  unfold State.completeFrame frameCommand
  split
  · rcases body with _ | ⟨kind, _ | ⟨tag, fields⟩⟩
    · exact ⟨_, rfl⟩
    · exact ⟨_, rfl⟩
    · obtain ⟨t, ht⟩ := exec_requestOfFrame_answers l kind tag fields s
      exact ⟨t, (runRequest_requestOfFrame l kind tag fields s).trans ht⟩
  · exact ⟨_, rfl⟩

theorem execCharacterReceived_answers (l : LinkId) (c : Byte) (framing : Bool) (s : State) :
    ∃ t, execCharacterReceived l c framing s = .next t := by
  unfold execCharacterReceived State.receive
  split
  · exact ⟨_, rfl⟩
  · split
    · exact ⟨_, rfl⟩
    · split <;> first | exact ⟨_, rfl⟩ | exact completeFrame_answers ..

/-- Settles O3: a request answers through the router, a character through the frame it may complete, and every other command
by the branches of its own meaning. -/
theorem everyCommandAnswersNext : Obligations.EveryCommandAnswersNext := by
  unfold Obligations.EveryCommandAnswersNext
  intro c s
  rcases hi : c.requestFields with _ | ⟨h, kind, fields⟩
  · cases c <;> simp only [Instr.requestFields, reduceCtorEq] at hi <;> dsimp only [exec]
    case hardReset => exact ⟨_, rfl⟩
    case linkReset => unfold execLinkReset; split <;> exact ⟨_, rfl⟩
    case frameDropped => exact ⟨_, rfl⟩
    case rxGapTimeout => exact ⟨_, rfl⟩
    case overrun => unfold execOverrun; split <;> exact ⟨_, rfl⟩
    case unknownKindRequest => exact ⟨_, rfl⟩
    case transmitComplete => unfold execTransmitComplete; split <;> exact ⟨_, rfl⟩
    case silenceExpiry => unfold execSilenceExpiry; split <;> exact ⟨_, rfl⟩
    case offerExpiry =>
      unfold execOfferExpiry
      split
      · exact ⟨_, rfl⟩
      · dsimp only; split <;> exact ⟨_, rfl⟩
    case promotion => unfold execPromotion; split <;> exact ⟨_, rfl⟩
    case scrubStep => unfold execScrubStep; split <;> exact ⟨_, rfl⟩
    case fabClockAdvance => unfold execFabClockAdvance; split <;> exact ⟨_, rfl⟩
    case dispatchDecision => unfold execDispatchDecision; split <;> exact ⟨_, rfl⟩
    case characterReceived => exact execCharacterReceived_answers ..
    case bitFlip => unfold execBitFlip; split <;> exact ⟨_, rfl⟩
  · obtain ⟨body, hb⟩ := exec_eq_request hi
    exact ⟨_, hb s⟩

/-- Settles O1: a step is the meaning of the front command, by the definition of `step`. -/
theorem stepRunsFrontCommand : Obligations.StepRunsFrontCommand := by
  unfold Obligations.StepRunsFrontCommand
  exact fun c rest s => rfl

/-! ## The completed frame (R157, R158, R161) -/

/-- Settles O10: the second check byte of a frame whose check agrees runs the request the frame spells. -/
theorem completedFrameIsCarriedOut : Obligations.CompletedFrameIsCarriedOut := by
  unfold Obligations.CompletedFrameIsCarriedOut
  intro l s len kind tag first second fields hrole hrx hcrc
  have hagrees : checkAgrees len (kind :: tag :: fields) first second = true := by simp [checkAgrees, hcrc]
  calc exec (.characterReceived l second false) s
      = s.completeFrame l len (kind :: tag :: fields) first second := by
        simp [exec, execCharacterReceived, hrole, State.receive, hrx]
    _ = runRequest (requestOfFrame l kind tag fields) s := by simp [State.completeFrame, hagrees, frameCommand]
    _ = exec (requestOfFrame l kind tag fields) s := runRequest_requestOfFrame ..

/-! ## Frames read back (R177, R178) -/

theorem reqKind?_code (kind : ReqKind) : reqKind? kind.code = some kind := by cases kind <;> rfl

theorem half_of_bytes (x : Half) : x.extractLsb' 8 8 ++ x.extractLsb' 0 8 = x := by
  apply BitVec.eq_of_getLsbD_eq; intro i hi
  simp only [BitVec.getLsbD_append, BitVec.getLsbD_extractLsb']
  split
  · next h8 => simp [h8]
  · next h8 =>
    have hsub : i - 8 < 8 := by omega
    have hadd : 8 + (i - 8) = i := by omega
    simp [hsub, hadd]

theorem word_of_bytes (x : Word) :
    x.extractLsb' 24 8 ++ x.extractLsb' 16 8 ++ x.extractLsb' 8 8 ++ x.extractLsb' 0 8 = x := by
  apply BitVec.eq_of_getLsbD_eq; intro i hi
  simp only [BitVec.getLsbD_append, BitVec.getLsbD_extractLsb']
  split
  · next h8 => simp [h8]
  · split
    · next h8 h16 =>
      have hadd : 8 + (i - 8) = i := by omega
      simp [h16, hadd]
    · split
      · next h8 h16 h24 =>
        have hadd : 16 + (i - 8 - 8) = i := by omega
        simp [h24, hadd]
      · next h8 h16 h24 =>
        have hsub : i - 8 - 8 - 8 < 8 := by omega
        have hadd : 24 + (i - 8 - 8 - 8) = i := by omega
        simp [hsub, hadd]

/-- A carrier field by its eight characters. -/
theorem exists_chars (f : CarrierField) : ∃ c0 c1 c2 c3 c4 c5 c6 c7, f = #v[c0, c1, c2, c3, c4, c5, c6, c7] := by
  refine ⟨f[0], f[1], f[2], f[3], f[4], f[5], f[6], f[7], ?_⟩
  ext i hi
  match i, hi with
  | 0, _ | 1, _ | 2, _ | 3, _ | 4, _ | 5, _ | 6, _ | 7, _ => rfl

theorem bytes2_eq (x : Half) : bytes2 x = [x.extractLsb' 8 8, x.extractLsb' 0 8] := rfl

theorem halves_flatMap : ∀ bs : List Half, halves (bs.flatMap bytes2) = bs
  | [] => rfl
  | b :: bs => by
    simp only [List.flatMap_cons, bytes2_eq, List.cons_append, List.nil_append, halves, half_of_bytes, halves_flatMap bs]

theorem blockFields_flatMap : ∀ rs : List BlockField, blockFields (rs.flatMap BlockField.bytes) = rs
  | [] => rfl
  | r :: rs => by
    have hr : r.bytes = [r.block.extractLsb' 8 8, r.block.extractLsb' 0 8, r.kind, r.bay, r.count,
        r.succ1.extractLsb' 8 8, r.succ1.extractLsb' 0 8, r.succ2.extractLsb' 8 8, r.succ2.extractLsb' 0 8, r.port] := rfl
    simp only [List.flatMap_cons, hr, List.cons_append, List.nil_append, blockFields, half_of_bytes,
      blockFields_flatMap rs]

theorem portFields_flatMap : ∀ rs : List PortField, portFields (rs.flatMap PortField.bytes) = rs
  | [] => rfl
  | r :: rs => by
    have hr : r.bytes = [r.port, r.block.extractLsb' 8 8, r.block.extractLsb' 0 8] := rfl
    simp only [List.flatMap_cons, hr, List.cons_append, List.nil_append, portFields, half_of_bytes, portFields_flatMap rs]

theorem length_flatMap_const {α : Type} (f : α → List Byte) (k : Nat) (hf : ∀ a, (f a).length = k) :
    ∀ xs : List α, (xs.flatMap f).length = k * xs.length
  | [] => rfl
  | x :: xs => by
    rw [List.flatMap_cons, List.length_append, hf, length_flatMap_const f k hf xs, List.length_cons, Nat.mul_succ,
      Nat.add_comm]

theorem toNat_count {n : Nat} (hn : n < 256) : (BitVec.ofNat 8 n).toNat = n := by
  rw [BitVec.toNat_ofNat]; exact Nat.mod_eq_of_lt hn

/-- R177, R178: every request is read back from its own kind and field bytes, its lists short enough for one frame. -/
theorem requestOfKind_readBack {i : Instr} {h : Hdr} {kind : ReqKind} {fields : List Byte} (hw : i.wellFormed = true)
    (hi : i.requestFields = some (h, kind, fields)) (hf : h.fits = true) :
    requestOfKind h.link h.tag kind fields = i := by
  have hh : (⟨h.link, h.tag, true⟩ : Hdr) = h := by rw [← hf]
  cases i <;> simp only [Instr.requestFields, Option.some.injEq, Prod.mk.injEq, reduceCtorEq] at hi <;>
    obtain ⟨rfl, rfl, rfl⟩ := hi
  case claim hd v bs =>
    have hbody : 4 + 2 * bs.length ≤ 250 := of_decide_eq_true hw
    have hn : bs.length < 256 := by omega
    have hlen : (bs.flatMap bytes2).length = 2 * (BitVec.ofNat 8 bs.length).toNat := by
      rw [length_flatMap_const bytes2 2 fun _ => rfl, toNat_count hn]
    simp only [requestOfKind, List.cons_append, List.nil_append, if_pos hlen, hh, halves_flatMap]
  case writeBlocks hd rs =>
    have hbody : 3 + 10 * rs.length ≤ 250 := of_decide_eq_true hw
    have hn : rs.length < 256 := by omega
    have hlen : (rs.flatMap BlockField.bytes).length = 10 * (BitVec.ofNat 8 rs.length).toNat := by
      rw [length_flatMap_const _ 10 fun _ => rfl, toNat_count hn]
    simp only [requestOfKind, List.cons_append, List.nil_append, if_pos hlen, hh, blockFields_flatMap]
  case writePorts hd rs =>
    have hbody : 3 + 3 * rs.length ≤ 250 := of_decide_eq_true hw
    have hn : rs.length < 256 := by omega
    have hlen : (rs.flatMap PortField.bytes).length = 3 * (BitVec.ofNat 8 rs.length).toNat := by
      rw [length_flatMap_const _ 3 fun _ => rfl, toNat_count hn]
    simp only [requestOfKind, List.cons_append, List.nil_append, if_pos hlen, hh, portFields_flatMap]
  case writeBay hd a k row =>
    have hlen : row.toList.length = 32 := by simp
    simp only [requestOfKind, List.cons_append, List.nil_append, dif_pos hlen, hh]
    congr 1
  case setClock hd w => simp only [requestOfKind, bytes4, hh, word_of_bytes]
  case submitOrder hd t c p d a q =>
    obtain ⟨c0, c1, c2, c3, c4, c5, c6, c7, rfl⟩ := exists_chars c
    simp only [requestOfKind, bytes2, List.cons_append, List.nil_append, hh, half_of_bytes, Vector.toList_mk]
  case join hd v b c =>
    obtain ⟨c0, c1, c2, c3, c4, c5, c6, c7, rfl⟩ := exists_chars c
    simp only [requestOfKind, bytes2, List.cons_append, List.nil_append, hh, half_of_bytes, Vector.toList_mk]
  case accept hd v o p d c =>
    obtain ⟨c0, c1, c2, c3, c4, c5, c6, c7, rfl⟩ := exists_chars c
    simp only [requestOfKind, bytes2, List.cons_append, List.nil_append, hh, half_of_bytes, Vector.toList_mk]
  case pickDone hd v c =>
    obtain ⟨c0, c1, c2, c3, c4, c5, c6, c7, rfl⟩ := exists_chars c
    simp only [requestOfKind, List.cons_append, List.nil_append, hh, Vector.toList_mk]
  all_goals
    simp only [requestOfKind, bytes2, Timing.bytes, Weights.bytes, List.cons_append, List.nil_append, hh, half_of_bytes,
      List.isEmpty_nil]

/-- Settles O11: the kind code names the kind, and each kind's field bytes give its fields back. -/
theorem requestFramesReadBack : Obligations.RequestFramesReadBack := by
  unfold Obligations.RequestFramesReadBack
  intro i h kind fields hw hi hf
  rw [requestOfFrame, reqKind?_code]
  exact requestOfKind_readBack hw hi hf

/-! ## The router's first stages (R166, R169) and the reply (R167) -/

theorem request_mode {s : State} {h : Hdr} {kind : ReqKind} (hs : (s.link h.link).slot = none)
    (hp : ReqKind.permits kind (s.link h.link).role = true) (hm : ReqKind.allowedIn kind s.mode = false)
    (body : State → State × Answer) : s.request h kind body = .next (s.answered h kind .mode []) := by
  have hcheck (t : State) (hrole : (t.link h.link).role = (s.link h.link).role) (hmode : t.mode = s.mode) :
      t.carryOut h kind body = (t, .plain .mode) := by simp [State.carryOut, hrole, hp, hmode, hm]
  rw [request_refused (role_of_permits hp) hs .mode body hcheck, receiverToHunt_answered]
  rfl

theorem request_unfit {s : State} {h : Hdr} {kind : ReqKind} (hs : (s.link h.link).slot = none)
    (hp : ReqKind.permits kind (s.link h.link).role = true) (hm : ReqKind.allowedIn kind s.mode = true)
    (hf : h.fits = false) (body : State → State × Answer) :
    s.request h kind body = .next (s.answered h kind .range []) := by
  have hcheck (t : State) (hrole : (t.link h.link).role = (s.link h.link).role) (hmode : t.mode = s.mode) :
      t.carryOut h kind body = (t, .plain .range) := by simp [State.carryOut, hrole, hp, hmode, hm, hf]
  rw [request_refused (role_of_permits hp) hs .range body hcheck, receiverToHunt_answered]
  rfl

theorem request_role_refused {s : State} {h : Hdr} {kind : ReqKind} (hr : (s.link h.link).role ≠ .disabled)
    (hs : (s.link h.link).slot = none) (hp : ReqKind.permits kind (s.link h.link).role = false)
    (body : State → State × Answer) : s.request h kind body = .next (s.answered h kind .role []) := by
  have hcheck (t : State) (hrole : (t.link h.link).role = (s.link h.link).role) (_ : t.mode = s.mode) :
      t.carryOut h kind body = (t, .plain .role) := by simp [State.carryOut, hrole, hp]
  rw [request_refused hr hs .role body hcheck, receiverToHunt_answered]
  rfl

/-- Hunting first and answering, for a reply kind that is no request's. -/
theorem receiverToHunt_replied (s : State) (l : LinkId) (kind tag : Byte) (c : ResultCode) :
    (s.receiverToHunt l).placeReply l kind tag (.plain c) = s.setLink l ((s.link l).replied kind tag c []) := by
  simp [State.placeReply, State.receiverToHunt, State.updLink, State.setLink, State.link, Link.replied, Answer.plain]

theorem permits_iff (kind : ReqKind) (r : Role) : ReqKind.permits kind r = true ↔ r ≠ .disabled ∧
    (kind ∈ [ReqKind.status, .clearAttention, .setNoticeMask, .queryVehicle, .queryOrder, .queryBlock, .queryPort] ∨
      (r = .scheduler ∧
        kind ∈ [ReqKind.submitOrder, .cancelOrder, .redirectOrder, .reclassOrder, .setPortState, .setClock]) ∨
      (r = .bay ∧
        kind ∈ [ReqKind.join, .leave, .position, .claim, .releaseAhead, .accept, .decline, .pickDone, .dropDone, .dropFail,
          .fault, .recover, .heartbeat]) ∨
      (r = .service ∧
        kind ∈ [ReqKind.writeBlocks, .writePorts, .writeBay, .commitMap, .reopenMap, .setFence, .clearFence, .setTiming,
          .setWeights, .setLinkRate, .drain, .restore, .evict, .thaw, .readCapture, .clearCapture, .halt, .resume,
          .softReset, .setPortState, .setClock])) := by
  cases r <;> cases kind <;> decide

theorem allowedIn_iff (kind : ReqKind) (m : Mode) : ReqKind.allowedIn kind m = true ↔
    (kind ∈ [ReqKind.writeBlocks, .writePorts, .writeBay, .commitMap] → m = .setup) ∧
    (kind ∈ [ReqKind.reopenMap, .halt, .resume, .join, .submitOrder] → m ≠ .setup) ∧ (kind = .claim → m = .run) := by
  cases m <;> cases kind <;> decide

/-- Settles O12: the three stages in their order, the unknown kind, and the two tables by their rows. -/
theorem routerTurnsAway : Obligations.RouterTurnsAway := by
  unfold Obligations.RouterTurnsAway
  refine ⟨fun i h kind fields s hi hr hs => ?_, fun l tag s hr hs => ?_, permits_iff, allowedIn_iff⟩
  · obtain ⟨body, hb⟩ := exec_eq_request hi
    simp only [hb]
    exact ⟨fun hp => request_role_refused hr hs hp body, fun hp hm => request_mode hs hp hm body,
      fun hp hm hf => request_unfit hs hp hm hf body⟩
  · rw [← receiverToHunt_replied]
    simp [exec, execUnknownKindRequest, State.takeFrame, hr, hs]

/-- R162: a transmitter that begins a reply still holds it. -/
theorem choose_heldReply (k : Link) : k.choose.heldReply = k.heldReply := by
  unfold Link.choose
  split
  · rfl
  · split
    · rfl
    · split
      · next hslot => simp [Link.heldReply, hslot]
      · rfl
      · rfl

theorem endEvent_link (s : State) (l : LinkId) : s.endEvent.link l = (s.link l).choose := by
  simp [State.endEvent, State.link]

/-- Settles O13: the reply is placed after the request's own effect, and the transmitters keep it in the slot. -/
theorem everyRequestIsAnswered : Obligations.EveryRequestIsAnswered := by
  unfold Obligations.EveryRequestIsAnswered
  intro i h kind fields s hi hr hs
  obtain ⟨body, hb⟩ := exec_eq_request hi
  let done := (s.receiverToHunt h.link).carryOut h kind body
  refine ⟨_, ⟨kind.code + 0x80, h.tag, done.2.code, (done.1.link h.link).attention, done.2.fields⟩, hb s, ?_, rfl, rfl⟩
  rw [endEvent_link, choose_heldReply]
  simp [State.takeFrame, hr, hs, State.placeReply, State.updLink, Link.heldReply, done]

end Sys2Proof.Machine
end

section
/-! The reset state and its laws, and the idle step (R17, R147). -/

namespace Sys2Proof.Machine

/-! ## The reset state (R17) -/

/-- R17: the part after hard reset, with the waiting commands and the free choices that the model keeps. -/
def State.startWith (straps : Straps) (s : State) : State :=
  { State.hardReset (straps.map Role.ofStrap) with pending := s.pending, freeCount := s.freeCount }

theorem exec_hardReset (straps : Straps) (s : State) : exec (.hardReset straps) s = .next (s.startWith straps) := rfl

section Reset

variable (roles : Vector Role 6)

@[simp] theorem hardReset_static (b) : (State.hardReset roles).static b = .unused := by
  simp [State.hardReset, State.static]
@[simp] theorem hardReset_block (b) : (State.hardReset roles).block b = .reset := by
  simp [State.hardReset, State.block]
@[simp] theorem hardReset_port (p) : (State.hardReset roles).port p = .reset := by
  simp [State.hardReset, State.port]
@[simp] theorem hardReset_bay (a) : (State.hardReset roles).bay a = .reset a := by
  simp [State.hardReset, State.bay]
@[simp] theorem hardReset_fence (f) : (State.hardReset roles).fence f = .reset := by
  simp [State.hardReset, State.fence]
@[simp] theorem hardReset_vehicle (v) : (State.hardReset roles).vehicle v = .reset := by
  simp [State.hardReset, State.vehicle]
@[simp] theorem hardReset_order (o) : (State.hardReset roles).order o = none := by
  simp [State.hardReset, State.order]
@[simp] theorem hardReset_queue (c) : (State.hardReset roles).queues.get c = [] := by cases c <;> rfl
@[simp] theorem hardReset_link (l) : (State.hardReset roles).link l = Link.reset roles[l.val] := by
  simp [State.hardReset, State.link]

theorem hardReset_used (b) : (State.hardReset roles).used b = false := by
  simp [State.used, BlockStatic.unused]

theorem hardReset_lawful : (State.hardReset roles).lawful := by
  refine ⟨⟨fun _ => ⟨fun v => by simp [VehicleRec.reset], fun o => hardReset_order roles o⟩, fun _ b h => ?_⟩,
    ⟨fun b => ?_, fun v w b h => ?_⟩, fun v => ?_, ⟨fun v b => ?_, fun v b h => ?_, fun b => ?_⟩, fun v => ?_,
    ⟨fun v o => ?_, fun o r h => ?_⟩, fun c => ?_, fun p o k => ?_⟩
  · rw [hardReset_used] at h; exact absurd h Bool.false_ne_true
  · simp [BlockRec.reset, VehicleRec.reset]
  · simp [VehicleRec.reset] at h
  · simp [VehicleRec.reset]
  · simp [VehicleRec.reset, BlockRec.reset]
  · simp [VehicleRec.reset] at h
  · simp [BlockRec.reset]
  · simp [VehicleRec.reset]
  · simp [VehicleRec.reset]
  · simp at h
  · simp
  · simp [PortRec.reset]

theorem hardReset_fewFlips : (State.hardReset roles).fewFlips :=
  ⟨fun b => by simp [BlockRec.reset], fun v => by simp [VehicleRec.reset], fun o r h => by simp at h⟩

theorem hardReset_sound : (State.hardReset roles).sound = true := by
  have hlinks : (State.hardReset roles).links.all Link.sound = true := by
    simp [State.hardReset, Link.sound, Link.silent, Link.reset]
  have hrest : weightsInRange defaultWeights = true ∧ timingInRange defaultTiming = true := ⟨rfl, rfl⟩
  simp only [State.sound, hlinks, Bool.true_and, Bool.and_eq_true, decide_eq_true_eq]
  exact ⟨⟨hrest, Nat.zero_le _⟩, Nat.zero_le _⟩

end Reset

theorem role_ofStrap (b : BitVec 2) : Role.ofStrap b =
    if b = 0 then .disabled else if b = 1 then .scheduler else if b = 2 then .bay else .service := by
  revert b; decide

/-- Settles O4: each record of the start state is its own reset value, and each role the one of its straps. -/
theorem hardResetStartState : Obligations.HardResetStartState := by
  unfold Obligations.HardResetStartState
  intro straps s
  let roles := straps.map Role.ofStrap
  have hbay (a b : BayId) : (BayRec.reset a).row[b.val] = if b = a then 0 else 255 := by
    simp only [BayRec.reset, Vector.getElem_set, Vector.getElem_replicate, Fin.ext_iff, eq_comm]
  refine ⟨s.startWith straps, exec_hardReset straps s, rfl, rfl, rfl,
    fun b => ⟨hardReset_static roles b, hardReset_block roles b⟩, hardReset_port roles,
    fun a b => ⟨?_, ?_⟩, hardReset_fence roles, hardReset_vehicle roles, hardReset_order roles, hardReset_queue roles, rfl, rfl, rfl, rfl,
    rfl, rfl, rfl, rfl, rfl, rfl, rfl, rfl, rfl, fun l => ?_, rfl, rfl⟩
  · exact congrArg BayRec.owner (hardReset_bay roles a)
  · exact (congrArg (fun r : BayRec => r.row[b.val]) (hardReset_bay roles a)).trans (hbay a b)
  · have hlink : (s.startWith straps).link l = Link.reset (Role.ofStrap straps[l.val]) := by
      rw [← Vector.getElem_map Role.ofStrap]; exact hardReset_link roles l
    rw [hlink]
    exact ⟨role_ofStrap _, rfl⟩

/-- Settles O59: the start state has empty tables, so each law holds of it with nothing to compare. -/
theorem resetIsSound : Obligations.ResetIsSound := by
  unfold Obligations.ResetIsSound
  refine ⟨hardReset_sound _, hardReset_lawful _, hardReset_fewFlips _, fun straps s t h => ?_⟩
  rw [exec_hardReset, Host.Outcome.next.injEq] at h
  subst h
  exact ⟨hardReset_sound (straps.map Role.ofStrap), hardReset_lawful (straps.map Role.ofStrap),
    hardReset_fewFlips (straps.map Role.ofStrap)⟩

/-! ## The idle step (R110, R147) -/

/-- The events of one millisecond are those that are due, in some order. -/
theorem orderEvents_perm : ∀ (fuel : Nat) (es : List Instr) (n : Nat), es.length ≤ fuel →
    (orderEvents fuel es n).1.Perm es
  | 0, es, n, h => by rw [List.length_eq_zero_iff.mp (Nat.le_zero.mp h)]; exact .refl _
  | fuel + 1, [], n, _ => .refl _
  | fuel + 1, [e], n, _ => .refl _
  | fuel + 1, e :: e' :: rest, n, h => by
    have hk : Config.tieChoice n % (rest.length + 2) < (e :: e' :: rest).length := Nat.mod_lt _ (Nat.succ_pos _)
    have ih := orderEvents_perm fuel ((e :: e' :: rest).eraseIdx (Config.tieChoice n % (rest.length + 2))) (n + 1) (by
      rw [List.length_eraseIdx_of_lt hk]; simpa using h)
    simp only [orderEvents, List.getElem?_eq_getElem hk, Option.getD_some]
    exact (ih.cons _).trans (List.getElem_cons_eraseIdx_perm hk)

theorem silent_iff (r : VehicleRec) :
    r.silent = true ↔ r.silence = some 0 ∧ r.state ≠ .offline ∧ r.state ≠ .stalled := by
  simp [VehicleRec.silent, and_assoc]

theorem offerExpired_iff (r : VehicleRec) : r.offerExpired = true ↔ r.offer = some 0 ∧ r.state = .offered := by
  simp [VehicleRec.offerExpired]

theorem promotionDue_iff (s : State) (r : OrderRec) : s.promotionDue r = true ↔
    r.state = .queued ∧ promoTime s.timing r.cls ≠ 0 ∧
      promoTime s.timing r.cls * 1000 ≤ (s.msBase - r.classEntry).toNat := by
  simp only [State.promotionDue, Bool.and_eq_true, decide_eq_true_eq, and_assoc]
  exact Iff.rfl

theorem mem_dueClock (s : State) (c : Instr) : c ∈ s.dueClock ↔ c = .fabClockAdvance ∧ s.divider = 999 := by
  unfold State.dueClock; split <;> simp [*]

theorem mem_dueScrub (s : State) (c : Instr) : c ∈ s.dueScrub ↔ c = .scrubStep ∧ s.scrubTimer = some 0 := by
  unfold State.dueScrub; split <;> simp [*]

theorem mem_dueSilences (s : State) (c : Instr) : c ∈ s.dueSilences ↔
    ∃ v, c = .silenceExpiry v ∧ (s.vehicle v).silence = some 0 ∧ (s.vehicle v).state ≠ .offline ∧
      (s.vehicle v).state ≠ .stalled := by
  simp only [State.dueSilences, List.mem_map, List.mem_filter, mem_allVehicles, true_and, silent_iff]
  exact ⟨fun ⟨v, h, e⟩ => ⟨v, e.symm, h⟩, fun ⟨v, e, h⟩ => ⟨v, h, e.symm⟩⟩

theorem mem_dueOffers (s : State) (c : Instr) : c ∈ s.dueOffers ↔
    ∃ v, c = .offerExpiry v ∧ (s.vehicle v).offer = some 0 ∧ (s.vehicle v).state = .offered := by
  simp only [State.dueOffers, List.mem_map, List.mem_filter, mem_allVehicles, true_and, offerExpired_iff]
  exact ⟨fun ⟨v, h, e⟩ => ⟨v, e.symm, h⟩, fun ⟨v, e, h⟩ => ⟨v, h, e.symm⟩⟩

/-- R86: the live slots. -/
@[simp] theorem mem_liveSlots (s : State) (o : Slot) : o ∈ s.liveSlots ↔ (s.order o).isSome = true := by
  simp [State.liveSlots]

theorem mem_duePromotions (s : State) (c : Instr) : c ∈ s.duePromotions ↔
    ∃ o r, c = .promotion o ∧ s.order o = some r ∧ r.state = .queued ∧ promoTime s.timing r.cls ≠ 0 ∧
      promoTime s.timing r.cls * 1000 ≤ (s.msBase - r.classEntry).toNat := by
  simp only [State.duePromotions, List.mem_map, List.mem_filter, mem_liveSlots, Option.any_eq_true, promotionDue_iff]
  constructor
  · rintro ⟨o, ⟨-, r, hr, hdue⟩, rfl⟩; exact ⟨o, r, rfl, hr, hdue⟩
  · rintro ⟨o, r, rfl, hr, hdue⟩; exact ⟨o, ⟨by simp [hr], r, hr, hdue⟩, rfl⟩

/-- R147: the tables one millisecond later, before the due events join the queue. -/
def State.ticked (s : State) : State :=
  { s with
    msBase := s.msBase + 1
    vehicles := s.vehicles.map VehicleRec.tick
    scrubTimer := countDown s.scrubTimer
    divider := if s.divider = 999 then 999 else s.divider + 1 }

/-- R147: what has become due in that millisecond. -/
def State.due (s : State) : List Instr :=
  s.dueClock ++ s.ticked.dueScrub ++ s.ticked.dueSilences ++ s.ticked.dueOffers ++ s.ticked.duePromotions

theorem tick_eq (s : State) : s.tick = { s.ticked with
    pending := s.pending ++ (orderEvents s.due.length s.due s.freeCount).1
    freeCount := (orderEvents s.due.length s.due s.freeCount).2 } := rfl

/-- Settles O2: the decision the trigger asks for, else the millisecond, its events a permutation of what is due. -/
theorem idleStep : Obligations.IdleStep := by
  unfold Obligations.IdleStep
  intro s hp
  have hidle : step s = .next s.idle := by simp [step, hp]
  refine ⟨fun h => ?_, fun h => ⟨s.tick, ?_, ?_, fun c => ?_⟩⟩
  · rw [hidle, State.idle, if_pos h, hp, List.nil_append]
  · rw [hidle, State.idle, if_neg h]
  · rw [tick_eq]; rfl
  · have hmem : c ∈ s.tick.pending ↔ c ∈ s.due := by
      rw [tick_eq]
      show c ∈ s.pending ++ _ ↔ _
      rw [hp, List.nil_append]
      exact (orderEvents_perm s.due.length s.due s.freeCount (Nat.le_refl _)).mem_iff
    rw [hmem, State.due]
    simp only [List.mem_append, mem_dueClock, mem_dueScrub, mem_dueSilences, mem_dueOffers, mem_duePromotions, or_assoc]
    exact Iff.rfl

end Sys2Proof.Machine
end

section
/-! `Keeps` for the operations of the requests and of the timer events, one lemma each (R61 to R130). -/

namespace Sys2Proof.Machine

variable {s t : State}

/-! ## The handshake -/

theorem Keeps.accepted (h : Keeps s t) (v c f) : Keeps s (t.accepted v c f).1 := h.restartSilence v

theorem Keeps.takeOffer (h : Keeps s t) (v o r) : Keeps s (t.takeOffer v o r) :=
  (((h.updVehicle v _).setOrder o _).noteOrder o _ _ _).noteVehicle v _

theorem Keeps.pick (h : Keeps s t) (v o r) : Keeps s (t.pick v o r) :=
  ((((h.releasePort? o r.source).setOrder o _).updVehicle v _).noteOrder o _ _ _).noteVehicle v _

theorem Keeps.pickEmpty (h : Keeps s t) (v o) : Keeps s (t.pickEmpty v o).1 :=
  (Keeps.enterIdle read_keeps (h.endOrder o _ _) v).noteVehicle v _

theorem Keeps.pickOther (h : Keeps s t) (v o c) : Keeps s (t.pickOther v o c).1 :=
  (((h.endOrder o _ _).enterLoadedIdle v _).bindCarrier v _).noteVehicle v _

theorem Keeps.readPickSearch (h : Keeps s t) (c) : Keeps s (t.readPickSearch c).1 := by
  unfold State.readPickSearch; split
  · exact Keeps.readAll read_keeps _ (Keeps.readAll read_keeps _ h)
  · exact h

theorem Keeps.deliver (h : Keeps s t) (v o) : Keeps s (t.deliver v o).1 :=
  (Keeps.enterIdle read_keeps (h.endOrder o _ _) v).noteVehicle v _

theorem Keeps.turn (h : Keeps s t) (v o r p) : Keeps s (t.turn v o r p) :=
  ((((h.releasePort o _).reserve p o _).setOrder o _).noteReroute v o _ _ _).noteOrder o _ _ _

theorem Keeps.refuseDrop (h : Keeps s t) (v o) : Keeps s (t.refuseDrop v o) :=
  ((h.endOrder o _ _).enterLoadedIdle v _).noteVehicle v _

/-! ## The scheduler's requests -/

theorem Keeps.takeOrder (h : Keeps s t) (l o tag c src d a q) : Keeps s (t.takeOrder l o tag c src d a q).1 :=
  (((Keeps.nextSubmitSeq read_keeps h).setOrder o _).enterQueue o).setTrigger

theorem Keeps.submitChecks (h : Keeps s t) (l tag c src d a q) : Keeps s (t.submitChecks l tag c src d a q).1 := by
  have horders := Keeps.readAll read_keeps t.orderRefs h
  unfold State.submitChecks; dsimp only
  split
  · exact horders
  · have hvehicles := Keeps.readUntilBad read_keeps vehicleRefs horders
    split
    · exact hvehicles
    · split
      · exact hvehicles
      · split
        · exact hvehicles
        · split
          · exact hvehicles
          · exact hvehicles.takeOrder ..

theorem Keeps.cancelVehicle (h : Keeps s t) (o v b) : Keeps s (t.cancelVehicle o v b).1 := by
  have htold := (h.noteWithdraw v o .cancelled).updVehicle v fun r => { r with offer := none, order := none }
  unfold State.cancelVehicle; dsimp only
  split
  · exact htold.enterLoadedIdle v _
  · exact Keeps.enterIdle read_keeps htold v

theorem Keeps.cancel (h : Keeps s t) (o r) : Keeps s (t.cancel o r).1 := by
  unfold State.cancel; split
  · exact h.freeOrder o
  · exact ((h.cancelVehicle o _ _).freeOrder o).noteVehicle _ _
  · exact h.freeOrder o

theorem Keeps.redirect (h : Keeps s t) (o r d a) : Keeps s (t.redirect o r d a) := by
  have hreleased : Keeps s (if r.inField ∧ r.destInUse ≠ d then t.releasePort o r.destInUse else t) := by
    split
    · exact h.releasePort o _
    · exact h
  unfold State.redirect; dsimp only
  split
  · split
    · exact ((hreleased.setOrder o _).reserve d o _).noteReroute _ _ _ _ _
    · exact (hreleased.setOrder o _).reserve d o _
  · exact hreleased.setOrder o _

theorem Keeps.reclass (h : Keeps s t) (o r c) : Keeps s (t.reclass o r c) := by
  unfold State.reclass; split
  · exact ((h.leaveQueue o).setOrder o _).enterQueue o
  · exact h.setOrder o _

theorem Keeps.searchTag (l tag) : ∀ (os : List Slot) {t : State}, Keeps s t → Keeps s (State.searchTag l tag os t).1
  | [], _, h => h
  | o :: os, t, h => by
    simp only [State.searchTag]; split
    · exact h.readOrder o
    · exact Keeps.searchTag l tag os (h.readOrder o)

/-! ## The roster -/

theorem Keeps.reportPosition (h : Keeps s t) (v b) : Keeps s (t.reportPosition v b).1 := by
  have hmoved := ((Keeps.releaseUntil v ((t.vehicle v).behind b) h).setOwner v).restartSilence v
  unfold State.reportPosition; dsimp only
  split
  · exact hmoved.setTrigger.noteVehicleIfChanged v _
  · exact hmoved.noteVehicleIfChanged v _

theorem Keeps.releaseAhead (h : Keeps s t) (v n) : Keeps s (t.releaseAhead v n).1 :=
  (Keeps.releaseUntil v _ (h.endWait v)).restartSilence v

theorem Keeps.joinRail (h : Keeps s t) (l v b) : Keeps s (t.joinRail l v b) := (h.updBlock b _).updVehicle v _

theorem Keeps.joinState (h : Keeps s t) (v c) : Keeps s (t.joinState v c).1 := by
  unfold State.joinState; split
  · exact Keeps.enterIdle read_keeps h v
  · exact h.enterLoadedIdle v _

theorem Keeps.joinVehicle (h : Keeps s t) (l v b c) : Keeps s (t.joinVehicle l v b c).1 :=
  (((((h.joinRail l v b).joinState v c).bindCarrier v c).restartSilence v).setTrigger).noteVehicle v _

theorem Keeps.leaveRail (h : Keeps s t) (v) : Keeps s (t.leaveRail v).1 :=
  ((Keeps.releaseEvery v _ (h.endWait v)).updVehicle v _).noteVehicle v _

theorem Keeps.unstall (h : Keeps s t) (v) : Keeps s (t.unstall v).1 := by
  have hcleared := h.updVehicle v fun r => { r with cause := none, saved := none }
  unfold State.unstall; dsimp only; split
  · exact Keeps.enterIdle read_keeps hcleared v
  · exact hcleared.enterLoadedIdle v _
  · split
    · exact (hcleared.updVehicle v _).unsuspend _
    · dsimp only; exact hcleared.updVehicle v _
  · dsimp only; exact hcleared.updVehicle v _
  · exact hcleared

theorem Keeps.recoverVehicle (h : Keeps s t) (v b) : Keeps s (t.recoverVehicle v b).1 := by
  have howned := (Keeps.releaseUntil v (((t.readOrderOf v).1.vehicle v).behind b) (h.readOrderOf v)).setOwner v
  unfold State.recoverVehicle; dsimp only
  split
  · exact howned.noteVehicleIfChanged v _
  · exact ((howned.unstall v).restartSilence v).noteVehicleIfChanged v _

theorem Keeps.drainVehicle (h : Keeps s t) (v) : Keeps s (t.drainVehicle v) := by
  unfold State.drainVehicle; split
  · exact (h.updVehicle v _).noteVehicle v _
  · exact h
  · exact h.updVehicle v _

theorem Keeps.restoreVehicle (h : Keeps s t) (v) : Keeps s (t.restoreVehicle v).1 := by
  have hcleared := h.updVehicle v fun r => { r with drain := false }
  unfold State.restoreVehicle; dsimp only; split
  · exact (Keeps.enterIdle read_keeps hcleared v).noteVehicle v _
  · exact hcleared

theorem Keeps.evictVehicle (h : Keeps s t) (v b) : Keeps s (t.evictVehicle v b).1 :=
  (((Keeps.readAll read_keeps _ ((Keeps.releaseEvery v _ ((h.readOrderOf v).endWait v)).evictOrder v)).unbind v).updVehicle
    v _).noteVehicle v _

/-! ## The console -/

theorem Keeps.applySilence (h : Keeps s t) (old new) : Keeps s (t.applySilence old new).1 := by
  unfold State.applySilence; split
  · exact h
  · exact (Keeps.readAll read_keeps vehicleRefs h).write rfl

theorem Keeps.promoteIfDue (h : Keeps s t) (o) : Keeps s (t.promoteIfDue o).1 := by
  unfold State.promoteIfDue; dsimp only; split
  · exact (h.readOrder o).promote o
  · exact h.readOrder o

theorem Keeps.promoteAllDue : ∀ (os : List Slot) {t : State}, Keeps s t → Keeps s (State.promoteAllDue os t).1
  | [], _, h => h
  | o :: os, _, h => Keeps.promoteAllDue os (h.promoteIfDue o)

theorem Keeps.applyPromotion (h : Keeps s t) (old new c) : Keeps s (t.applyPromotion old new c).1 := by
  unfold State.applyPromotion; split
  · exact Keeps.promoteAllDue _ h
  · exact h

theorem Keeps.thaw (h : Keeps s t) (b) : Keeps s (t.thaw b).1 := by
  have hread := Keeps.readAll read_keeps vehicleRefs h
  unfold State.thaw; dsimp only; split
  · dsimp only; exact hread.updBlock b _
  · exact (hread.updBlock b _).askArbiter b

end Sys2Proof.Machine
end

section
/-! What every step keeps: the soundness of links, settings and counters, the roles, and outside SETUP the map (R8, R155,
R163). -/

namespace Sys2Proof.Machine

/-! ## The relation -/

/-- A change that keeps the part sound, the roles, and the Map Store. -/
structure Holds (s t : State) : Prop where
  sound : s.sound = true → t.sound = true
  role : ∀ l, (t.link l).role = (s.link l).role
  map : t.map = s.map
  bays : t.bays = s.bays
  placed : ∀ p, (t.port p).block = (s.port p).block

theorem Holds.refl (s : State) : Holds s s := ⟨id, fun _ => rfl, rfl, rfl, fun _ => rfl⟩

theorem Holds.trans {s t u : State} (h : Holds s t) (g : Holds t u) : Holds s u :=
  ⟨fun x => g.sound (h.sound x), fun l => (g.role l).trans (h.role l), g.map.trans h.map, g.bays.trans h.bays,
    fun p => (g.placed p).trans (h.placed p)⟩

theorem sound_iff (s : State) : s.sound = true ↔
    (∀ l, (s.link l).sound = true) ∧ weightsInRange s.weights = true ∧ timingInRange s.timing = true ∧
      s.corrections ≤ 255 ∧ s.divider ≤ 999 := by
  have hlinks : s.links.all Link.sound = true ↔ ∀ l, (s.link l).sound = true := by
    rw [Vector.all_eq_true]
    exact ⟨fun h l => h l.val l.isLt, fun h i hi => h ⟨i, hi⟩⟩
  simp only [State.sound, Bool.and_eq_true, hlinks, decide_eq_true_eq, and_assoc]

theorem link_sound_iff (k : Link) : k.sound = true ↔
    k.queue.length ≤ 32 ∧ (k.role = .disabled → k.silent = true) := by
  simp only [Link.sound, Bool.and_eq_true, decide_eq_true_eq, Bool.or_eq_true, ne_eq, decide_not, Bool.not_eq_true',
    decide_eq_false_iff_not, Decidable.imp_iff_not_or]

theorem silent_congr {k k' : Link} (hrx : k'.rx = k.rx) (hslot : k'.slot = k.slot) (htx : k'.tx = k.tx)
    (hqueue : k'.queue = k.queue) (hatt : k'.attention = k.attention) : k'.silent = k.silent := by
  simp only [Link.silent, hrx, hslot, htx, hqueue, hatt]

theorem LinkKeeps.sound {k k' : Link} (h : LinkKeeps k k') (hk : k.sound = true) : k'.sound = true := by
  rw [link_sound_iff] at hk ⊢
  obtain ⟨hroom, hsilent⟩ := hk
  refine ⟨h.room hroom, fun hd => ?_⟩
  obtain ⟨hqueue, hatt⟩ := h.disabled (h.role ▸ hd)
  rw [silent_congr h.rx h.slot h.tx hqueue hatt]
  exact hsilent (h.role ▸ hd)

theorem Keeps.holds {s t : State} (h : Keeps s t) : Holds s t where
  sound := fun hs => by
    rw [sound_iff] at hs ⊢
    obtain ⟨hlinks, hweights, htiming, hcorr, hdiv⟩ := hs
    exact ⟨fun l => (h.links l).sound (hlinks l), h.weights ▸ hweights, h.timing ▸ htiming, h.corrections hcorr,
      h.divider ▸ hdiv⟩
  role := fun l => (h.links l).role
  map := h.map
  bays := h.bays
  placed := h.placed

/-! ## Changes of the links and of the settings -/

/-- A change of the link table alone, that keeps each link's role and soundness. -/
theorem holds_writeLinks (s : State) (ks : Vector Link 6)
    (h : ∀ l : LinkId, ks[l.val].role = (s.link l).role ∧ ((s.link l).sound = true → ks[l.val].sound = true)) :
    Holds s { s with links := ks } where
  sound := fun hs => by
    rw [sound_iff] at hs ⊢
    exact ⟨fun l => (h l).2 (hs.1 l), hs.2⟩
  role := fun l => (h l).1
  map := rfl
  bays := rfl
  placed := fun _ => rfl

theorem holds_mapLinks (s : State) (f : Link → Link)
    (h : ∀ k, (f k).role = k.role ∧ (k.sound = true → (f k).sound = true)) :
    Holds s { s with links := s.links.map f } :=
  holds_writeLinks s _ fun l => by simpa [State.link] using h (s.link l)

theorem holds_updLink (s : State) (l : LinkId) (f : Link → Link)
    (h : (f (s.link l)).role = (s.link l).role ∧ ((s.link l).sound = true → (f (s.link l)).sound = true)) :
    Holds s (s.updLink l f) := by
  refine holds_writeLinks s _ fun m => ?_
  by_cases e : l = m
  · subst e; simpa using h
  · have hne : l.val ≠ m.val := fun x => e (Fin.ext x)
    simp [State.link, Vector.getElem_set_ne, hne]

/-- A link that is not DISABLED stays sound when its queue does not grow past 32. -/
theorem sound_of_enabled {k : Link} (hr : k.role ≠ .disabled) (hq : k.queue.length ≤ 32) : k.sound = true :=
  (link_sound_iff k).mpr ⟨hq, fun h => absurd h hr⟩

theorem queue_le_of_sound {k : Link} (h : k.sound = true) : k.queue.length ≤ 32 := ((link_sound_iff k).mp h).1

/-- A change of a link that is not DISABLED, its role and its queue kept. -/
theorem holds_updLink_enabled (s : State) (l : LinkId) (f : Link → Link) (hd : (s.link l).role ≠ .disabled)
    (hr : (f (s.link l)).role = (s.link l).role) (hq : (f (s.link l)).queue = (s.link l).queue) :
    Holds s (s.updLink l f) :=
  holds_updLink s l f ⟨hr, fun h => sound_of_enabled (hr ▸ hd) (hq ▸ queue_le_of_sound h)⟩

theorem choose_sound (k : Link) : k.choose.role = k.role ∧ (k.sound = true → k.choose.sound = true) := by
  unfold Link.choose
  split
  · exact ⟨rfl, id⟩
  · next hd =>
    split
    · exact ⟨rfl, id⟩
    · split
      · exact ⟨rfl, fun h => sound_of_enabled hd (queue_le_of_sound (k := k) h)⟩
      · next n rest hq _ =>
        refine ⟨rfl, fun h => sound_of_enabled hd ?_⟩
        have hlen := queue_le_of_sound (k := k) h
        rw [hq, List.length_cons] at hlen
        exact Nat.le_of_succ_le hlen
      · exact ⟨rfl, id⟩

theorem holds_endEvent (s : State) : Holds s s.endEvent := holds_mapLinks s _ choose_sound

theorem holds_receiverToHunt (s : State) (l : LinkId) (hd : (s.link l).role ≠ .disabled) :
    Holds s (s.receiverToHunt l) := holds_updLink_enabled s l _ hd rfl rfl

theorem holds_placeReply (s : State) (l : LinkId) (k tag : Byte) (a : Answer) (hd : (s.link l).role ≠ .disabled) :
    Holds s (s.placeReply l k tag a) := holds_updLink_enabled s l _ hd rfl rfl

/-- A change of nothing but the settings, in range as before. -/
theorem holds_of_settings {s t : State} (hlinks : t.links = s.links) (hmap : t.map = s.map) (hbays : t.bays = s.bays)
    (hplaced : ∀ p, (t.port p).block = (s.port p).block)
    (hw : weightsInRange s.weights = true → weightsInRange t.weights = true)
    (ht : timingInRange s.timing = true → timingInRange t.timing = true)
    (hc : s.corrections ≤ 255 → t.corrections ≤ 255) (hd : s.divider ≤ 999 → t.divider ≤ 999) : Holds s t := by
  have hlink (l : LinkId) : t.link l = s.link l := by simp [State.link, hlinks]
  refine ⟨fun hs => ?_, fun l => by rw [hlink], hmap, hbays, hplaced⟩
  rw [sound_iff] at hs ⊢
  obtain ⟨h1, h2, h3, h4, h5⟩ := hs
  exact ⟨fun l => by rw [hlink]; exact h1 l, hw h2, ht h3, hc h4, hd h5⟩

/-! ## Requests -/

/-- The guarded form: outside SETUP the map is kept too. -/
structure Guarded (s t : State) : Prop where
  sound : s.sound = true → t.sound = true
  role : ∀ l, (t.link l).role = (s.link l).role
  map : s.mode ≠ .setup → t.map = s.map ∧ t.bays = s.bays ∧ ∀ p, (t.port p).block = (s.port p).block

theorem Holds.guarded {s t : State} (h : Holds s t) : Guarded s t := ⟨h.sound, h.role, fun _ => ⟨h.map, h.bays, h.placed⟩⟩

theorem Guarded.trans_holds {s t u : State} (h : Guarded s t) (g : Holds t u) : Guarded s u where
  sound := fun x => g.sound (h.sound x)
  role := fun l => (g.role l).trans (h.role l)
  map := fun x => by
    obtain ⟨hm, hb, hp⟩ := h.map x
    exact ⟨g.map.trans hm, g.bays.trans hb, fun p => (g.placed p).trans (hp p)⟩

theorem Holds.trans_guarded {s t u : State} (h : Holds s t) (hmode : t.mode = s.mode) (g : Guarded t u) : Guarded s u where
  sound := fun x => g.sound (h.sound x)
  role := fun l => (g.role l).trans (h.role l)
  map := fun x => by
    obtain ⟨hm, hb, hp⟩ := g.map (by rw [hmode]; exact x)
    exact ⟨hm.trans h.map, hb.trans h.bays, fun p => (hp p).trans (h.placed p)⟩

/-- A request keeps what its body keeps in the modes that permit it. -/
theorem guarded_request {s : State} {h : Hdr} {kind : ReqKind} {body : State → State × Answer}
    (hb : ∀ t : State, ReqKind.allowedIn kind t.mode = true → ReqKind.permits kind (t.link h.link).role = true →
      Guarded t (body t).1) {t : State} (ht : s.request h kind body = .next t) : Guarded s t := by
  simp only [State.request, Host.Outcome.next.injEq] at ht
  subst ht
  refine Guarded.trans_holds ?_ (holds_endEvent _)
  unfold State.takeFrame
  split
  · exact (Holds.refl s).guarded
  · next hd =>
    have hhunt := holds_receiverToHunt s h.link hd
    dsimp only
    split
    · exact (hhunt.trans ((Keeps.refl _).attend h.link .overrun).holds).guarded
    · have hcarry : Guarded (s.receiverToHunt h.link) ((s.receiverToHunt h.link).carryOut h kind body).1 := by
        unfold State.carryOut
        split
        · exact (Holds.refl _).guarded
        · next hp =>
          split
          · exact (Holds.refl _).guarded
          · next hm =>
            split
            · exact (Holds.refl _).guarded
            · exact hb _ (by simpa using hm) (by simpa using hp)
      have hall := hhunt.trans_guarded (receiverToHunt_mode s h.link) hcarry
      refine hall.trans_holds (holds_placeReply _ _ _ _ _ ?_)
      rw [hall.role]; exact hd

/-! ## The shapes a body is built of -/

section Shapes

variable {s : State}

theorem holds_inRange {α : Type} (x : Option α) (go : α → State × Answer) (h : ∀ a, Holds s (go a).1) :
    Holds s (inRange x s go).1 := by
  cases x with
  | none => exact .refl s
  | some a => exact h a

theorem holds_withVehicle (v d) (go : State → State × Answer) (h : ∀ t, Holds t (go t).1) :
    Holds s (s.withVehicle v d go).1 := by
  have hread := ((Keeps.refl s).readVehicle v).holds
  unfold State.withVehicle; dsimp only; split
  · exact hread
  · exact hread.trans (h _)

theorem holds_withOwned (l v d) (go : State → State × Answer) (h : ∀ t, Holds t (go t).1) :
    Holds s (s.withOwned l v d go).1 := by
  refine holds_withVehicle v d _ fun t => ?_
  split
  · exact h t
  · exact .refl t

theorem holds_withOrderOf (v o d) (go : OrderRec → State → State × Answer) (h : ∀ r t, Holds t (go r t).1) :
    Holds s (s.withOrderOf v o d go).1 := by
  have hread := (Keeps.refl s).readOrder o
  unfold State.withOrderOf; dsimp only; split
  · exact (hread.accepted v _ _).holds
  · split
    · exact hread.holds.trans (h _ _)
    · exact hread.holds

theorem holds_withOffer (l v o) (go : OrderRec → State → State × Answer) (h : ∀ r t, Holds t (go r t).1) :
    Holds s (s.withOffer l v o go).1 := by
  refine holds_withOwned l v _ _ fun t => ?_
  split
  · exact holds_withOrderOf v o _ go h
  · split
    · exact ((Keeps.refl t).accepted v _ _).holds
    · exact .refl t

theorem holds_withWork (l v m d) (go : Slot → OrderRec → State → State × Answer) (h : ∀ o r t, Holds t (go o r t).1) :
    Holds s (s.withWork l v m d go).1 := by
  refine holds_withOwned l v _ _ fun t => ?_
  split
  · split
    · exact holds_withOrderOf v _ _ _ (h _)
    · exact .refl t
  · exact .refl t

theorem holds_withOrder (l o tag c d) (go : OrderRec → State → State × Answer) (h : ∀ r t, Holds t (go r t).1) :
    Holds s (s.withOrder l o tag c d go).1 := by
  have hread := ((Keeps.refl s).readOrder o).holds
  unfold State.withOrder; dsimp only; split
  · exact hread
  · split
    · exact hread
    · split
      · exact hread
      · split
        · exact hread
        · split
          · exact hread
          · exact hread.trans (h _ _)

theorem holds_withVehicleOf (r d) (go : State → State × Answer) (h : ∀ t, Holds t (go t).1) :
    Holds s (s.withVehicleOf r d go).1 := by
  unfold State.withVehicleOf; split
  · exact holds_withVehicle _ d go h
  · exact h s

theorem holds_withRoster (go : State → State × Answer) (h : ∀ t, Holds t (go t).1) : Holds s (s.withRoster go).1 := by
  have hread := (Keeps.readUntilBad read_keeps vehicleRefs (Keeps.refl s)).holds
  unfold State.withRoster; dsimp only; split
  · exact hread
  · exact hread.trans (h _)

theorem holds_joinCarrier (v c d) (go : State → State × Answer) (h : ∀ t, Holds t (go t).1) :
    Holds s (s.joinCarrier v c d go).1 := by
  unfold State.joinCarrier; split
  · have hvehicles := Keeps.readUntilBad read_keeps vehicleRefs (Keeps.refl s)
    dsimp only; split
    · exact hvehicles.holds
    · split
      · exact hvehicles.holds
      · have horders := Keeps.readUntilBad read_keeps (readUntilBad read vehicleRefs s).1.orderRefs hvehicles
        split
        · exact horders.holds
        · split
          · exact horders.holds
          · exact horders.holds.trans (h _)
  · exact h s

end Shapes

/-! ## Changes that are no `Keeps` -/

section Changes

variable (s : State)

theorem holds_changeMode (m c) : Holds s (s.changeMode m c) :=
  have hmode : Holds s { s with mode := m } := ⟨id, fun _ => rfl, rfl, rfl, fun _ => rfl⟩
  hmode.trans ((Keeps.refl _).notifyMode _ _).holds

theorem holds_resume : Holds s s.resume :=
  have hmode : Holds s { s with mode := .run } := ⟨id, fun _ => rfl, rfl, rfl, fun _ => rfl⟩
  hmode.trans ((Keeps.askArbiters allBlocks (Keeps.refl _)).setTrigger.notifyMode _ _).holds

theorem holds_convertReset : Holds s s.convertReset := by
  unfold State.convertReset; split
  · exact holds_changeMode s _ _
  · exact .refl s

theorem softReset_link_sound (k : Link) : k.softReset.role = k.role ∧ (k.sound = true → k.softReset.sound = true) := by
  refine ⟨rfl, fun h => ?_⟩
  rw [link_sound_iff] at h ⊢
  refine ⟨Nat.zero_le _, fun hd => ?_⟩
  have hsilent := h.2 hd
  simp only [Link.silent, Bool.and_eq_true] at hsilent
  obtain ⟨⟨⟨⟨hrx, hslot⟩, htx⟩, -⟩, -⟩ := hsilent
  simp [Link.silent, hslot, htx, of_decide_eq_true hrx, Link.softReset]

theorem holds_softReset : Holds s s.softReset := by
  unfold State.softReset
  refine Holds.trans (Holds.trans (holds_mapLinks s Link.softReset softReset_link_sound) ?_) (holds_changeMode _ _ _)
  exact holds_of_settings rfl rfl rfl (fun p => by simp [State.port]) id id (fun _ => Nat.zero_le _) id

theorem holds_setDown (p d) : Holds s (s.setDown p d) := by
  have hset : Holds s (s.setPort p { s.port p with down := d }) :=
    holds_of_settings rfl rfl rfl (fun q => by rw [setPort_read]; split <;> simp [*]) id id id id
  have hnote := hset.trans ((Keeps.refl _).notifyWhere (·.maskPort)
    (.portState p ((s.setPort p { s.port p with down := d }).port p).block d
      ((s.setPort p { s.port p with down := d }).port p).reservation)).holds
  unfold State.setDown; split
  · exact .refl s
  · dsimp only; split
    · exact hnote.trans ((Keeps.refl _).setTrigger).holds
    · exact hnote

theorem holds_moveFence (f new) : Holds s (s.moveFence f new) :=
  have hset : Holds s (s.setFence f new) := holds_of_settings rfl rfl rfl (fun _ => rfl) id id id id
  hset.trans (Keeps.askArbiters _ (Keeps.refl _)).holds

theorem holds_setTiming (new) (hnew : timingInRange new = true) : Holds s (s.setTiming new).1 := by
  have hset : Holds s { s with timing := new } := holds_of_settings rfl rfl rfl (fun _ => rfl) id (fun _ => hnew) id id
  have hkeeps := (((Keeps.refl { s with timing := new }).applySilence s.timing.silence new.silence).applyPromotion s.timing
    new .bulk).applyPromotion s.timing new .standard |>.applyPromotion s.timing new .express
  have htimer (u : State) (x) : Holds u { u with scrubTimer := x } :=
    holds_of_settings rfl rfl rfl (fun _ => rfl) id id id id
  unfold State.setTiming; dsimp only
  split
  · exact (hset.trans hkeeps.holds).trans (htimer _ _)
  · exact (hset.trans hkeeps.setTrigger.holds).trans (htimer _ _)

/-- R5: a write of both copies of a block's static fields; the Map Store changes, everything else is kept. -/
theorem guarded_writeBlocks (hm : s.mode = .setup) : ∀ rs : List (BlockId × BlockStatic),
    (State.writeBlocks rs s).1.mode = .setup ∧ Guarded s (State.writeBlocks rs s).1 := by
  intro rs
  induction rs generalizing s with
  | nil => exact ⟨hm, (Holds.refl s).guarded⟩
  | cons x rs ih =>
    have hread := (Keeps.refl s).readBlock x.1
    have hwrite : Guarded s (s.writeBlock x.1 x.2).1 := by
      refine ⟨fun hs => hread.holds.sound hs, hread.holds.role, fun h => absurd hm h⟩
    have hmode : (s.writeBlock x.1 x.2).1.mode = .setup := hread.mode.trans hm
    obtain ⟨hm2, g⟩ := ih (s.writeBlock x.1 x.2).1 hmode
    exact ⟨hm2, fun hs => g.sound (hwrite.sound hs), fun l => (g.role l).trans (hwrite.role l), fun h => absurd hm h⟩

end Changes

/-! ## Every request -/

theorem holds_keeps {s t : State} (h : Keeps s t) : Holds s t := h.holds

/-- R8, R155, R163: what the request's own checks and effect keep, by its constructor. -/
theorem guarded_of_request {i : Instr} {x} (hi : i.requestFields = some x) {s t : State} (ht : exec i s = .next t) :
    Guarded s t := by
  cases i <;> simp only [Instr.requestFields, reduceCtorEq] at hi <;> refine guarded_request (fun u hm hp => ?_) ht
  case status =>
    exact (Keeps.readAll read_keeps _ (Keeps.readAll read_keeps _ (Keeps.refl u))).holds.guarded
  case clearAttention h m =>
    refine (holds_inRange _ _ fun a => ?_).guarded
    exact holds_updLink_enabled u h.link (fun k => { k with attention := k.attention.without a }) (role_of_permits hp) rfl
      rfl
  case setNoticeMask h k m =>
    refine (holds_inRange _ _ fun l => holds_inRange _ _ fun m => ?_).guarded
    split
    · exact .refl u
    · exact holds_updLink u l (fun k => { k with maskVehicle := m.1, maskPort := m.2 }) ⟨rfl, fun h => h⟩
  case queryVehicle =>
    exact (holds_inRange _ _ fun v => ((Keeps.refl u).readVehicle v).holds).guarded
  case queryOrder h sel x =>
    refine Holds.guarded ?_
    split
    · exact holds_inRange _ _ fun o => ((Keeps.refl u).readOrder o).holds
    · split
      · have hk := Keeps.searchTag h.link x u.liveSlots (Keeps.refl u)
        split <;> next e => rw [e] at hk; exact hk.holds
      · exact .refl u
  case queryBlock => exact (holds_inRange _ _ fun b => ((Keeps.refl u).readBlock b).holds).guarded
  case queryPort => exact (holds_inRange _ _ fun p => .refl u).guarded
  case submitOrder =>
    refine (holds_inRange _ _ fun c => holds_inRange _ _ fun src => holds_inRange _ _ fun d => holds_inRange _ _ fun a =>
      holds_inRange _ _ fun q => ?_).guarded
    split
    · exact .refl u
    · split
      · exact ((Keeps.refl u).submitChecks ..).holds
      · have hread := Keeps.readUntilBad read_keeps vehicleRefs (Keeps.refl u)
        dsimp only
        split
        · exact hread.holds
        · split
          · exact hread.holds
          · exact (hread.submitChecks ..).holds
  case cancelOrder =>
    refine (holds_inRange _ _ fun o => holds_withOrder _ _ _ _ _ _ fun r w => ?_).guarded
    split
    · exact .refl w
    · exact holds_withVehicleOf _ _ _ fun w => ((Keeps.refl w).cancel o r).holds
  case redirectOrder =>
    refine (holds_inRange _ _ fun o => holds_inRange _ _ fun d => holds_inRange _ _ fun a => ?_).guarded
    split
    · exact .refl u
    · refine holds_withOrder _ _ _ _ _ _ fun r w => ?_
      split
      · exact .refl w
      · split
        · exact .refl w
        · exact holds_withVehicleOf _ _ _ fun w => ((Keeps.refl w).redirect o r d a).holds
  case reclassOrder =>
    exact (holds_inRange _ _ fun o => holds_inRange _ _ fun c => holds_withOrder _ _ _ _ _ _ fun r w =>
      ((Keeps.refl w).reclass o r c).setTrigger.holds).guarded
  case setPortState =>
    refine (holds_inRange _ _ fun p => holds_inRange _ _ fun d => ?_).guarded
    split
    · exact .refl u
    · exact holds_setDown u p d
  case setClock h w =>
    have hset : Holds u { u with fabClock := w, divider := 0 } :=
      holds_of_settings (s := u) rfl rfl rfl (fun _ => rfl) id id id fun _ => Nat.zero_le _
    exact hset.guarded
  case join =>
    refine (holds_inRange _ _ fun v => holds_inRange _ _ fun b => holds_inRange _ _ fun c => ?_).guarded
    split
    · exact .refl u
    · refine holds_withVehicle _ _ _ fun w => ?_
      split
      · exact .refl w
      · have hread := ((Keeps.refl w).readBlock b).holds
        dsimp only
        split
        · exact hread
        · split
          · exact hread
          · exact hread.trans (holds_joinCarrier _ _ _ _ fun x => ((Keeps.refl x).joinVehicle ..).holds)
  case leave =>
    refine (holds_inRange _ _ fun v => holds_withOwned _ _ _ _ fun w => ?_).guarded
    split
    · exact ((Keeps.refl w).leaveRail v).holds
    · exact .refl w
  case position =>
    refine (holds_inRange _ _ fun v => holds_inRange _ _ fun b => ?_).guarded
    split
    · exact .refl u
    · refine holds_withVehicle _ _ _ fun w => ?_
      split
      · exact .refl w
      · split
        · exact .refl w
        · split
          · exact .refl w
          · exact ((Keeps.refl w).reportPosition v b).holds
  case claim =>
    refine (holds_inRange _ _ fun v => holds_inRange _ _ fun bs => ?_).guarded
    split
    · exact .refl u
    · split
      · exact .refl u
      · refine holds_withOwned _ _ _ _ fun w => ?_
        dsimp only
        split
        · exact .refl w
        · split
          · exact .refl w
          · split
            · exact .refl w
            · exact ((Keeps.walk v bs 0 (Keeps.refl w)).restartSilence v).holds
  case releaseAhead =>
    refine (holds_inRange _ _ fun v => ?_).guarded
    split
    · exact .refl u
    · refine holds_withOwned _ _ _ _ fun w => ?_
      split
      · exact .refl w
      · split
        · exact .refl w
        · exact ((Keeps.refl w).releaseAhead v _).holds
  case accept =>
    refine (holds_inRange _ _ fun v => holds_inRange _ _ fun o => holds_inRange _ _ fun src => holds_inRange _ _ fun d =>
      holds_inRange _ _ fun c => holds_withOffer _ _ _ _ fun r w => ?_).guarded
    dsimp only
    split
    · exact (((Keeps.refl w).takeOffer v o r).accepted v _ _).holds
    · split <;> exact (((Keeps.refl w).withdrawOffer v o _).accepted v _ _).holds
  case decline =>
    exact (holds_inRange _ _ fun v => holds_inRange _ _ fun o => holds_withOffer _ _ _ _ fun r w =>
      (((Keeps.refl w).withdrawOffer v o _).accepted v _ _).holds).guarded
  case pickDone =>
    refine (holds_inRange _ _ fun v => holds_inRange _ _ fun c => holds_withWork _ _ _ _ _ fun o r w => ?_).guarded
    dsimp only
    split
    · exact .refl w
    · split
      · exact (((Keeps.refl w).pick v o r).accepted v _ _).holds
      · split
        · exact (((Keeps.refl w).pickEmpty v o).accepted v _ _).holds
        · exact ((((Keeps.refl w).readPickSearch c).pickOther v o c).accepted v _ _).holds
  case dropDone =>
    refine (holds_inRange _ _ fun v => holds_withWork _ _ _ _ _ fun o r w => ?_).guarded
    dsimp only
    split
    · exact .refl w
    · exact (((Keeps.refl w).deliver v o).accepted v _ _).holds
  case dropFail =>
    refine (holds_inRange _ _ fun v => holds_withWork _ _ _ _ _ fun o r w => ?_).guarded
    split
    · exact (((Keeps.refl w).turn v o r _).accepted v _ _).holds
    · exact (((Keeps.refl w).refuseDrop v o).accepted v _ _).holds
  case fault =>
    refine (holds_inRange _ _ fun v => holds_withOwned _ _ _ _ fun w => ?_).guarded
    split
    · exact .refl w
    · exact ((Keeps.refl w).stall v _).holds
  case recover =>
    refine (holds_inRange _ _ fun v => holds_inRange _ _ fun b => ?_).guarded
    split
    · exact .refl u
    · refine holds_withVehicle _ _ _ fun w => ?_
      split
      · exact .refl w
      · split
        · exact .refl w
        · split
          · exact .refl w
          · exact ((Keeps.refl w).recoverVehicle v b).holds
  case heartbeat =>
    exact (holds_inRange _ _ fun v => holds_withOwned _ _ _ _ fun w => ((Keeps.refl w).restartSilence v).holds).guarded
  case writeBlocks h records =>
    have hsetup : u.mode = .setup := by simpa [ReqKind.allowedIn] using hm
    split
    · exact (Holds.refl u).guarded
    · cases records.mapM blockRecord? with
      | none => exact (Holds.refl u).guarded
      | some rs =>
        obtain ⟨-, g⟩ := guarded_writeBlocks u hsetup rs
        exact ⟨g.sound, g.role, fun h => absurd hsetup h⟩
  case writePorts h records =>
    have hsetup : u.mode = .setup := by simpa [ReqKind.allowedIn] using hm
    split
    · exact (Holds.refl u).guarded
    · cases records.mapM portRecord? with
      | none => exact (Holds.refl u).guarded
      | some rs =>
        rw [inRange_some, foldl_writePort]
        exact ⟨id, fun _ => rfl, fun h => absurd hsetup h⟩
  case writeBay h a k row =>
    have hsetup : u.mode = .setup := by simpa [ReqKind.allowedIn] using hm
    cases bay? a with
    | none => exact (Holds.refl u).guarded
    | some a =>
      cases linkOrNone? k with
      | none => exact (Holds.refl u).guarded
      | some k => exact ⟨id, fun _ => rfl, fun h => absurd hsetup h⟩
  case commitMap =>
    refine Holds.guarded ?_
    split
    · exact .refl u
    · have hset : Holds u { u with committed := true } := ⟨id, fun _ => rfl, rfl, rfl, fun _ => rfl⟩
      exact hset.trans (holds_changeMode _ _ _)
  case reopenMap =>
    refine (holds_withRoster _ fun w => ?_).guarded
    split
    · exact .refl w
    · exact holds_changeMode w _ _
  case setFence =>
    refine (holds_inRange _ _ fun f => holds_inRange _ _ fun x => holds_inRange _ _ fun y => ?_).guarded
    split
    · exact .refl u
    · exact holds_moveFence u _ _
  case clearFence => exact (holds_inRange _ _ fun f => holds_moveFence u _ _).guarded
  case setTiming h new =>
    refine Holds.guarded ?_
    split
    · exact .refl u
    · next hr => exact holds_setTiming u new (by simpa using hr)
  case setWeights h w =>
    refine Holds.guarded ?_
    split
    · exact .refl u
    · next hr => exact holds_of_settings rfl rfl rfl (fun _ => rfl) (fun _ => by simpa using hr) id id id
  case setLinkRate h _ _ =>
    refine (holds_inRange _ _ fun l => holds_inRange _ _ fun r => ?_).guarded
    exact holds_updLink_enabled u h.link (fun k => { k with pendingRate := some (l, r) }) (role_of_permits hp) rfl rfl
  case drain =>
    refine (holds_inRange _ _ fun v => holds_withVehicle _ _ _ fun w => ?_).guarded
    split
    · exact .refl w
    · exact ((Keeps.refl w).drainVehicle v).holds
  case restore =>
    refine (holds_inRange _ _ fun v => holds_withVehicle _ _ _ fun w => ?_).guarded
    split
    · exact .refl w
    · exact ((Keeps.refl w).restoreVehicle v).holds
  case evict =>
    refine (holds_inRange _ _ fun v => ?_).guarded
    have hread := (Keeps.refl u).readVehicle v
    dsimp only
    split
    · exact hread.holds
    · exact (hread.evictVehicle v _).holds
  case thaw =>
    refine (holds_inRange _ _ fun b => ?_).guarded
    have hread := (Keeps.refl u).readBlock b
    dsimp only
    split
    · exact hread.holds
    · split
      · exact hread.holds
      · exact (hread.thaw b).holds
  case readCapture => exact (Holds.refl u).guarded
  case clearCapture =>
    have hset : Holds u { u with capture := none, corrections := 0 } :=
      holds_of_settings (s := u) rfl rfl rfl (fun _ => rfl) id id (fun _ => Nat.zero_le _) id
    exact hset.guarded
  case halt =>
    refine Holds.guarded ?_
    dsimp only
    split
    · exact holds_changeMode u _ _
    · exact .refl u
  case resume =>
    refine Holds.guarded ?_
    dsimp only
    split
    · exact holds_resume u
    · exact .refl u
  case softReset =>
    refine (holds_withRoster _ fun w => ?_).guarded
    split
    · exact holds_convertReset w
    · exact holds_softReset w

/-! ## The other commands -/

theorem next_inj {s t : State} (h : (.next s : Host.Outcome State Fault Refusal) = .next t) : s = t := by
  injection h

section Events

variable {s t : State}

theorem holds_dropFrame (l : LinkId) : Holds s (s.dropFrame l) := by
  unfold State.dropFrame; split
  · next h => exact holds_updLink_enabled s l _ h.1 rfl rfl
  · exact .refl s

theorem takeRate_sound (r : Rate) (k : Link) :
    (k.takeRate r).role = k.role ∧ (k.sound = true → (k.takeRate r).sound = true) := by
  unfold Link.takeRate; split
  · next hf =>
    refine ⟨rfl, fun h => ?_⟩
    rw [link_sound_iff] at h ⊢
    refine ⟨h.1, fun hd => ?_⟩
    have hrx : k.rx = .hunt := by
      have := h.2 hd
      simp only [Link.silent, Bool.and_eq_true, decide_eq_true_eq] at this
      exact this.1.1.1.1
    rw [hrx] at hf; exact absurd hf Bool.false_ne_true
  · exact ⟨rfl, fun h => h⟩

theorem holds_applyRate (s : State) (x) : Holds s (s.applyRate x) := by
  unfold State.applyRate; split
  · exact holds_updLink s _ _ (takeRate_sound _ _)
  · exact .refl s

theorem guarded_unknownKind (l tag) : Guarded s (s.takeFrame l 0xFF tag fun s => (s, .plain .role)).endEvent := by
  refine Guarded.trans_holds ?_ (holds_endEvent _)
  unfold State.takeFrame
  split
  · exact (Holds.refl s).guarded
  · next hd =>
    have hhunt := holds_receiverToHunt s l hd
    dsimp only
    split
    · exact (hhunt.trans ((Keeps.refl _).attend l .overrun).holds).guarded
    · refine (hhunt.trans (holds_placeReply _ _ _ _ _ ?_)).guarded
      rw [hhunt.role]; exact hd

theorem guarded_requestOfFrame (l kind tag fields) (ht : exec (requestOfFrame l kind tag fields) s = .next t) :
    Guarded s t := by
  unfold requestOfFrame at ht
  split at ht
  · next k _ =>
    obtain ⟨h, fs, hi, -, -⟩ := requestOfKind_requestFields l tag k fields
    exact guarded_of_request hi ht
  · simp only [exec, execUnknownKindRequest, Host.Outcome.next.injEq] at ht
    subst ht; exact guarded_unknownKind l tag

theorem guarded_completeFrame (l len body a b) (hd : (s.link l).role ≠ .disabled)
    (ht : s.completeFrame l len body a b = .next t) : Guarded s t := by
  have hdrop : Guarded s (s.updLink l Link.dropFrame) := (holds_updLink_enabled s l Link.dropFrame hd rfl rfl).guarded
  unfold State.completeFrame at ht
  split at ht
  · split at ht
    · next i hi =>
      rcases body with _ | ⟨kind, _ | ⟨tag, fields⟩⟩ <;> simp only [frameCommand, reduceCtorEq, Option.some.injEq] at hi
      subst hi
      rw [runRequest_requestOfFrame] at ht
      exact guarded_requestOfFrame l kind tag fields ht
    · cases ht; exact hdrop
  · cases ht; exact hdrop

theorem guarded_characterReceived (l c f) (ht : execCharacterReceived l c f s = .next t) : Guarded s t := by
  unfold execCharacterReceived at ht
  split at ht
  · cases ht; exact (Holds.refl s).guarded
  · next hd =>
    have hupd (g : Link → Link) (hr : (g (s.link l)).role = (s.link l).role)
        (hq : (g (s.link l)).queue = (s.link l).queue) : Guarded s (s.updLink l g) :=
      (holds_updLink_enabled s l g hd hr hq).guarded
    split at ht
    · cases ht; exact (holds_dropFrame l).guarded
    · unfold State.receive at ht
      split at ht
      · cases ht
        split
        · exact hupd _ rfl rfl
        · exact (Holds.refl s).guarded
      · cases ht; exact hupd _ (by split <;> rfl) (by split <;> rfl)
      · cases ht; exact hupd _ rfl rfl
      · cases ht; exact hupd _ rfl rfl
      · exact guarded_completeFrame l _ _ _ _ hd ht

theorem guarded_bitFlip (r b) (ht : execBitFlip r b s = .next t) : Guarded s t := by
  cases r <;> (cases ht; refine Holds.guarded (Keeps.holds ?_))
  · exact (Keeps.refl s).updBlock _ _
  · exact (Keeps.refl s).updVehicle _ _
  · exact (Keeps.refl s).updOrder _ _

/-- What every command but a hard reset keeps. -/
theorem guarded_exec (i : Instr) (hi : ∀ straps, i ≠ .hardReset straps) (ht : exec i s = .next t) : Guarded s t := by
  rcases hq : i.requestFields with _ | x
  swap
  · exact guarded_of_request hq ht
  cases i <;> simp only [Instr.requestFields, reduceCtorEq] at hq <;> dsimp only [exec] at ht
  case hardReset straps => exact absurd rfl (hi straps)
  case linkReset l =>
    unfold execLinkReset at ht
    split at ht
    · cases ht; exact (Holds.refl s).guarded
    · next hd =>
      cases ht
      refine (Holds.trans (Holds.trans ?_ (holds_applyRate _ _)) (holds_endEvent _)).guarded
      exact holds_updLink s l (fun k => Link.reset k.role)
        ⟨rfl, fun _ => sound_of_enabled hd (Nat.zero_le _)⟩
  case frameDropped l => cases ht; exact (holds_dropFrame l).guarded
  case rxGapTimeout l => cases ht; exact (holds_dropFrame l).guarded
  case overrun l =>
    unfold execOverrun at ht
    split at ht
    · next h =>
      cases ht
      exact ((holds_receiverToHunt s l h.1).trans ((Keeps.refl _).attend l .overrun).holds).guarded
    · cases ht; exact (Holds.refl s).guarded
  case unknownKindRequest l tag => cases ht; exact guarded_unknownKind l tag
  case transmitComplete l =>
    have hsilent (p : Option Pending) (q) : ((s.link l).sound = true →
        ({ s.link l with tx := none, slot := p, pendingRate := q } : Link).sound = true) ∨ p.isSome := by
      cases p with
      | some => exact .inr rfl
      | none =>
        refine .inl fun h => ?_
        rw [link_sound_iff] at h ⊢
        refine ⟨h.1, fun hd => ?_⟩
        have := h.2 hd
        simp only [Link.silent, Bool.and_eq_true] at this ⊢
        exact ⟨⟨⟨⟨this.1.1.1.1, rfl⟩, rfl⟩, this.1.2⟩, this.2⟩
    unfold execTransmitComplete at ht
    split at ht
    · cases ht; exact (Holds.refl s).guarded
    · cases ht
      refine (Holds.trans (holds_updLink s l _ ⟨rfl, fun h => ?_⟩) (holds_endEvent _)).guarded
      rw [link_sound_iff] at h ⊢
      refine ⟨h.1, fun hd => ?_⟩
      have := h.2 hd
      simp only [Link.silent, Bool.and_eq_true] at this ⊢
      exact ⟨⟨⟨⟨this.1.1.1.1, this.1.1.1.2⟩, rfl⟩, this.1.2⟩, this.2⟩
    · cases ht
      refine (Holds.trans (Holds.trans (holds_updLink s l _ ⟨rfl, ?_⟩) (holds_applyRate _ _)) (holds_endEvent _)).guarded
      exact (hsilent none none).resolve_right (by simp)
  case silenceExpiry v =>
    unfold execSilenceExpiry at ht
    split at ht
    · cases ht; exact (Holds.refl s).guarded
    · dsimp only at ht
      obtain rfl := next_inj ht
      refine (Holds.trans (Keeps.holds ?_) (holds_endEvent _)).guarded
      split
      · exact (Keeps.refl s).readVehicle v
      · exact ((Keeps.refl s).readVehicle v).stall v _
  case offerExpiry v =>
    have hread := (Keeps.refl s).readVehicle v
    unfold execOfferExpiry at ht
    split at ht
    · cases ht; exact (Holds.refl s).guarded
    · dsimp only at ht
      split at ht
      · next o _ _ =>
        obtain rfl := next_inj ht
        refine (Holds.trans (Keeps.holds ?_) (holds_endEvent _)).guarded
        split
        · exact hread.readOrder o
        · exact (hread.readOrder o).withdrawOffer v o _
      · cases ht; exact (hread.holds.trans (holds_endEvent _)).guarded
  case promotion o =>
    unfold execPromotion at ht
    split at ht
    · cases ht; exact (Holds.refl s).guarded
    · dsimp only at ht
      obtain rfl := next_inj ht
      refine (Holds.trans (Keeps.holds ?_) (holds_endEvent _)).guarded
      split
      · exact (Keeps.refl s).readOrder o
      · exact ((Keeps.refl s).readOrder o).promote o
  case scrubStep =>
    unfold execScrubStep at ht
    split at ht
    · cases ht; exact (Holds.refl s).guarded
    · obtain rfl := next_inj ht
      have hmoved : Holds s { s with cursor := s.scrubPlan.2, scrubTimer := s.scrubInterval } :=
        holds_of_settings rfl rfl rfl (fun _ => rfl) id id id id
      exact ((hmoved.trans ((Keeps.refl _).readBy scrubRead_keeps _).holds).trans (holds_endEvent _)).guarded
  case fabClockAdvance =>
    unfold execFabClockAdvance at ht
    split at ht
    · cases ht; exact (Holds.refl s).guarded
    · obtain rfl := next_inj ht
      have hset : Holds s { s with divider := 0, fabClock := advanceClock s.fabClock } :=
        holds_of_settings (s := s) rfl rfl rfl (fun _ => rfl) id id id fun _ => Nat.zero_le _
      exact hset.guarded
  case dispatchDecision =>
    unfold execDispatchDecision at ht
    split at ht
    · cases ht; exact (Holds.refl s).guarded
    · obtain rfl := next_inj ht
      have hclear : Keeps s { s with trigger := false } := (Keeps.refl s).write rfl
      exact ((Keeps.scan _ hclear).holds.trans (holds_endEvent _)).guarded
  case characterReceived => exact guarded_characterReceived _ _ _ ht
  case bitFlip => exact guarded_bitFlip _ _ ht

theorem holds_idle (s : State) : Holds s s.idle := by
  unfold State.idle; split
  · exact holds_of_settings rfl rfl rfl (fun _ => rfl) id id id id
  · rw [tick_eq]
    refine holds_of_settings rfl rfl rfl (fun _ => rfl) id id id fun hd => ?_
    show (if s.divider = 999 then 999 else s.divider + 1) ≤ 999
    split <;> omega

/-- What every step but a hard reset keeps. -/
theorem guarded_step (hp : ∀ straps rest, s.pending ≠ .hardReset straps :: rest) (ht : step s = .next t) :
    Guarded s t := by
  unfold step at ht
  split at ht
  · next i rest hq =>
    have g := guarded_exec i (fun straps e => hp straps rest (by rw [hq, e])) ht
    exact ⟨g.sound, g.role, g.map⟩
  · cases ht; exact (holds_idle s).guarded

end Events

/-- Settles O58: the start state is sound, and every other step keeps the part sound. -/
theorem soundStateIsKept : Obligations.SoundStateIsKept := by
  unfold Obligations.SoundStateIsKept
  intro s t hs ht
  by_cases hp : ∀ straps rest, s.pending ≠ .hardReset straps :: rest
  · exact (guarded_step hp ht).sound hs
  · push Not at hp
    obtain ⟨straps, rest, hp⟩ := hp
    have hstep : step s = .next ({ s with pending := rest }.startWith straps) := by simp [step, hp, exec_hardReset]
    rw [hstep, Host.Outcome.next.injEq] at ht
    subst ht
    exact hardReset_sound (straps.map Role.ofStrap)

/-- Settles O60: the roles and, outside SETUP, the map are among what every step but a hard reset keeps. -/
theorem mapAndRolesAreKept : Obligations.MapAndRolesAreKept := by
  unfold Obligations.MapAndRolesAreKept
  intro s t hp ht
  have g := guarded_step hp ht
  exact ⟨g.role, g.map⟩

end Sys2Proof.Machine
end

section
/-! The operations of the requests do not look at a link's receiver (R157), one lemma each: the event reads the same after
the receiver has gone to HUNT, so that a request's effect can be told on the state it came to. -/

namespace Sys2Proof.Machine

variable {l : LinkId}

/-- An operation that does not look at a link's receiver. -/
def Hunts {α : Type} (l : LinkId) (f : State → State × α) : Prop :=
  ∀ s : State, f (s.receiverToHunt l) = ((f s).1.receiverToHunt l, (f s).2)

/-! ## Tables and ports -/

theorem reserve_hunt (s : State) (p o k) : (s.receiverToHunt l).reserve p o k = (s.reserve p o k).receiverToHunt l := rfl

theorem updOrder_hunt (s : State) (o f) : (s.receiverToHunt l).updOrder o f = (s.updOrder o f).receiverToHunt l := rfl

theorem noteReroute_hunt (s : State) (v o c d a) :
    (s.receiverToHunt l).noteReroute v o c d a = (s.noteReroute v o c d a).receiverToHunt l := notifyOwner_hunt s l _ _

theorem endOrder_hunt (s : State) (o k c) : (s.receiverToHunt l).endOrder o k c = (s.endOrder o k c).receiverToHunt l := by
  unfold State.endOrder; rw [receiverToHunt_at_order]
  cases s.order o with
  | none => rfl
  | some r => simp only [noteOrder_hunt, freeOrder_hunt]

theorem unsuspend_hunt (s : State) (o) : (s.receiverToHunt l).unsuspend o = (s.unsuspend o).receiverToHunt l := by
  unfold State.unsuspend; rw [receiverToHunt_at_order]
  cases s.order o with
  | none => rfl
  | some r => simp only [setOrder_hunt, noteOrder_hunt]

theorem queuedBoundTo_hunt (s : State) (v) : (s.receiverToHunt l).queuedBoundTo v = s.queuedBoundTo v := rfl

theorem unbind_hunt (s : State) (v) : (s.receiverToHunt l).unbind v = (s.unbind v).receiverToHunt l := by
  unfold State.unbind; rw [queuedBoundTo_hunt]; cases s.queuedBoundTo v <;> rfl

theorem queuedNaming_hunt (s : State) (c) : (s.receiverToHunt l).queuedNaming c = s.queuedNaming c := rfl

theorem bindCarrier_hunt (v c) : Hunts l (State.bindCarrier · v c) := by
  intro s
  unfold State.bindCarrier; dsimp only; rw [queuedNaming_hunt]
  split
  · cases s.queuedNaming _ <;> rfl
  · rfl

theorem noteVehicleIfChanged_hunt (s : State) (v r) :
    (s.receiverToHunt l).noteVehicleIfChanged v r = (s.noteVehicleIfChanged v r).receiverToHunt l := by
  unfold State.noteVehicleIfChanged; rw [receiverToHunt_at_vehicle]; split
  · exact noteVehicle_hunt s l v _
  · rfl

theorem notifyMode_hunt (s : State) (m c) : (s.receiverToHunt l).notifyMode m c = (s.notifyMode m c).receiverToHunt l := by
  refine mapLinks_updLink s l (fun k => (k.enqueue (.mode m s.mode c)).attend .modeChanged) _ fun k => ?_
  rw [enqueue_hunt, attend_hunt]

theorem changeMode_hunt (s : State) (m c) : (s.receiverToHunt l).changeMode m c = (s.changeMode m c).receiverToHunt l :=
  notifyMode_hunt { s with mode := m } s.mode c

theorem setOwner_hunt (s : State) (v) : (s.receiverToHunt l).setOwner v = (s.setOwner v).receiverToHunt l := rfl

theorem enterWait_hunt (s : State) (v b) : (s.receiverToHunt l).enterWait v b = (s.enterWait v b).receiverToHunt l := rfl

/-! ## Sequence counters -/

theorem renumberSubmit_hunt (s : State) :
    (s.receiverToHunt l).renumberSubmit read = (s.renumberSubmit read).receiverToHunt l := by
  have e : (s.receiverToHunt l).orderRefs = s.orderRefs := rfl
  unfold State.renumberSubmit; rw [e, readAll_hunt read_hunts]; rfl

theorem nextSubmitSeq_hunt : Hunts l (State.nextSubmitSeq read) := by
  intro s
  unfold State.nextSubmitSeq; rw [receiverToHunt_submitSeq, renumberSubmit_hunt]; split <;> rfl

theorem renumberWaiters_hunt : Hunts l (State.renumberWaiters read) := by
  intro s
  have e (x) : ((s.receiverToHunt l).block x) = s.block x := rfl
  simp only [State.renumberWaiters, e, readAll_hunt read_hunts]; rfl

theorem readyWaiterSeq_hunt : Hunts l (State.readyWaiterSeq read) := by
  intro s
  unfold State.readyWaiterSeq; rw [receiverToHunt_waiterSeq]; split
  · exact renumberWaiters_hunt s
  · rfl

/-! ## The handshake -/

theorem takeOffer_hunt (s : State) (v o r) : (s.receiverToHunt l).takeOffer v o r = (s.takeOffer v o r).receiverToHunt l := by
  simp only [State.takeOffer, updVehicle_hunt, setOrder_hunt, noteOrder_hunt, noteVehicle_hunt]

theorem pick_hunt (s : State) (v o r) : (s.receiverToHunt l).pick v o r = (s.pick v o r).receiverToHunt l := by
  simp only [State.pick, releasePort?_hunt, setOrder_hunt, updVehicle_hunt, noteOrder_hunt, noteVehicle_hunt]

theorem pickEmpty_hunt (v o) : Hunts l (State.pickEmpty · v o) := fun s => by
  simp only [State.pickEmpty, endOrder_hunt, enterIdle_hunt read_hunts, noteVehicle_hunt]

theorem recordedCarrier_hunt (s : State) (v c) : (s.receiverToHunt l).recordedCarrier v c = s.recordedCarrier v c := rfl

theorem pickOther_hunt (v o c) : Hunts l (State.pickOther · v o c) := fun s => by
  simp only [State.pickOther, endOrder_hunt, recordedCarrier_hunt, enterLoadedIdle_hunt, bindCarrier_hunt v _ _,
    noteVehicle_hunt]

theorem readPickSearch_hunt (c) : Hunts l (State.readPickSearch · c) := by
  intro s
  unfold State.readPickSearch
  split
  · have e (t : State) : (t.receiverToHunt l).orderRefs = t.orderRefs := rfl
    simp only [readAll_hunt read_hunts, e]
  · rfl

theorem deliver_hunt (v o) : Hunts l (State.deliver · v o) := fun s => by
  simp only [State.deliver, endOrder_hunt, enterIdle_hunt read_hunts, noteVehicle_hunt]

theorem turn_hunt (s : State) (v o r p) : (s.receiverToHunt l).turn v o r p = (s.turn v o r p).receiverToHunt l := by
  simp only [State.turn, releasePort_hunt, reserve_hunt, setOrder_hunt, noteReroute_hunt, noteOrder_hunt]

theorem refuseDrop_hunt (s : State) (v o) : (s.receiverToHunt l).refuseDrop v o = (s.refuseDrop v o).receiverToHunt l := by
  simp only [State.refuseDrop, endOrder_hunt, enterLoadedIdle_hunt, receiverToHunt_at_vehicle, noteVehicle_hunt]

/-! ## The scheduler's requests -/

theorem bindTarget_hunt (s : State) (c) : (s.receiverToHunt l).bindTarget c = s.bindTarget c := rfl

theorem takeOrder_hunt (m o tag c src d a q) : Hunts l (State.takeOrder · m o tag c src d a q) := fun s => by
  simp only [State.takeOrder, nextSubmitSeq_hunt s, bindTarget_hunt, receiverToHunt_msBase, setOrder_hunt, enterQueue_hunt,
    setTrigger_hunt]

theorem submitChecks_hunt (m tag c src d a q) : Hunts l (State.submitChecks · m tag c src d a q) := by
  intro s
  have e : (s.receiverToHunt l).orderRefs = s.orderRefs := rfl
  unfold State.submitChecks
  dsimp only
  rw [e, readAll_hunt read_hunts]
  generalize (readAll read s.orderRefs s).1 = t
  dsimp only
  rw [readUntilBad_hunt read_hunts]
  generalize readUntilBad read vehicleRefs t = p
  obtain ⟨u, bad⟩ := p
  have hlive : (t.receiverToHunt l).liveNaming c = t.liveNaming c := rfl
  have helse : (u.receiverToHunt l).carriedElsewhere c = u.carriedElsewhere c := rfl
  have htag : (u.receiverToHunt l).tagLive m tag = u.tagLive m tag := rfl
  have hslot : (u.receiverToHunt l).freeSlot = u.freeSlot := rfl
  dsimp only
  rw [hlive, helse, htag, hslot]
  split
  · rfl
  · split
    · rfl
    · split
      · rfl
      · split
        · rfl
        · cases u.freeSlot with
          | none => rfl
          | some o => exact takeOrder_hunt m o tag c src d a q u

theorem cancelVehicle_hunt (o v b) : Hunts l (State.cancelVehicle · o v b) := fun s => by
  simp only [State.cancelVehicle, noteWithdraw_hunt, updVehicle_hunt, receiverToHunt_at_vehicle, enterLoadedIdle_hunt,
    enterIdle_hunt read_hunts]
  split <;> rfl

theorem cancel_hunt (o r) : Hunts l (State.cancel · o r) := by
  intro s
  unfold State.cancel
  split
  · rfl
  · simp only [receiverToHunt_at_vehicle, cancelVehicle_hunt o _ _ s, freeOrder_hunt, noteVehicle_hunt]
  · rfl

theorem redirect_hunt (s : State) (o r d a) :
    (s.receiverToHunt l).redirect o r d a = (s.redirect o r d a).receiverToHunt l := by
  have e : (if r.inField ∧ r.destInUse ≠ d then (s.receiverToHunt l).releasePort o r.destInUse else s.receiverToHunt l) =
      (if r.inField ∧ r.destInUse ≠ d then s.releasePort o r.destInUse else s).receiverToHunt l := by
    split
    · exact releasePort_hunt s l o _
    · rfl
  unfold State.redirect; dsimp only
  rw [e]
  split
  · cases r.vehicle with
    | none => rfl
    | some v => simp only [setOrder_hunt, reserve_hunt, noteReroute_hunt]
  · rfl

theorem reclass_hunt (s : State) (o r c) : (s.receiverToHunt l).reclass o r c = (s.reclass o r c).receiverToHunt l := by
  unfold State.reclass; split
  · simp only [leaveQueue_hunt, setOrder_hunt, enterQueue_hunt, receiverToHunt_msBase]
  · rfl

theorem searchTag_hunt (m tag) : ∀ os : List Slot, Hunts l (State.searchTag m tag os)
  | [], _ => rfl
  | o :: os, s => by
    simp only [State.searchTag, readOrder_hunt, receiverToHunt_at_order]
    split
    · rfl
    · exact searchTag_hunt m tag os _

theorem setDown_hunt (s : State) (p d) : (s.receiverToHunt l).setDown p d = (s.setDown p d).receiverToHunt l := by
  have e (t : State) (x) : (t.receiverToHunt l).usable x = t.usable x := rfl
  have h (t : State) (x) : (t.receiverToHunt l).setPort x { t.port x with down := d } =
      (t.setPort x { t.port x with down := d }).receiverToHunt l := rfl
  unfold State.setDown; rw [receiverToHunt_at_port]; split
  · rfl
  · dsimp only
    rw [h, receiverToHunt_at_port, notifyWhere_hunt, e]
    · split <;> rfl
    · exact fun _ => rfl

/-! ## Track -/

theorem closesCycle_hunt (v) : ∀ n b, Hunts l (State.closesCycle v n b)
  | 0, _, _ => rfl
  | n + 1, b, s => by
    simp only [State.closesCycle, readBlock_hunt, receiverToHunt_at_block]
    generalize (s.readBlock b).1 = t
    split
    · next w _ =>
      split
      · rfl
      · simp only [readVehicle_hunt, receiverToHunt_at_vehicle]
        split
        · exact closesCycle_hunt v n _ _
        · rfl
    · rfl

theorem tryWait_hunt (v b n) : Hunts l (State.tryWait · v b n) := by
  intro s
  unfold State.tryWait
  simp only [receiverToHunt_at_block, closesCycle_hunt v 130 b s, readyWaiterSeq_hunt _]
  generalize State.closesCycle v 130 b s = p
  generalize State.readyWaiterSeq read p.1 = q
  split
  · rfl
  · split
    · rfl
    · split
      · rfl
      · split <;> rfl

theorem fenced_hunt (s : State) (b) : (s.receiverToHunt l).fenced b = s.fenced b := rfl

theorem walk_hunt (v) : ∀ bs n, Hunts l (State.walk v bs n)
  | [], _, _ => rfl
  | b :: bs, n, s => by
    simp only [State.walk, fenced_hunt, readBlock_hunt, receiverToHunt_at_block]
    split
    · rfl
    · split
      · rfl
      · split
        · exact walk_hunt v bs (n + 1) ((s.readBlock b).1.grant b v)
        · exact tryWait_hunt v b n _

theorem reportPosition_hunt (v b) : Hunts l (State.reportPosition · v b) := by
  intro s
  have e (t : State) : (t.receiverToHunt l).bayOf v = t.bayOf v := rfl
  simp only [State.reportPosition, e, receiverToHunt_at_vehicle, releaseUntil_hunt, setOwner_hunt, restartSilence_hunt]
  split <;> simp only [setTrigger_hunt, noteVehicleIfChanged_hunt]

theorem releaseAhead_hunt (v n) : Hunts l (State.releaseAhead · v n) := by
  intro s
  have e (t : State) (x r d) : (t.receiverToHunt l).releaseAheadFields v x r d = t.releaseAheadFields v x r d := rfl
  simp only [State.releaseAhead, endWait_hunt, receiverToHunt_at_vehicle, releaseUntil_hunt, restartSilence_hunt, e]

/-! ## The roster -/

theorem joinRail_hunt (s : State) (m v b) : (s.receiverToHunt l).joinRail m v b = (s.joinRail m v b).receiverToHunt l := rfl

theorem joinState_hunt (v c) : Hunts l (State.joinState · v c) := by
  intro s
  unfold State.joinState; split
  · exact enterIdle_hunt read_hunts s v
  · rfl

theorem joinVehicle_hunt (m v b c) : Hunts l (State.joinVehicle · m v b c) := by
  intro s
  have e (t : State) (x) : (t.receiverToHunt l).joinFields v x = t.joinFields v x := rfl
  simp only [State.joinVehicle, joinRail_hunt, joinState_hunt v c _, bindCarrier_hunt v c _, restartSilence_hunt,
    setTrigger_hunt, noteVehicle_hunt, e]

theorem leaveRail_hunt (v) : Hunts l (State.leaveRail · v) := fun s => by
  simp only [State.leaveRail, endWait_hunt, receiverToHunt_at_vehicle, releaseEvery_hunt, updVehicle_hunt, noteVehicle_hunt]

theorem unstall_hunt (v) : Hunts l (State.unstall · v) := by
  intro s
  simp only [State.unstall, receiverToHunt_at_vehicle, updVehicle_hunt, enterIdle_hunt read_hunts, enterLoadedIdle_hunt]
  split
  · rfl
  · rfl
  · cases (s.vehicle v).order with
    | none => rfl
    | some o => simp only [unsuspend_hunt]
  · rfl
  · rfl

theorem recoverVehicle_hunt (v b) : Hunts l (State.recoverVehicle · v b) := by
  intro s
  have e (t : State) (x d) : (t.receiverToHunt l).recoverFields v x d = t.recoverFields v x d := rfl
  simp only [State.recoverVehicle, readOrderOf_hunt, receiverToHunt_at_vehicle, releaseUntil_hunt, setOwner_hunt]
  split <;> simp only [unstall_hunt v _, restartSilence_hunt, noteVehicleIfChanged_hunt, e]

theorem drainVehicle_hunt (s : State) (v) : (s.receiverToHunt l).drainVehicle v = (s.drainVehicle v).receiverToHunt l := by
  unfold State.drainVehicle; rw [receiverToHunt_at_vehicle]; split
  · simp only [updVehicle_hunt, noteVehicle_hunt]
  · rfl
  · rfl

theorem restoreVehicle_hunt (v) : Hunts l (State.restoreVehicle · v) := by
  intro s
  simp only [State.restoreVehicle, receiverToHunt_at_vehicle, updVehicle_hunt, enterIdle_hunt read_hunts]
  split <;> simp only [noteVehicle_hunt]

theorem evictOrder_hunt (v) : Hunts l (State.evictOrder · v) := by
  intro s
  unfold State.evictOrder; dsimp only; rw [receiverToHunt_at_vehicle]
  cases (s.vehicle v).order with
  | none => rfl
  | some o => dsimp only; split <;> simp only [requeue_hunt, endOrder_hunt]

theorem evictVehicle_hunt (v bad) : Hunts l (State.evictVehicle · v bad) := by
  intro s
  have e (t : State) : (t.receiverToHunt l).orderRefs = t.orderRefs := rfl
  simp only [State.evictVehicle, readOrderOf_hunt, receiverToHunt_at_vehicle, endWait_hunt, releaseEvery_hunt,
    evictOrder_hunt v _, e, readAll_hunt read_hunts, unbind_hunt, updVehicle_hunt, noteVehicle_hunt]

/-! ## The console -/

theorem writeBlock_hunt (b x) : Hunts l (State.writeBlock · b x) := by
  intro s
  simp only [State.writeBlock, readBlock_hunt]; rfl

theorem writeBlocks_hunt : ∀ rs, Hunts l (State.writeBlocks rs)
  | [], _ => rfl
  | (b, x) :: rs, s => by simp only [State.writeBlocks, writeBlock_hunt b x s, writeBlocks_hunt rs _]

theorem resume_hunt (s : State) : (s.receiverToHunt l).resume = s.resume.receiverToHunt l := by
  have e : ({ s.receiverToHunt l with mode := .run } : State) = ({ s with mode := .run } : State).receiverToHunt l := rfl
  unfold State.resume
  rw [e, askArbiters_hunt, setTrigger_hunt, notifyMode_hunt]

theorem convertReset_hunt (s : State) : (s.receiverToHunt l).convertReset = s.convertReset.receiverToHunt l := by
  unfold State.convertReset; rw [receiverToHunt_mode]; split
  · exact changeMode_hunt s _ _
  · rfl

theorem softReset_hunt (s : State) : (s.receiverToHunt l).softReset = s.softReset.receiverToHunt l := by
  have e := mapLinks_updLink s l Link.softReset (fun k => { k with rx := .hunt, gapTimer := false }) fun _ => rfl
  have hlinks : (s.receiverToHunt l).links.map Link.softReset =
      (({ s with links := s.links.map Link.softReset } : State).receiverToHunt l).links := congrArg State.links e
  unfold State.softReset
  rw [← changeMode_hunt]
  simp only [hlinks]
  rfl

theorem moveFence_hunt (s : State) (f new) :
    (s.receiverToHunt l).moveFence f new = (s.moveFence f new).receiverToHunt l := by
  have e : (s.receiverToHunt l).setFence f new = (s.setFence f new).receiverToHunt l := rfl
  unfold State.moveFence; rw [e, askArbiters_hunt]; rfl

theorem applySilence_hunt (old new) : Hunts l (State.applySilence old new) := by
  intro s
  unfold State.applySilence; split
  · rfl
  · rw [readAll_hunt read_hunts]; rfl

theorem promoteIfDue_hunt (o) : Hunts l (State.promoteIfDue · o) := by
  intro s
  have e (t : State) : (t.receiverToHunt l).promotionDue = t.promotionDue := rfl
  simp only [State.promoteIfDue, readOrder_hunt, receiverToHunt_at_order, e]
  split
  · rw [promote_hunt]
  · rfl

theorem promoteAllDue_hunt : ∀ os, Hunts l (State.promoteAllDue os)
  | [], _ => rfl
  | o :: os, s => by simp only [State.promoteAllDue, promoteIfDue_hunt o s, promoteAllDue_hunt os _]

theorem applyPromotion_hunt (old new c) : Hunts l (State.applyPromotion old new c) := by
  intro s
  unfold State.applyPromotion; split
  · exact promoteAllDue_hunt _ s
  · rfl

theorem setTiming_hunt (new) : Hunts l (State.setTiming · new) := by
  intro s
  have e : ({ s.receiverToHunt l with timing := new } : State) = ({ s with timing := new } : State).receiverToHunt l := rfl
  simp only [State.setTiming, e, receiverToHunt_timing, applySilence_hunt _ _ _, applyPromotion_hunt _ _ _ _]
  split <;> rfl

theorem thaw_hunt (b) : Hunts l (State.thaw · b) := by
  intro s
  have e (t : State) : (t.receiverToHunt l).lister b = t.lister b := rfl
  simp only [State.thaw, readAll_hunt read_hunts, e]
  cases ((readAll read vehicleRefs s).1.lister b) with
  | none => simp only [updBlock_hunt, askArbiter_hunt]
  | some v => rfl

end Sys2Proof.Machine
end

section
/-! What each request is carried out as, apart from the taking of its frame and its reply: one function a request, tied to
the request by definition, and the fact that it does not look at a receiver. So a request that is taken is answered on the
state it came to (R161, R167). -/

namespace Sys2Proof.Machine

open Enc

variable {l : LinkId}

/-- R161: a request that is taken, told on the state it came to. -/
theorem request_hunts {s t : State} {h : Hdr} {kind : ReqKind} {a : Answer} (ht : s.takes h kind)
    {body : State → State × Answer} (hh : Hunts h.link body) (e : body s = (t, a)) :
    s.request h kind body = .next (t.answered h kind a.code a.fields) :=
  request_answered ht body t a (by rw [hh s, e])

/-! ## The forms that requests are written in -/

theorem Hunts.done (a : Answer) : Hunts l fun s => (s, a) := fun _ => rfl

theorem Hunts.inRange {α : Type} {x : Option α} {go : α → State → State × Answer} (hgo : ∀ a, Hunts l (go a)) :
    Hunts l fun s => Machine.inRange x s fun a => go a s := by
  cases x with
  | none => exact .done _
  | some a => exact hgo a

theorem Hunts.ite {α : Type} {p : State → Prop} [∀ s, Decidable (p s)] {f g : State → State × α}
    (hp : ∀ s : State, p (s.receiverToHunt l) ↔ p s) (hf : Hunts l f) (hg : Hunts l g) :
    Hunts l fun s => if p s then f s else g s := by
  intro s
  by_cases h : p s
  · simp only [h, (hp s).mpr h, if_true, hf s]
  · simp only [h, mt (hp s).mp h, if_false, hg s]

/-- An operation after one that says whether it met a damaged record. -/
theorem Hunts.andThen {α β : Type} {f : State → State × α} (hf : Hunts l f) {go : α → State → State × β}
    (hgo : ∀ a, Hunts l (go a)) : Hunts l fun s => go (f s).2 (f s).1 := by
  intro s; dsimp only; rw [hf s]; exact hgo _ _

theorem Hunts.withVehicle {v : VehicleId} {damaged : State → List Byte} {go : State → State × Answer}
    (hd : ∀ t : State, damaged (t.receiverToHunt l) = damaged t) (hgo : Hunts l go) :
    Hunts l (State.withVehicle · v damaged go) := by
  intro s
  simp only [State.withVehicle, readVehicle_hunt, hd]
  split
  · rfl
  · exact hgo _

theorem Hunts.withOwned {m : LinkId} {v : VehicleId} {damaged : State → List Byte} {go : State → State × Answer}
    (hd : ∀ t : State, damaged (t.receiverToHunt l) = damaged t) (hgo : Hunts l go) :
    Hunts l (State.withOwned · m v damaged go) :=
  .withVehicle hd (.ite (fun _ => .rfl) hgo (.done _))

theorem accepted_hunt {v : VehicleId} {c : ResultCode} {fields : State → List Byte}
    (hf : ∀ t : State, fields (t.receiverToHunt l) = fields t) : Hunts l (State.accepted · v c fields) := fun s => by
  simp only [State.accepted, restartSilence_hunt, hf]

theorem Hunts.withOrderOf {v : VehicleId} {o : Slot} {damaged : State → List Byte} {go : OrderRec → State → State × Answer}
    (hd : ∀ t : State, damaged (t.receiverToHunt l) = damaged t) (hgo : ∀ r, Hunts l (go r)) :
    Hunts l (State.withOrderOf · v o damaged go) := by
  intro s
  simp only [State.withOrderOf, readOrder_hunt, receiverToHunt_at_order]
  split
  · exact accepted_hunt hd _
  · cases (s.readOrder o).1.order o with
    | none => rfl
    | some r => exact hgo r _

theorem stateField_hunt (s : State) (v) : (s.receiverToHunt l).stateField v = s.stateField v := rfl

theorem Hunts.withOffer {m : LinkId} {v : VehicleId} {o : Slot} {go : OrderRec → State → State × Answer}
    (hgo : ∀ r, Hunts l (go r)) : Hunts l (State.withOffer · m v o go) :=
  .withOwned (fun t => stateField_hunt t v) (.ite (fun _ => .rfl) (.withOrderOf (fun t => stateField_hunt t v) hgo)
    (.ite (fun _ => .rfl) (accepted_hunt fun t => stateField_hunt t v) (.done _)))

theorem Hunts.withWork {m : LinkId} {v : VehicleId} {must : VState} {damaged : State → List Byte}
    {go : Slot → OrderRec → State → State × Answer} (hd : ∀ t : State, damaged (t.receiverToHunt l) = damaged t)
    (hgo : ∀ o r, Hunts l (go o r)) : Hunts l (State.withWork · m v must damaged go) := by
  refine .withOwned hd fun s => ?_
  rw [receiverToHunt_at_vehicle]
  cases (s.vehicle v).order with
  | none => rfl
  | some o =>
    dsimp only
    split
    · exact Hunts.withOrderOf hd (hgo o) s
    · rfl

theorem Hunts.withOrder {m : LinkId} {o : Slot} {tag : Half} {conflict : OrderRec → Bool} {damaged : State → List Byte}
    {go : OrderRec → State → State × Answer} (hd : ∀ t : State, damaged (t.receiverToHunt l) = damaged t)
    (hgo : ∀ r, Hunts l (go r)) : Hunts l (State.withOrder · m o tag conflict damaged go) := by
  intro s
  simp only [State.withOrder, readOrder_hunt, receiverToHunt_at_order, hd]
  split
  · rfl
  · cases (s.readOrder o).1.order o with
    | none => rfl
    | some r =>
      dsimp only
      split
      · rfl
      · split
        · rfl
        · split
          · rfl
          · exact hgo r _

theorem Hunts.withVehicleOf {r : OrderRec} {damaged : State → List Byte} {go : State → State × Answer}
    (hd : ∀ t : State, damaged (t.receiverToHunt l) = damaged t) (hgo : Hunts l go) :
    Hunts l (State.withVehicleOf · r damaged go) := by
  unfold State.withVehicleOf
  cases r.vehicle with
  | none => exact hgo
  | some v => exact .withVehicle hd hgo

theorem Hunts.joinCarrier {v : VehicleId} {c : Carrier} {damaged : State → List Byte} {go : State → State × Answer}
    (hd : ∀ t : State, damaged (t.receiverToHunt l) = damaged t) (hgo : Hunts l go) :
    Hunts l (State.joinCarrier · v c damaged go) := by
  intro s
  unfold State.joinCarrier
  split
  · have e (t : State) (c) : (t.receiverToHunt l).otherCarrying v c = t.otherCarrying v c := rfl
    have e' (t : State) (c) : (t.receiverToHunt l).workedNaming c = t.workedNaming c := rfl
    have e'' (t : State) : (t.receiverToHunt l).orderRefs = t.orderRefs := rfl
    simp only [readUntilBad_hunt read_hunts, hd, e, e', e'']
    split
    · rfl
    · split
      · rfl
      · split
        · rfl
        · split
          · rfl
          · exact hgo _
  · exact hgo s

theorem Hunts.withRoster {go : State → State × Answer} (hgo : Hunts l go) : Hunts l (State.withRoster · go) := by
  intro s
  simp only [State.withRoster, readUntilBad_hunt read_hunts]
  split
  · rfl
  · exact hgo _

/-! ## The requests of every role -/

def statusBody (m : LinkId) (s : State) : State × Answer :=
  let (s, badOrder) := readAll read s.orderRefs s
  let (s, badVehicle) := readAll read vehicleRefs s
  (s, ⟨okOr (badOrder || badVehicle), s.statusFields m⟩)

theorem exec_status (h : Hdr) (s : State) : exec (.status h) s = s.request h .status (statusBody h.link) := rfl

theorem statusFields_hunt (s : State) (m : LinkId) : (s.receiverToHunt l).statusFields m = s.statusFields m := by
  have hatt := receiverToHunt_attention s l m
  have hqueue : ((s.receiverToHunt l).link m).queue = (s.link m).queue := by
    by_cases e : l = m
    · subst e; simp [State.receiverToHunt, State.updLink, State.setLink, State.link]
    · have : l.val ≠ m.val := fun x => e (Fin.ext x)
      simp [State.receiverToHunt, State.updLink, State.setLink, State.link, Vector.getElem_set_ne, this]
  unfold State.statusFields
  rw [hatt, hqueue]; rfl

theorem statusBody_hunts (m : LinkId) : Hunts l (statusBody m) := by
  intro s
  have e (t : State) : (t.receiverToHunt l).orderRefs = t.orderRefs := rfl
  simp only [statusBody, e, readAll_hunt read_hunts, statusFields_hunt]

def queryVehicleBody (vehicle : Byte) (s : State) : State × Answer :=
  inRange (vehicle? vehicle) s fun v =>
  let (s, bad) := s.readVehicle v
  (s, ⟨okOr bad, s.vehicleFields v⟩)

theorem exec_queryVehicle (h : Hdr) (vehicle : Byte) (s : State) :
    exec (.queryVehicle h vehicle) s = s.request h .queryVehicle (queryVehicleBody vehicle) := rfl

theorem queryVehicleBody_hunts (vehicle) : Hunts l (queryVehicleBody vehicle) :=
  .inRange fun v s => by rw [readVehicle_hunt]; rfl

def queryOrderBody (m : LinkId) (selector : Byte) (value : Half) (s : State) : State × Answer :=
  if selector = 0 then
    inRange (slot? value) s fun o =>
    let (s, bad) := s.readOrder o
    (s, ⟨okOr bad, s.orderFields o⟩)
  else if selector = 1 then
    match State.searchTag m value s.liveSlots s with
    | (s, some o) => (s, ⟨.ok, s.orderFields o⟩)
    | (s, none) => (s, .plain .unknown)
  else (s, .plain .range)

theorem exec_queryOrder (h : Hdr) (selector : Byte) (value : Half) (s : State) :
    exec (.queryOrder h selector value) s = s.request h .queryOrder (queryOrderBody h.link selector value) := rfl

theorem queryOrderBody_hunts (m selector value) : Hunts l (queryOrderBody m selector value) := by
  refine .ite (fun _ => .rfl) (.inRange fun o s => ?_) (.ite (fun _ => .rfl) (fun s => ?_) (.done _))
  · rw [readOrder_hunt]; rfl
  · have e : (s.receiverToHunt l).liveSlots = s.liveSlots := rfl
    rw [e, searchTag_hunt]
    generalize State.searchTag m value s.liveSlots s = p
    obtain ⟨t, _ | o⟩ := p <;> rfl

def queryBlockBody (block : Half) (s : State) : State × Answer :=
  inRange (block? block) s fun b =>
  let (s, bad) := s.readBlock b
  (s, ⟨okOr bad, s.blockFields b⟩)

theorem exec_queryBlock (h : Hdr) (block : Half) (s : State) :
    exec (.queryBlock h block) s = s.request h .queryBlock (queryBlockBody block) := rfl

theorem queryBlockBody_hunts (block) : Hunts l (queryBlockBody block) :=
  .inRange fun v s => by rw [readBlock_hunt]; rfl

def queryPortBody (port : Byte) (s : State) : State × Answer :=
  inRange (port? port) s fun p =>
  let r := s.port p
  (s, ⟨.ok, Enc.port p ++ opt2 Enc.block r.block ++ flag r.down ++ reservation r.reservation ++ flag (s.usable p)⟩)

theorem exec_queryPort (h : Hdr) (port : Byte) (s : State) :
    exec (.queryPort h port) s = s.request h .queryPort (queryPortBody port) := rfl

theorem queryPortBody_hunts (port) : Hunts l (queryPortBody port) := .inRange fun _ _ => rfl

/-! ## The scheduler's requests -/

def submitOrderBody (m : LinkId) (tag : Half) (carrier : CarrierField) (source dest alt cls : Byte) (s : State) :
    State × Answer :=
  inRange (carrierId? carrier) s fun c => inRange (portOrNone? source) s fun source =>
  inRange (port? dest) s fun dest => inRange (portOrNone? alt) s fun alt => inRange (cls? cls) s fun cls =>
  if !s.portsFit source dest alt then (s, .plain .range)
  else if source.isSome then s.submitChecks m tag c source dest alt cls
  else
    let (s, bad) := readUntilBad read vehicleRefs s
    if bad then (s, submitDamaged)
    else if (s.bindTarget c).isNone then (s, .plain .state)
    else s.submitChecks m tag c source dest alt cls

theorem exec_submitOrder (h : Hdr) (tag : Half) (carrier : CarrierField) (source dest alt cls : Byte) (s : State) :
    exec (.submitOrder h tag carrier source dest alt cls) s =
      s.request h .submitOrder (submitOrderBody h.link tag carrier source dest alt cls) := rfl

theorem submitOrderBody_hunts (m tag carrier source dest alt cls) :
    Hunts l (submitOrderBody m tag carrier source dest alt cls) := by
  refine .inRange fun c => .inRange fun src => .inRange fun d => .inRange fun a => .inRange fun q =>
    .ite (fun _ => .rfl) (.done _) (.ite (fun _ => .rfl) (submitChecks_hunt _ _ _ _ _ _ _) fun s => ?_)
  rw [readUntilBad_hunt read_hunts]
  generalize readUntilBad read vehicleRefs s = p
  obtain ⟨t, bad⟩ := p
  have hnone (t : State) : (t.receiverToHunt l).bindTarget c = t.bindTarget c := rfl
  dsimp only
  rw [hnone]
  split
  · rfl
  · split
    · rfl
    · exact submitChecks_hunt m tag c src d a q t

def cancelOrderBody (m : LinkId) (slot tag : Half) (s : State) : State × Answer :=
  inRange (slot? slot) s fun o =>
  s.withOrder m o tag (fun _ => false) (·.cancelFields o) fun r s =>
  if r.state = .carrying then (s, .plain .state)
  else
    s.withVehicleOf r (·.cancelFields o) fun s =>
    let fields := s.cancelFields o
    let (s, bad) := s.cancel o r
    (s, ⟨okOr bad, fields⟩)

theorem exec_cancelOrder (h : Hdr) (slot tag : Half) (s : State) :
    exec (.cancelOrder h slot tag) s = s.request h .cancelOrder (cancelOrderBody h.link slot tag) := rfl

theorem cancelOrderBody_hunts (m slot tag) : Hunts l (cancelOrderBody m slot tag) :=
  .inRange fun o => .withOrder (fun _ => rfl) fun r => .ite (fun _ => .rfl) (.done _)
    (.withVehicleOf (fun _ => rfl) fun s => by simp only [cancel_hunt o r s]; rfl)

def redirectOrderBody (m : LinkId) (slot tag : Half) (dest alt : Byte) (s : State) : State × Answer :=
  inRange (slot? slot) s fun o => inRange (port? dest) s fun dest => inRange (portOrNone? alt) s fun alt =>
  if !s.portsFit none dest alt then (s, .plain .range)
  else
    s.withOrder m o tag (·.sourceConflict dest alt) (·.redirectDamaged o) fun r s =>
    if r.state = .offered then (s, .plain .state)
    else match s.redirectRefusal o dest with
      | some (reason, x) => (s, ⟨.full, [reason.code] ++ opt2 Enc.slot x⟩)
      | none =>
        s.withVehicleOf r (·.redirectDamaged o) fun s =>
        (s.redirect o r dest alt, ⟨.ok, Enc.port r.destInUse ++ Enc.port dest⟩)

theorem exec_redirectOrder (h : Hdr) (slot tag : Half) (dest alt : Byte) (s : State) :
    exec (.redirectOrder h slot tag dest alt) s =
      s.request h .redirectOrder (redirectOrderBody h.link slot tag dest alt) := rfl

theorem redirectOrderBody_hunts (m slot tag dest alt) : Hunts l (redirectOrderBody m slot tag dest alt) := by
  refine .inRange fun o => .inRange fun d => .inRange fun a => .ite (fun _ => .rfl) (.done _)
    (.withOrder (fun _ => rfl) fun r => .ite (fun _ => .rfl) (.done _) fun s => ?_)
  have e : (s.receiverToHunt l).redirectRefusal o d = s.redirectRefusal o d := rfl
  rw [e]
  cases s.redirectRefusal o d with
  | some x => rfl
  | none => exact Hunts.withVehicleOf (l := l) (fun _ => rfl) (fun t => by rw [redirect_hunt]) s

def reclassOrderBody (m : LinkId) (slot tag : Half) (cls : Byte) (s : State) : State × Answer :=
  inRange (slot? slot) s fun o => inRange (cls? cls) s fun c =>
  s.withOrder m o tag (fun _ => false) (fun _ => [0xFF]) fun r s =>
  ((s.reclass o r c).setTrigger, ⟨.ok, [r.cls.code]⟩)

theorem exec_reclassOrder (h : Hdr) (slot tag : Half) (cls : Byte) (s : State) :
    exec (.reclassOrder h slot tag cls) s = s.request h .reclassOrder (reclassOrderBody h.link slot tag cls) := rfl

theorem reclassOrderBody_hunts (m slot tag cls) : Hunts l (reclassOrderBody m slot tag cls) :=
  .inRange fun o => .inRange fun c => .withOrder (fun _ => rfl) fun r s => by rw [reclass_hunt]; rfl

def setPortStateBody (port action : Byte) (s : State) : State × Answer :=
  inRange (port? port) s fun p => inRange (portAction? action) s fun down =>
  if s.mode ≠ .setup ∧ !s.placed p then (s, .plain .range)
  else
    let s := s.setDown p down
    (s, ⟨.ok, flag (s.port p).down ++ reservation (s.port p).reservation⟩)

theorem exec_setPortState (h : Hdr) (port action : Byte) (s : State) :
    exec (.setPortState h port action) s = s.request h .setPortState (setPortStateBody port action) := rfl

theorem setPortStateBody_hunts (port action) : Hunts l (setPortStateBody port action) :=
  .inRange fun p => .inRange fun d => .ite (fun _ => .rfl) (.done _) fun s => by rw [setDown_hunt]; rfl

def setClockBody (seconds : Word) (s : State) : State × Answer :=
  ({ s with fabClock := seconds, divider := 0 }, ⟨.ok, bytes4 s.fabClock⟩)

theorem exec_setClock (h : Hdr) (seconds : Word) (s : State) :
    exec (.setClock h seconds) s = s.request h .setClock (setClockBody seconds) := rfl

theorem setClockBody_hunts (seconds) : Hunts l (setClockBody seconds) := fun _ => rfl

/-! ## The bays' requests -/

def joinBody (m : LinkId) (vehicle : Byte) (block : Half) (carrier : CarrierField) (s : State) : State × Answer :=
  inRange (vehicle? vehicle) s fun v => inRange (block? block) s fun b => inRange (carrier? carrier) s fun c =>
  if !s.used b ∨ s.bayOwner b ≠ some m then (s, .plain .range)
  else
    s.withVehicle v (·.joinFields v none) fun s =>
    if (s.vehicle v).state ≠ .offline then (s, .plain .state)
    else
      let (s, bad) := s.readBlock b
      if bad then (s, ⟨.integrity, s.joinFields v none⟩)
      else if (s.block b).holder ≠ .none ∨ (s.block b).frozen then (s, .plain .held)
      else s.joinCarrier v c (·.joinFields v none) fun s => s.joinVehicle m v b c

theorem exec_join (h : Hdr) (vehicle : Byte) (block : Half) (carrier : CarrierField) (s : State) :
    exec (.join h vehicle block carrier) s = s.request h .join (joinBody h.link vehicle block carrier) := rfl

theorem joinBody_hunts (m vehicle block carrier) : Hunts l (joinBody m vehicle block carrier) := by
  refine .inRange fun v => .inRange fun b => .inRange fun c => .ite (fun _ => .rfl) (.done _)
    (.withVehicle (fun _ => rfl) (.ite (fun _ => .rfl) (.done _) fun s => ?_))
  rw [readBlock_hunt]
  generalize s.readBlock b = p
  obtain ⟨t, bad⟩ := p
  dsimp only
  split
  · rfl
  · exact Hunts.ite (l := l) (p := fun t => (t.block b).holder ≠ .none ∨ (t.block b).frozen = true) (fun _ => .rfl)
      (.done _) (.joinCarrier (fun _ => rfl) (joinVehicle_hunt m v b c)) t

def leaveBody (m : LinkId) (vehicle : Byte) (s : State) : State × Answer :=
  inRange (vehicle? vehicle) s fun v =>
  s.withOwned m v (fun _ => leaveFields 0 none none) fun s =>
  if (s.vehicle v).state = .idle ∨ (s.vehicle v).state = .withdrawn then s.leaveRail v else (s, .plain .state)

theorem exec_leave (h : Hdr) (vehicle : Byte) (s : State) :
    exec (.leave h vehicle) s = s.request h .leave (leaveBody h.link vehicle) := rfl

theorem leaveBody_hunts (m vehicle) : Hunts l (leaveBody m vehicle) :=
  .inRange fun v => .withOwned (fun _ => rfl) (.ite (fun _ => .rfl) (leaveRail_hunt v) (.done _))

def positionBody (m : LinkId) (vehicle : Byte) (block : Half) (s : State) : State × Answer :=
  inRange (vehicle? vehicle) s fun v => inRange (block? block) s fun b =>
  if !s.used b then (s, .plain .unknown)
  else
    s.withVehicle v (fun _ => num 0 ++ opt2 Enc.block none) fun s =>
    if !s.mayReport m v b then (s, .plain .notYours)
    else if (s.vehicle v).state = .offline ∨ (s.vehicle v).state = .stalled then (s, .plain .state)
    else if !(s.vehicle v).holds.contains b then (s, .plain .notHeld)
    else s.reportPosition v b

theorem exec_position (h : Hdr) (vehicle : Byte) (block : Half) (s : State) :
    exec (.position h vehicle block) s = s.request h .position (positionBody h.link vehicle block) := rfl

theorem positionBody_hunts (m vehicle block) : Hunts l (positionBody m vehicle block) :=
  .inRange fun v => .inRange fun b => .ite (fun _ => .rfl) (.done _) (.withVehicle (fun _ => rfl)
    (.ite (fun _ => .rfl) (.done _) (.ite (fun _ => .rfl) (.done _) (.ite (fun _ => .rfl) (.done _)
      (reportPosition_hunt v b)))))

def claimBody (m : LinkId) (vehicle : Byte) (blocks : List Half) (s : State) : State × Answer :=
  inRange (vehicle? vehicle) s fun v => inRange (blocks? blocks) s fun bs =>
  if bs = [] ∨ 5 < bs.length then (s, .plain .range)
  else if !bs.all s.used then (s, .plain .unknown)
  else
    s.withOwned m v (fun _ => Walk.fields v ⟨.integrity, 0, none, none⟩) fun s =>
    let r := s.vehicle v
    if r.state = .stalled ∨ r.waitingOn.isSome ∨ !s.goesOn v bs then (s, .plain .state)
    else if !s.claimFresh v bs then (s, .plain .duplicate)
    else if 6 < r.holds.length + bs.length then (s, .plain .full)
    else
      let (s, w) := State.walk v bs 0 s
      (s.restartSilence v, ⟨w.code, w.fields v⟩)

theorem exec_claim (h : Hdr) (vehicle : Byte) (blocks : List Half) (s : State) :
    exec (.claim h vehicle blocks) s = s.request h .claim (claimBody h.link vehicle blocks) := rfl

theorem chained_hunt (s : State) : ∀ bs front, (s.receiverToHunt l).chained front bs = s.chained front bs
  | [], _ => rfl
  | b :: bs, front => by simp only [State.chained, receiverToHunt_at_static, chained_hunt s bs b]

theorem goesOn_hunt (s : State) (v bs) : (s.receiverToHunt l).goesOn v bs = s.goesOn v bs := by
  simp only [State.goesOn, receiverToHunt_at_vehicle, chained_hunt]

theorem claimBody_hunts (m vehicle blocks) : Hunts l (claimBody m vehicle blocks) :=
  .inRange fun v => .inRange fun bs => .ite (fun _ => .rfl) (.done _) (.ite (fun _ => .rfl) (.done _)
    (.withOwned (fun _ => rfl) (.ite (fun s => by rw [goesOn_hunt]; rfl) (.done _) (.ite (fun _ => .rfl) (.done _)
      (.ite (fun _ => .rfl) (.done _) fun s => by simp only [walk_hunt v bs 0 s, restartSilence_hunt])))))

def releaseAheadBody (m : LinkId) (vehicle count : Byte) (s : State) : State × Answer :=
  inRange (vehicle? vehicle) s fun v =>
  if 5 < count.toNat then (s, .plain .range)
  else
    s.withOwned m v (fun s => s.releaseAheadFields v 0 none none) fun s =>
    if (s.vehicle v).state = .offline ∨ (s.vehicle v).state = .stalled then (s, .plain .state)
    else if (s.vehicle v).holds.length ≤ count.toNat then (s, .plain .range)
    else s.releaseAhead v count.toNat

theorem exec_releaseAhead (h : Hdr) (vehicle count : Byte) (s : State) :
    exec (.releaseAhead h vehicle count) s = s.request h .releaseAhead (releaseAheadBody h.link vehicle count) := rfl

theorem releaseAheadBody_hunts (m vehicle count) : Hunts l (releaseAheadBody m vehicle count) :=
  .inRange fun v => .ite (fun _ => .rfl) (.done _) (.withOwned (fun _ => rfl) (.ite (fun _ => .rfl) (.done _)
    (.ite (fun _ => .rfl) (.done _) (releaseAhead_hunt v _))))

def faultBody (m : LinkId) (vehicle : Byte) (s : State) : State × Answer :=
  inRange (vehicle? vehicle) s fun v =>
  s.withOwned m v
    (fun s => faultFields (s.vehicle v).saved ((s.vehicle v).order.map fun o => (o, .suspended))) fun s =>
  if (s.vehicle v).state = .stalled then (s, .plain .state)
  else
    let (s, d) := s.stall v .fault
    (s, ⟨okOr d.bad, faultFields (s.vehicle v).saved d.order⟩)

theorem exec_fault (h : Hdr) (vehicle : Byte) (s : State) :
    exec (.fault h vehicle) s = s.request h .fault (faultBody h.link vehicle) := rfl

theorem faultBody_hunts (m vehicle) : Hunts l (faultBody m vehicle) :=
  .inRange fun v => .withOwned (fun _ => rfl) (.ite (fun _ => .rfl) (.done _) fun s => by rw [stall_hunt]; rfl)

def recoverBody (m : LinkId) (vehicle : Byte) (block : Half) (s : State) : State × Answer :=
  inRange (vehicle? vehicle) s fun v => inRange (block? block) s fun b =>
  if !s.used b then (s, .plain .unknown)
  else
    s.withVehicle v (fun s => s.recoverFields v 0 none) fun s =>
    if !s.mayReport m v b then (s, .plain .notYours)
    else if !(s.vehicle v).recoverable then (s, .plain .state)
    else if !(s.vehicle v).holds.contains b then (s, .plain .notHeld)
    else s.recoverVehicle v b

theorem exec_recover (h : Hdr) (vehicle : Byte) (block : Half) (s : State) :
    exec (.recover h vehicle block) s = s.request h .recover (recoverBody h.link vehicle block) := rfl

theorem recoverBody_hunts (m vehicle block) : Hunts l (recoverBody m vehicle block) :=
  .inRange fun v => .inRange fun b => .ite (fun _ => .rfl) (.done _) (.withVehicle (fun _ => rfl)
    (.ite (fun _ => .rfl) (.done _) (.ite (fun _ => .rfl) (.done _) (.ite (fun _ => .rfl) (.done _)
      (recoverVehicle_hunt v b)))))

def acceptBody (m : LinkId) (vehicle : Byte) (slot source dest : Half) (carrier : CarrierField) (s : State) :
    State × Answer :=
  inRange (vehicle? vehicle) s fun v => inRange (slot? slot) s fun o => inRange (blockOrNone? source) s fun source =>
  inRange (block? dest) s fun dest => inRange (carrier? carrier) s fun c =>
  s.withOffer m v o fun r s =>
    let offer := s.offerEcho r
    let mask := offer.differing ⟨source, some dest, c⟩
    if mask = 0 then (s.takeOffer v o r).accepted v .ok (·.stateField v)
    else
      let (s, bad) := s.withdrawOffer v o .mismatch
      if bad then s.accepted v .integrity (·.stateField v)
      else
        s.accepted v .mismatch fun _ =>
          opt2 Enc.block offer.source ++ opt2 Enc.block offer.dest ++ Enc.carrier offer.carrier ++ [mask]

theorem exec_accept (h : Hdr) (vehicle : Byte) (slot source dest : Half) (carrier : CarrierField) (s : State) :
    exec (.accept h vehicle slot source dest carrier) s =
      s.request h .accept (acceptBody h.link vehicle slot source dest carrier) := rfl

theorem offerEcho_hunt (s : State) (r) : (s.receiverToHunt l).offerEcho r = s.offerEcho r := rfl

theorem acceptBody_hunts (m vehicle slot source dest carrier) :
    Hunts l (acceptBody m vehicle slot source dest carrier) := by
  refine .inRange fun v => .inRange fun o => .inRange fun src => .inRange fun d => .inRange fun c =>
    .withOffer fun r => .ite (fun _ => .rfl) (fun s => ?_) fun s => ?_
  · rw [takeOffer_hunt]; exact accepted_hunt (fun t => stateField_hunt t v) _
  · rw [withdrawOffer_hunt, offerEcho_hunt]
    generalize s.withdrawOffer v o .mismatch = p
    obtain ⟨t, bad⟩ := p
    dsimp only
    split
    · exact accepted_hunt (fun t => stateField_hunt t v) _
    · exact accepted_hunt (fun _ => rfl) _

def declineBody (m : LinkId) (vehicle : Byte) (slot : Half) (s : State) : State × Answer :=
  inRange (vehicle? vehicle) s fun v => inRange (slot? slot) s fun o =>
  s.withOffer m v o fun _ s =>
    let (s, bad) := s.withdrawOffer v o .declined
    s.accepted v (okOr bad) (·.stateField v)

theorem exec_decline (h : Hdr) (vehicle : Byte) (slot : Half) (s : State) :
    exec (.decline h vehicle slot) s = s.request h .decline (declineBody h.link vehicle slot) := rfl

theorem declineBody_hunts (m vehicle slot) : Hunts l (declineBody m vehicle slot) :=
  .inRange fun v => .inRange fun o => .withOffer fun _ s => by
    rw [withdrawOffer_hunt]; exact accepted_hunt (fun t => stateField_hunt t v) _

def pickDoneBody (m : LinkId) (vehicle : Byte) (carrier : CarrierField) (s : State) : State × Answer :=
  inRange (vehicle? vehicle) s fun v => inRange (carrier? carrier) s fun c =>
  s.withWork m v .toSource (·.pickFields v none none) fun o r s =>
    if !s.standsAt v r.source then (s, .plain .state)
    else if c = r.carrier then (s.pick v o r).accepted v .ok (·.pickFields v (some .picked) none)
    else if c = .none then
      let (s, bad) := s.pickEmpty v o
      s.accepted v (okOr bad) (·.pickFields v (some .sourceEmpty) none)
    else
      let (s, bad) := s.readPickSearch c
      let (s, bound) := s.pickOther v o c
      s.accepted v (okOr bad) (·.pickFields v (some .carrierMismatch) bound)

theorem exec_pickDone (h : Hdr) (vehicle : Byte) (carrier : CarrierField) (s : State) :
    exec (.pickDone h vehicle carrier) s = s.request h .pickDone (pickDoneBody h.link vehicle carrier) := rfl

theorem pickDoneBody_hunts (m vehicle carrier) : Hunts l (pickDoneBody m vehicle carrier) := by
  refine .inRange fun v => .inRange fun c => .withWork (fun _ => rfl) fun o r => .ite (fun _ => .rfl) (.done _)
    (.ite (fun _ => .rfl) (fun s => ?_) (.ite (fun _ => .rfl) (fun s => ?_) fun s => ?_))
  · rw [pick_hunt]; exact accepted_hunt (fun _ => rfl) _
  · simp only [pickEmpty_hunt v o s]; exact accepted_hunt (fun _ => rfl) _
  · simp only [readPickSearch_hunt c s, pickOther_hunt v o c _]
    exact accepted_hunt (fun _ => rfl) _

def dropDoneBody (m : LinkId) (vehicle : Byte) (s : State) : State × Answer :=
  inRange (vehicle? vehicle) s fun v =>
  s.withWork m v .toDest (·.stateField v) fun o r s =>
    if !s.standsAt v (some r.destInUse) then (s, .plain .state)
    else
      let (s, bad) := s.deliver v o
      s.accepted v (okOr bad) (·.stateField v)

theorem exec_dropDone (h : Hdr) (vehicle : Byte) (s : State) :
    exec (.dropDone h vehicle) s = s.request h .dropDone (dropDoneBody h.link vehicle) := rfl

theorem dropDoneBody_hunts (m vehicle) : Hunts l (dropDoneBody m vehicle) :=
  .inRange fun v => .withWork (fun _ => rfl) fun o r => .ite (fun _ => .rfl) (.done _) fun s => by
    simp only [deliver_hunt v o s]; exact accepted_hunt (fun _ => rfl) _

def dropFailBody (m : LinkId) (vehicle : Byte) (s : State) : State × Answer :=
  inRange (vehicle? vehicle) s fun v =>
  s.withWork m v .toDest (·.dropFailDamaged v) fun o r s =>
    match s.turnTarget r with
    | some p => (s.turn v o r p).accepted v .ok (·.dropFailFields (some .rerouted) (some p))
    | none => (s.refuseDrop v o).accepted v .ok (·.dropFailFields (some .refused) none)

theorem exec_dropFail (h : Hdr) (vehicle : Byte) (s : State) :
    exec (.dropFail h vehicle) s = s.request h .dropFail (dropFailBody h.link vehicle) := rfl

theorem turnTarget_hunt (s : State) (r) : (s.receiverToHunt l).turnTarget r = s.turnTarget r := rfl

theorem dropFailBody_hunts (m vehicle) : Hunts l (dropFailBody m vehicle) := by
  refine .inRange fun v => .withWork (fun _ => rfl) fun o r s => ?_
  rw [turnTarget_hunt]
  cases s.turnTarget r with
  | some p => dsimp only; rw [turn_hunt]; exact accepted_hunt (fun _ => rfl) _
  | none => dsimp only; rw [refuseDrop_hunt]; exact accepted_hunt (fun _ => rfl) _

/-! ## The console's requests -/

def setNoticeMaskBody (m : LinkId) (link mask : Byte) (s : State) : State × Answer :=
  inRange (link? link) s fun l => inRange (noticeMask? mask) s fun x =>
  if (s.link m).role ≠ .service ∧ l ≠ m then (s, .plain .notYours)
  else
    (s.updLink l fun k => { k with maskVehicle := x.1, maskPort := x.2 }, ⟨.ok, Enc.link l ++ [(s.link l).maskByte]⟩)

theorem exec_setNoticeMask (h : Hdr) (link mask : Byte) (s : State) :
    exec (.setNoticeMask h link mask) s = s.request h .setNoticeMask (setNoticeMaskBody h.link link mask) := rfl

theorem receiverToHunt_maskByte (s : State) (m : LinkId) :
    ((s.receiverToHunt l).link m).maskByte = (s.link m).maskByte := by
  by_cases e : l = m
  · subst e; simp [State.receiverToHunt, State.updLink, State.setLink, State.link, Link.maskByte]
  · have : l.val ≠ m.val := fun x => e (Fin.ext x)
    simp [State.receiverToHunt, State.updLink, State.setLink, State.link, Vector.getElem_set_ne, this]

theorem receiverToHunt_rate (s : State) (m : LinkId) : ((s.receiverToHunt l).link m).rate = (s.link m).rate := by
  by_cases e : l = m
  · subst e; simp [State.receiverToHunt, State.updLink, State.setLink, State.link]
  · have : l.val ≠ m.val := fun x => e (Fin.ext x)
    simp [State.receiverToHunt, State.updLink, State.setLink, State.link, Vector.getElem_set_ne, this]

theorem setNoticeMaskBody_hunts (m link mask) : Hunts l (setNoticeMaskBody m link mask) := by
  refine .inRange fun k => .inRange fun x => .ite (fun s => ?_) (.done _) fun s => ?_
  · rw [receiverToHunt_role s l m]
  · rw [receiverToHunt_maskByte]
    exact congrArg (·, _) (updLink_updLink_comm s l k _ _ fun _ => rfl)

def setLinkRateBody (m : LinkId) (link rate : Byte) (s : State) : State × Answer :=
  inRange (link? link) s fun l => inRange (rate? rate) s fun r =>
  (s.updLink m fun k => { k with pendingRate := some (l, r) }, ⟨.ok, Enc.link l ++ [(s.link l).rate.code]⟩)

theorem exec_setLinkRate (h : Hdr) (link rate : Byte) (s : State) :
    exec (.setLinkRate h link rate) s = s.request h .setLinkRate (setLinkRateBody h.link link rate) := rfl

theorem setLinkRateBody_hunts (m link rate) : Hunts l (setLinkRateBody m link rate) :=
  .inRange fun k => .inRange fun r s => by
    rw [receiverToHunt_rate]
    exact congrArg (·, _) (updLink_updLink_comm s l m _ _ fun _ => rfl)

def writeBlocksBody (records : List BlockField) (s : State) : State × Answer :=
  if records = [] ∨ 16 < records.length then (s, .plain .range)
  else
    inRange (records.mapM blockRecord?) s fun rs =>
    let (s, bad) := State.writeBlocks rs s
    ({ s with committed := false }, ⟨okOr bad, num rs.length⟩)

theorem exec_writeBlocks (h : Hdr) (records : List BlockField) (s : State) :
    exec (.writeBlocks h records) s = s.request h .writeBlocks (writeBlocksBody records) := rfl

theorem writeBlocksBody_hunts (records) : Hunts l (writeBlocksBody records) :=
  .ite (fun _ => .rfl) (.done _) (.inRange fun rs s => by simp only [writeBlocks_hunt rs s]; rfl)

def commitMapBody (s : State) : State × Answer :=
  match s.mapFault with
  | some f => (s, ⟨.invalidMap, [f.object.code] ++ num2 f.number ++ [f.reason.code]⟩)
  | none => ({ s with committed := true }.changeMode .run .commit, .plain .ok)

theorem exec_commitMap (h : Hdr) (s : State) : exec (.commitMap h) s = s.request h .commitMap commitMapBody := rfl

theorem mapFault_hunt (s : State) : (s.receiverToHunt l).mapFault = s.mapFault := by
  have e : (s.receiverToHunt l).bayFault = s.bayFault := by
    funext a
    simp only [State.bayFault, State.bayOwned, receiverToHunt_role]; rfl
  unfold State.mapFault; rw [e]; rfl

theorem commitMapBody_hunts : Hunts l commitMapBody := by
  intro s
  unfold commitMapBody; rw [mapFault_hunt]
  cases s.mapFault with
  | some f => rfl
  | none => exact congrArg (·, _) (changeMode_hunt { s with committed := true } .run .commit)

def reopenMapBody (s : State) : State × Answer :=
  s.withRoster fun s =>
  if s.anyInService ∨ s.liveSlots ≠ [] then (s, .plain .state) else (s.changeMode .setup .reopen, .plain .ok)

theorem exec_reopenMap (h : Hdr) (s : State) : exec (.reopenMap h) s = s.request h .reopenMap reopenMapBody := rfl

theorem reopenMapBody_hunts : Hunts l reopenMapBody :=
  .withRoster (.ite (fun _ => .rfl) (.done _) fun s => by rw [changeMode_hunt])

def haltBody (s : State) : State × Answer := (if s.mode = .run then s.changeMode .halted .halt else s, .plain .ok)

theorem exec_halt (h : Hdr) (s : State) : exec (.halt h) s = s.request h .halt haltBody := rfl

theorem haltBody_hunts : Hunts l haltBody := by
  intro s
  unfold haltBody; rw [receiverToHunt_mode]; split
  · rw [changeMode_hunt]
  · rfl

def resumeBody (s : State) : State × Answer := (if s.mode = .halted then s.resume else s, .plain .ok)

theorem exec_resume (h : Hdr) (s : State) : exec (.resume h) s = s.request h .resume resumeBody := rfl

theorem resumeBody_hunts : Hunts l resumeBody := by
  intro s
  unfold resumeBody; rw [receiverToHunt_mode]; split
  · rw [resume_hunt]
  · rfl

def softResetBody (s : State) : State × Answer :=
  s.withRoster fun s =>
  if s.anyInService then (s.convertReset, .plain .converted) else (s.softReset, .plain .ok)

theorem exec_softReset (h : Hdr) (s : State) : exec (.softReset h) s = s.request h .softReset softResetBody := rfl

theorem softResetBody_hunts : Hunts l softResetBody :=
  .withRoster (.ite (fun _ => .rfl) (fun s => by rw [convertReset_hunt]) fun s => by rw [softReset_hunt])

def setFenceBody (fence : Byte) (first last : Half) (s : State) : State × Answer :=
  inRange (fence? fence) s fun f => inRange (block? first) s fun first => inRange (block? last) s fun last =>
  if last < first then (s, .plain .range)
  else (s.moveFence f ⟨true, first, last⟩, ⟨.ok, (s.fence f).fields⟩)

theorem exec_setFence (h : Hdr) (fence : Byte) (first last : Half) (s : State) :
    exec (.setFence h fence first last) s = s.request h .setFence (setFenceBody fence first last) := rfl

theorem setFenceBody_hunts (fence first last) : Hunts l (setFenceBody fence first last) :=
  .inRange fun f => .inRange fun x => .inRange fun y => .ite (fun _ => .rfl) (.done _) fun s => by
    rw [moveFence_hunt]; rfl

def clearFenceBody (fence : Byte) (s : State) : State × Answer :=
  inRange (fence? fence) s fun f =>
  (s.moveFence f { s.fence f with active := false }, ⟨.ok, (s.fence f).fields⟩)

theorem exec_clearFence (h : Hdr) (fence : Byte) (s : State) :
    exec (.clearFence h fence) s = s.request h .clearFence (clearFenceBody fence) := rfl

theorem clearFenceBody_hunts (fence) : Hunts l (clearFenceBody fence) :=
  .inRange fun f s => by rw [moveFence_hunt]; rfl

def setTimingBody (new : Timing) (s : State) : State × Answer :=
  if !timingInRange new then (s, .plain .range)
  else
    let (s', bad) := s.setTiming new
    (s', ⟨okOr bad, s.timing.bytes⟩)

theorem exec_setTiming (h : Hdr) (new : Timing) (s : State) :
    exec (.setTiming h new) s = s.request h .setTiming (setTimingBody new) := rfl

theorem setTimingBody_hunts (new) : Hunts l (setTimingBody new) :=
  .ite (fun _ => .rfl) (.done _) fun s => by simp only [setTiming_hunt new s]; rfl

def setWeightsBody (w : Weights) (s : State) : State × Answer :=
  if !weightsInRange w then (s, .plain .range) else ({ s with weights := w }, ⟨.ok, w.bytes⟩)

theorem exec_setWeights (h : Hdr) (w : Weights) (s : State) :
    exec (.setWeights h w) s = s.request h .setWeights (setWeightsBody w) := rfl

theorem setWeightsBody_hunts (w) : Hunts l (setWeightsBody w) := .ite (fun _ => .rfl) (.done _) fun _ => rfl

def drainBody (vehicle : Byte) (s : State) : State × Answer :=
  inRange (vehicle? vehicle) s fun v =>
  s.withVehicle v (·.drainFields v) fun s =>
  if (s.vehicle v).state = .offline then (s, .plain .state)
  else
    let s := s.drainVehicle v
    (s, ⟨.ok, s.drainFields v⟩)

theorem exec_drain (h : Hdr) (vehicle : Byte) (s : State) :
    exec (.drain h vehicle) s = s.request h .drain (drainBody vehicle) := rfl

theorem drainBody_hunts (vehicle) : Hunts l (drainBody vehicle) :=
  .inRange fun v => .withVehicle (fun _ => rfl) (.ite (fun _ => .rfl) (.done _) fun s => by rw [drainVehicle_hunt]; rfl)

def restoreBody (vehicle : Byte) (s : State) : State × Answer :=
  inRange (vehicle? vehicle) s fun v =>
  s.withVehicle v (·.drainFields v) fun s =>
  if (s.vehicle v).state = .offline then (s, .plain .state)
  else
    let (s, bad) := s.restoreVehicle v
    (s, ⟨okOr bad, s.drainFields v⟩)

theorem exec_restore (h : Hdr) (vehicle : Byte) (s : State) :
    exec (.restore h vehicle) s = s.request h .restore (restoreBody vehicle) := rfl

theorem restoreBody_hunts (vehicle) : Hunts l (restoreBody vehicle) :=
  .inRange fun v => .withVehicle (fun _ => rfl) (.ite (fun _ => .rfl) (.done _) fun s => by
    simp only [restoreVehicle_hunt v s]; rfl)

def evictBody (vehicle : Byte) (s : State) : State × Answer :=
  inRange (vehicle? vehicle) s fun v =>
  let (s, bad) := s.readVehicle v
  if (s.vehicle v).state = .offline then
    (s, if bad then ⟨.integrity, evictFields 0 none .none none⟩ else .plain .state)
  else s.evictVehicle v bad

theorem exec_evict (h : Hdr) (vehicle : Byte) (s : State) :
    exec (.evict h vehicle) s = s.request h .evict (evictBody vehicle) := rfl

theorem evictBody_hunts (vehicle) : Hunts l (evictBody vehicle) :=
  .inRange fun v s => by
    rw [readVehicle_hunt]
    exact Hunts.ite (l := l) (p := fun t => (t.vehicle v).state = .offline) (fun _ => .rfl) (.done _)
      (evictVehicle_hunt v _) (s.readVehicle v).1

def thawBody (block : Half) (s : State) : State × Answer :=
  inRange (block? block) s fun b =>
  let (s, bad) := s.readBlock b
  if bad then (s, ⟨.integrity, holder (s.block b).holder⟩)
  else if !(s.block b).frozen then (s, .plain .state)
  else s.thaw b

theorem exec_thaw (h : Hdr) (block : Half) (s : State) : exec (.thaw h block) s = s.request h .thaw (thawBody block) := rfl

theorem thawBody_hunts (block) : Hunts l (thawBody block) :=
  .inRange fun b s => by
    rw [readBlock_hunt]
    dsimp only
    split
    · rfl
    · exact Hunts.ite (l := l) (p := fun t => (!(t.block b).frozen) = true) (fun _ => .rfl) (.done _) (thaw_hunt b)
        (s.readBlock b).1

end Sys2Proof.Machine
end

section
/-! A record written twice, or written as it stands. -/

namespace Sys2Proof.Machine

variable (s : State)

@[simp] theorem setLink_setLink (l : LinkId) (k k' : Link) : (s.setLink l k).setLink l k' = s.setLink l k' := by
  simp [State.setLink]

@[simp] theorem setBlock_setBlock (b : BlockId) (r r' : BlockRec) : (s.setBlock b r).setBlock b r' = s.setBlock b r' := by
  simp [State.setBlock]

@[simp] theorem setVehicle_setVehicle (v : VehicleId) (r r' : VehicleRec) :
    (s.setVehicle v r).setVehicle v r' = s.setVehicle v r' := by simp [State.setVehicle]

@[simp] theorem setOrder_setOrder (o : Slot) (r r' : Option OrderRec) : (s.setOrder o r).setOrder o r' = s.setOrder o r' := by
  simp [State.setOrder]

@[simp] theorem setPort_setPort (p : PortId) (r r' : PortRec) : (s.setPort p r).setPort p r' = s.setPort p r' := by
  simp [State.setPort]

@[simp] theorem setLink_link (l : LinkId) : s.setLink l (s.link l) = s := by simp [State.setLink, State.link]

@[simp] theorem setBlock_block (b : BlockId) : s.setBlock b (s.block b) = s := by simp [State.setBlock, State.block]

@[simp] theorem setOrder_order (o : Slot) : s.setOrder o (s.order o) = s := by simp [State.setOrder, State.order]

theorem setOrder_self {s : State} {o : Slot} {x : Option OrderRec} (e : s.order o = x) : s.setOrder o x = s := by
  rw [← e, setOrder_order]

end Sys2Proof.Machine
end

section
/-! The Link Interfaces (R155 to R164): resets, dropped frames, the transmitter, the receiver by its state, and notices. -/

namespace Sys2Proof.Machine

variable {s : State} {l : LinkId}

/-! ## Line rates (R164) -/

theorem inFrame_iff (x : Rx) : x.inFrame = true ↔ x ≠ .hunt := by cases x <;> simp [Rx.inFrame]

theorem takeRate_eq (rate : Rate) (k : Link) : k.takeRate rate =
    if k.rx = .hunt then { k with rate := rate }
    else { k with
      rate := rate, rx := .hunt, gapTimer := false
      attention := { k.attention with rxFault := true } } := by
  unfold Link.takeRate
  by_cases h : k.rx = .hunt
  · simp [h, Rx.inFrame]
  · rw [if_pos ((inFrame_iff _).mpr h), if_neg h]; rfl

theorem takeRate_hunting {rate : Rate} {k : Link} (h : k.rx = .hunt) : k.takeRate rate = { k with rate := rate } := by
  rw [takeRate_eq, if_pos h]

/-! ## Link reset (R160) -/

theorem exec_linkReset (l : LinkId) (s : State) : exec (.linkReset l) s = execLinkReset l s := rfl

theorem execLinkReset_disabled (h : (s.link l).role = .disabled) : execLinkReset l s = .next s := if_pos h

theorem execLinkReset_enabled (h : (s.link l).role ≠ .disabled) : execLinkReset l s =
    .next ((s.setLink l (.reset (s.link l).role)).applyRate (s.link l).pendingRate).endEvent := if_neg h

/-- Settles O5: a break resets its own link, then applies the rate change that was pending there. -/
theorem linkResetOfOneLink : Obligations.LinkResetOfOneLink := by
  unfold Obligations.LinkResetOfOneLink
  intro l s
  refine ⟨execLinkReset_disabled, fun hd hp => ?_, fun rate hd hp => ?_, fun m rate hm hd hp => ?_⟩ <;>
    rw [exec_linkReset, execLinkReset_enabled hd, hp]
  · rfl
  · rw [State.applyRate, State.updLink, setLink_same, setLink_setLink, takeRate_hunting (by rfl)]; rfl
  · rw [State.applyRate, State.updLink, setLink_other _ _ hm, takeRate_eq]; rfl

/-! ## Faults of the reception (R159, R161) -/

theorem exec_dropped {c : Instr} (hc : c = .frameDropped l ∨ c = .rxGapTimeout l) (s : State) :
    exec c s = .next (s.dropFrame l) := by
  rcases hc with rfl | rfl <;> rfl

theorem dropFrame_inFrame (hd : (s.link l).role ≠ .disabled) (hf : (s.link l).rx ≠ .hunt) :
    s.dropFrame l = s.setLink l { s.link l with
      rx := .hunt, gapTimer := false, attention := { (s.link l).attention with rxFault := true } } := by
  rw [State.dropFrame, if_pos ⟨hd, (inFrame_iff _).mpr hf⟩]; rfl

theorem dropFrame_idle (h : (s.link l).role = .disabled ∨ (s.link l).rx = .hunt) : s.dropFrame l = s := by
  refine if_neg fun ⟨hd, hf⟩ => ?_
  exact h.elim hd ((inFrame_iff _).mp hf)

theorem exec_overrun (l : LinkId) (s : State) : exec (.overrun l) s = execOverrun l s := rfl

/-- R161: the frame discarded with OVERRUN. -/
theorem receiverToHunt_attend_overrun (hd : (s.link l).role ≠ .disabled) : (s.receiverToHunt l).attend l .overrun =
    s.setLink l { s.link l with
      rx := .hunt, gapTimer := false, attention := { (s.link l).attention with overrun := true } } := by
  simp only [State.attend, State.receiverToHunt, State.updLink, setLink_same, setLink_setLink, Link.attend, hd, if_false]
  rfl

theorem execOverrun_held (hd : (s.link l).role ≠ .disabled) (hs : (s.link l).slot.isSome = true) :
    execOverrun l s = .next ((s.receiverToHunt l).attend l .overrun) := if_pos ⟨hd, hs⟩

theorem execOverrun_empty (h : (s.link l).role = .disabled ∨ (s.link l).slot = none) : execOverrun l s = .next s := by
  refine if_neg fun ⟨hd, hs⟩ => ?_
  rcases h with hr | hn
  · exact hd hr
  · rw [hn] at hs; exact Bool.false_ne_true hs

/-- R161: a request for a link whose slot holds a reply. -/
theorem request_overrun {h : Hdr} {kind : ReqKind} {body : State → State × Answer}
    (hd : (s.link h.link).role ≠ .disabled) (hs : (s.link h.link).slot.isSome = true) :
    s.request h kind body = .next ((s.receiverToHunt h.link).attend h.link .overrun).endEvent := by
  obtain ⟨p, hp⟩ := Option.isSome_iff_exists.mp hs
  unfold State.request State.takeFrame
  rw [if_neg hd]
  dsimp only
  rw [receiverToHunt_slot, hp]

/-- Settles O6: dropped frames and overruns. -/
theorem receptionFaults : Obligations.ReceptionFaults := by
  unfold Obligations.ReceptionFaults
  intro l s
  refine ⟨fun c hc => ⟨fun hd hf => ?_, fun h => ?_⟩, fun hd hs => ⟨?_, fun i h kind fields hi hl => ?_⟩, execOverrun_empty⟩
  · rw [exec_dropped hc, dropFrame_inFrame hd hf]
  · rw [exec_dropped hc, dropFrame_idle h]
  · rw [exec_overrun, execOverrun_held hd hs, receiverToHunt_attend_overrun hd]
  · subst hl
    obtain ⟨body, hbody⟩ := exec_eq_request hi
    rw [hbody, request_overrun hd hs, receiverToHunt_attend_overrun hd]

/-! ## The transmitter (R162) -/

theorem choose_reply {k : Link} {r : Reply} (hd : k.role ≠ .disabled) (ht : k.tx = none) (hs : k.slot = some ⟨r, false⟩) :
    k.choose = { k with slot := some ⟨r, true⟩, tx := some ⟨.reply r, k.rate⟩ } := by
  simp [Link.choose, hd, ht, hs]

theorem choose_notice {k : Link} {n : Notice} {rest : List Notice} (hd : k.role ≠ .disabled) (ht : k.tx = none)
    (hs : ∀ r, k.slot ≠ some ⟨r, false⟩) (hq : k.queue = n :: rest) :
    k.choose = { k with queue := rest, tx := some ⟨.notice n, k.rate⟩ } := by
  unfold Link.choose
  rw [if_neg hd, ht, if_neg (by simp), hq]
  split
  · next e => exact absurd e (hs _)
  · next h _ => obtain ⟨rfl, rfl⟩ := List.cons.inj h; rfl
  · next h _ => exact absurd h (List.cons_ne_nil _ _)

theorem choose_idle {k : Link} (h : k.role = .disabled ∨ k.tx ≠ none ∨ ((∀ r, k.slot ≠ some ⟨r, false⟩) ∧ k.queue = [])) :
    k.choose = k := by
  unfold Link.choose
  split
  · rfl
  · next hd =>
    split
    · rfl
    · next ht =>
      obtain ⟨hs, hq⟩ := (h.resolve_left hd).resolve_left (not_not.mpr (by simpa using ht))
      rw [hq]
      split
      · next e => exact absurd e (hs _)
      · next h _ => exact absurd h.symm (List.cons_ne_nil _ _)
      · rfl

theorem exec_transmitComplete (l : LinkId) (s : State) : exec (.transmitComplete l) s = execTransmitComplete l s := rfl

/-- Settles O7: what an idle transmitter begins, and the end of a frame sent. -/
theorem transmitterChoosesAndCompletes : Obligations.TransmitterChoosesAndCompletes := by
  unfold Obligations.TransmitterChoosesAndCompletes
  refine ⟨fun _ _ => choose_reply, fun _ _ _ => choose_notice, fun _ => choose_idle, endEvent_link, fun s l ht => ?_,
    fun s l n q ht => ?_, fun s l r q ht => ⟨fun hp => ?_, fun m rate hp => ?_⟩⟩ <;>
    rw [exec_transmitComplete, execTransmitComplete, ht]
  · rfl
  · dsimp only; rw [hp]; rfl
  · dsimp only; rw [hp, State.applyRate]
    simp only [State.updLink, takeRate_eq]

/-! ## Notices (R61, R106, R129, R145, R163, R176) -/

theorem enqueue_eq (n : Notice) (k : Link) : k.enqueue n =
    if k.role = .disabled then k
    else if k.queue.length < 32 then { k with queue := k.queue ++ [n] }
    else { k with attention := { k.attention with noticesDropped := true } } := rfl

theorem notify_link (s : State) (l m : LinkId) (n : Notice) :
    (s.notify l n).link m = if m = l then (s.link m).enqueue n else s.link m := by
  unfold State.notify State.updLink
  rw [setLink_read]
  split
  · next e => rw [e]
  · rfl

theorem notifyOwner_link (s : State) (owner : Option LinkId) (m : LinkId) (n : Notice) :
    (s.notifyOwner owner n).link m = if owner = some m then (s.link m).enqueue n else s.link m := by
  cases owner with
  | none => simp [State.notifyOwner]
  | some l => simp only [State.notifyOwner, notify_link, Option.some.injEq, eq_comm]

theorem mapLinks_link (s : State) (f : Link → Link) (l : LinkId) :
    ({ s with links := s.links.map f } : State).link l = f (s.link l) := by simp [State.link]

theorem notifyWhere_link (s : State) (p : Link → Bool) (m : LinkId) (n : Notice) :
    (s.notifyWhere p n).link m = if p (s.link m) then (s.link m).enqueue n else s.link m :=
  mapLinks_link s _ m

theorem notifyOwner_others (s : State) (owner : Option LinkId) (n : Notice) :
    s.notifyOwner owner n = { s with links := (s.notifyOwner owner n).links } := by cases owner <;> rfl

theorem notifyIntegrity_link (s : State) (cause : IntegrityCause) (r : RecRef) (f : Finder) (v : Option VehicleId)
    (l : LinkId) : (s.notifyIntegrity cause r f v).link l =
      if (s.link l).role = .service then ((s.link l).enqueue (.integrity cause r f v s.fabClock)).attend .integrity
      else s.link l := mapLinks_link s _ l

theorem enqueue_role (n : Notice) (k : Link) : (k.enqueue n).role = k.role := by
  rw [enqueue_eq]; split
  · rfl
  · split <;> rfl

theorem attend_enabled {c : Cause} {k : Link} (h : k.role ≠ .disabled) :
    k.attend c = { k with attention := k.attention.set c } := if_neg h

/-- Settles O8: a full queue discards a notice; which links each notice goes to, and what it carries. -/
theorem fullQueueDropsNotice : Obligations.FullQueueDropsNotice := by
  unfold Obligations.FullQueueDropsNotice
  refine ⟨fun s l n => ⟨fun hd hq => ?_, fun hd hq => ?_, fun hd => ?_⟩, enqueue_eq, fun s l n => ⟨rfl, fun m => ?_⟩,
    fun s owner n => ⟨notifyOwner_others s owner n, fun m => ?_⟩, fun s p n => ⟨rfl, fun m => notifyWhere_link s p m n⟩,
    fun s v was => ⟨rfl, fun m => notifyWhere_link s _ m _⟩, fun s o r kind cause => ⟨rfl, fun m => ?_⟩,
    fun s v o cause => ⟨notifyOwner_others s _ _, fun m => ?_⟩,
    fun s v o cause dest alt => ⟨notifyOwner_others s _ _, fun m => ?_⟩, fun s cause r f v => ⟨rfl, fun l => ⟨?_, ?_⟩⟩⟩
  · rw [State.notify, State.updLink, enqueue_eq, if_neg hd, if_pos hq]
  · rw [State.notify, State.updLink, enqueue_eq, if_neg hd, if_neg (Nat.not_lt.mpr hq)]
  · rw [State.notify, State.updLink, enqueue_eq, if_pos hd, setLink_link]
  · rw [notify_link]; simp only [decide_eq_true_eq]; rfl
  · rw [notifyOwner_link]; simp only [decide_eq_true_eq]; rfl
  · rw [State.noteOrder, notify_link]; simp only [decide_eq_true_eq]; rfl
  · rw [State.noteWithdraw, notifyOwner_link]; simp only [decide_eq_true_eq]; rfl
  · rw [State.noteReroute, notifyOwner_link]; simp only [decide_eq_true_eq]; rfl
  · intro hr
    have hd : ((s.link l).enqueue (.integrity cause r f v s.fabClock)).role ≠ .disabled := by
      rw [enqueue_role, hr]; decide
    rw [notifyIntegrity_link, if_pos hr, attend_enabled hd]; rfl
  · intro hr; rw [notifyIntegrity_link, if_neg hr]

/-! ## The receiver (R157, R159) -/

theorem exec_characterReceived (l : LinkId) (c : Byte) (framing : Bool) (s : State) :
    exec (.characterReceived l c framing) s = execCharacterReceived l c framing s := rfl

theorem execCharacterReceived_framing {c : Byte} (hd : (s.link l).role ≠ .disabled) :
    execCharacterReceived l c true s = .next (s.dropFrame l) := by rw [execCharacterReceived, if_neg hd]; rfl

theorem execCharacterReceived_clean {c : Byte} (hd : (s.link l).role ≠ .disabled) :
    execCharacterReceived l c false s = s.receive l c := by rw [execCharacterReceived, if_neg hd]; rfl

theorem lengthFits_iff (c : Byte) : lengthFits c = true ↔ 2 ≤ c.toNat ∧ c.toNat ≤ 250 := by
  rw [lengthFits, Bool.and_eq_true, decide_eq_true_eq, decide_eq_true_eq]; rfl

/-- Settles O9: one character, by the receiver's state. -/
theorem receiverRows : Obligations.ReceiverRows := by
  unfold Obligations.ReceiverRows
  intro l c s
  refine ⟨fun hd bad => if_pos hd, fun hd => ⟨fun hr => ?_, fun hr => ?_, fun hr hc => ?_, fun hr hc => ?_,
    fun hr hlo hhi => ?_, fun hr hout => ?_, fun len got hr hlen => ?_, fun len got hr hlen => ?_, fun len got hr => ?_,
    fun len got first hr hcrc => ?_⟩⟩
  · rw [exec_characterReceived, execCharacterReceived_framing hd, dropFrame_idle (.inr hr)]
  · rw [exec_characterReceived, execCharacterReceived_framing hd, dropFrame_inFrame hd hr]
  all_goals
    rw [exec_characterReceived, execCharacterReceived_clean hd, State.receive, hr]
    dsimp only
  · rw [if_pos hc]; rfl
  · rw [if_neg hc]
  · rw [State.updLink, if_pos ((lengthFits_iff c).mpr ⟨hlo, hhi⟩)]
  · rw [State.updLink, if_neg (by rw [lengthFits_iff]; omega)]; rfl
  · rw [State.updLink, Rx.afterBody, List.length_append, List.length_singleton, if_pos hlen]
  · rw [State.updLink, Rx.afterBody, List.length_append, List.length_singleton, if_neg (Nat.not_lt.mpr hlen)]
  · rfl
  · have hbad : checkAgrees len got first c = false := decide_eq_false hcrc
    rw [State.completeFrame, hbad]; rfl

/-! ## Subscriptions (R175) -/

theorem noticeMask?_eq_none {m : Byte} (h : 4 ≤ m.toNat) : noticeMask? m = none := if_neg (Nat.not_lt.mpr h)

theorem noticeMask?_eq_some {m : Byte} (h : m.toNat < 4) : noticeMask? m = some (m.getLsbD 0, m.getLsbD 1) := if_pos h

theorem takes_setNoticeMask {h : Hdr} (hfree : s.free h) : s.takes h .setNoticeMask :=
  takes_of_free hfree (fun r hr => by cases r <;> first | rfl | exact absurd rfl hr) rfl

/-- Settles O16: SET_NOTICE_MASK whole. -/
theorem setNoticeMask : Obligations.SetNoticeMask := by
  unfold Obligations.SetNoticeMask
  intro h link mask s hfree
  have ht := takes_setNoticeMask hfree
  have answers {t : State} {a : Answer} (e : setNoticeMaskBody h.link link mask s = (t, a)) :
      exec (.setNoticeMask h link mask) s = .next (t.answered h .setNoticeMask a.code a.fields) :=
    request_hunts ht (setNoticeMaskBody_hunts _ _ _) e
  refine ⟨fun hout => answers (a := .plain .range) ?_, fun l hl hm => ⟨fun hr hne => answers (a := .plain .notYours) ?_,
    fun hor => answers (a := ⟨.ok, Enc.link l ++ [(s.link l).maskByte]⟩) ?_⟩⟩
  · unfold setNoticeMaskBody
    rcases hout with hl | hm
    · have e : link? link = none := below_eq_none hl
      rw [e, inRange_none]
    · rw [noticeMask?_eq_none hm]; cases link? link <;> rfl
  all_goals
    have e : link? link = some l := below_of_eq_val hl
    rw [setNoticeMaskBody, e, inRange_some, noticeMask?_eq_some hm, inRange_some]
  · rw [if_pos ⟨hr, hne⟩]
  · rw [if_neg fun ⟨hr, hne⟩ => hor.elim hr hne]; rfl

end Sys2Proof.Machine
end

section
/-! The first of the numbers that pass a test, and entries to IDLE while the counter is not at its top (R59, R153). -/

namespace Sys2Proof.Machine

theorem find?_finRange {n : Nat} {p : Fin n → Bool} {a : Fin n} (ha : p a = true) (hlt : ∀ x, x < a → p x = false) :
    (List.finRange n).find? p = some a := by
  refine List.find?_eq_some_iff_getElem.mpr ⟨ha, a.val, by simp, by simp, fun j hj => ?_⟩
  have hx := hlt ⟨j, Nat.lt_trans hj a.isLt⟩ hj
  simpa using hx

theorem find?_finRange_none {n : Nat} {p : Fin n → Bool} (h : ∀ x, p x = false) : (List.finRange n).find? p = none :=
  List.find?_eq_none.mpr fun x _ => by simp [h x]

/-- The first live slot that passes a test. -/
theorem find?_liveSlots {s : State} {p : Slot → Bool} {o : Slot} (ho : s.order o ≠ none) (hp : p o = true)
    (hlt : ∀ x, x < o → s.order x ≠ none → p x = false) : s.liveSlots.find? p = some o := by
  unfold State.liveSlots
  rw [List.find?_filter]
  refine find?_finRange (decide_eq_true ⟨Option.isSome_iff_ne_none.mpr ho, hp⟩) fun x hx => decide_eq_false fun ⟨hl, h⟩ => ?_
  rw [hlt x hx (Option.isSome_iff_ne_none.mp hl)] at h
  exact Bool.false_ne_true h

theorem find?_liveSlots_none {s : State} {p : Slot → Bool} (h : ∀ x, s.order x ≠ none → p x = false) :
    s.liveSlots.find? p = none := by
  refine List.find?_eq_none.mpr fun x hx => ?_
  rw [h x (Option.isSome_iff_ne_none.mp ((mem_liveSlots s x).mp hx))]
  exact Bool.false_ne_true

theorem allVehicles_eq : allVehicles = List.finRange 128 := by unfold allVehicles; exact Eq.refl _

theorem allBlocks_eq : allBlocks = List.finRange 1024 := by unfold allBlocks; exact Eq.refl _

theorem nextIdleSeq_ready {s : State} (rd : Reader) (h : s.idleSeq ≠ counterTop) :
    s.nextIdleSeq rd = ({ s with idleSeq := s.idleSeq + 1 }, s.idleSeq + 1, false) := by
  simp only [State.nextIdleSeq, h, ↓reduceIte]

/-- R59: an entry to IDLE, or to WITHDRAWN, that needs no renumbering. -/
theorem enterIdle_ready {s : State} (rd : Reader) (v : VehicleId) (h : s.idleSeq ≠ counterTop) : s.enterIdle rd v =
    ((s.setVehicle v ((s.vehicle v).idled (s.idleSeq + 1))).afterIdle (s.vehicle v).drain, false) := by
  unfold State.enterIdle State.afterIdle VehicleRec.idled
  split
  · rfl
  · rw [nextIdleSeq_ready rd h]; rfl

@[simp] theorem afterIdle_at_vehicle (s : State) (w : Bool) (v : VehicleId) : (s.afterIdle w).vehicle v = s.vehicle v := by
  unfold State.afterIdle; split <;> rfl

@[simp] theorem idled_flips (n : BitVec 32) (r : VehicleRec) : (r.idled n).flips = r.flips := by
  unfold VehicleRec.idled; split <;> rfl

@[simp] theorem idled_order (n : BitVec 32) (r : VehicleRec) : (r.idled n).order = none := by
  unfold VehicleRec.idled; split <;> rfl

/-! ## What a notice to an owner leaves alone -/

@[simp] theorem notifyOwner_mode (s : State) (owner n) : (s.notifyOwner owner n).mode = s.mode := by
  rw [notifyOwner_others]
@[simp] theorem notifyOwner_idleSeq (s : State) (owner n) : (s.notifyOwner owner n).idleSeq = s.idleSeq := by
  rw [notifyOwner_others]
@[simp] theorem notifyOwner_orders (s : State) (owner n) : (s.notifyOwner owner n).orders = s.orders := by
  rw [notifyOwner_others]
@[simp] theorem notifyOwner_msBase (s : State) (owner n) : (s.notifyOwner owner n).msBase = s.msBase := by
  rw [notifyOwner_others]
@[simp] theorem notifyOwner_timing (s : State) (owner n) : (s.notifyOwner owner n).timing = s.timing := by
  rw [notifyOwner_others]
@[simp] theorem notifyOwner_at_block (s : State) (owner n b) : (s.notifyOwner owner n).block b = s.block b := by
  rw [notifyOwner_others]; rfl
@[simp] theorem notifyOwner_at_vehicle (s : State) (owner n v) : (s.notifyOwner owner n).vehicle v = s.vehicle v := by
  rw [notifyOwner_others]; rfl
@[simp] theorem notifyOwner_at_order (s : State) (owner n o) : (s.notifyOwner owner n).order o = s.order o := by
  rw [notifyOwner_others]; rfl
@[simp] theorem notifyOwner_at_port (s : State) (owner n p) : (s.notifyOwner owner n).port p = s.port p := by
  rw [notifyOwner_others]; rfl

theorem notifyOwner_setVehicle (s : State) (owner n v r) :
    (s.notifyOwner owner n).setVehicle v r = (s.setVehicle v r).notifyOwner owner n := by cases owner <;> rfl
theorem notifyOwner_setOrder (s : State) (owner n o r) :
    (s.notifyOwner owner n).setOrder o r = (s.setOrder o r).notifyOwner owner n := by cases owner <;> rfl

theorem enterLoadedIdle_eq (s : State) (v : VehicleId) (c : Carrier) :
    s.enterLoadedIdle v c = (s.setVehicle v ((s.vehicle v).loaded c)).setTrigger := rfl

end Sys2Proof.Machine
end

section
/-! The Integrity Monitor on single records (R132 to R137, R141): the scrub walk, corrections, frozen blocks, freed orders. -/

namespace Sys2Proof.Machine

variable {s : State}

/-! ## The scrub walk (R136) -/

/-- The state a scrub step reads on, its cursor and its interval moved on. -/
def State.scrubbed (s : State) (next : RecRef) : State :=
  { s with cursor := next, scrubTimer := if s.timing.scrub = 0 then none else some s.timing.scrub.toNat }

theorem exec_scrubStep (s : State) : exec .scrubStep s = execScrubStep s := rfl

theorem execScrubStep_waiting (h : s.scrubTimer ≠ some 0) : execScrubStep s = .next s := if_pos h

theorem execScrubStep_plan {r next : RecRef} (h : s.scrubTimer = some 0) (hp : s.scrubPlan = (r, next)) :
    execScrubStep s = .next (scrubRead r (s.scrubbed next)).1.endEvent := by
  rw [execScrubStep, if_neg (not_not.mpr h), hp]; rfl

theorem scrubPlan_block {b : BlockId} (hc : s.cursor = .block b) (hb : b.val < 1023) :
    s.scrubPlan = (.block b, .block (b + 1)) := by
  have hne : b ≠ 1023 := fun e => absurd hb (by rw [e]; decide)
  rw [State.scrubPlan, hc]; exact congrArg (Prod.mk _) (if_neg hne)

theorem scrubPlan_vehicle {v : VehicleId} (hc : s.cursor = .vehicle v) (hv : v.val < 127) :
    s.scrubPlan = (.vehicle v, .vehicle (v + 1)) := by
  have hne : v ≠ 127 := fun e => absurd hv (by rw [e]; decide)
  rw [State.scrubPlan, hc]; exact congrArg (Prod.mk _) (if_neg hne)

theorem scrubPlan_order {o n : Slot} (hc : s.cursor = .order o) (hle : o ≤ n) (hn : s.order n ≠ none)
    (hfree : ∀ x : Slot, o ≤ x → x < n → s.order x = none) :
    s.scrubPlan = (.order n, if n = 255 then .block 0 else .order (n + 1)) := by
  have hfind : (s.liveSlots.find? fun n => decide (o ≤ n)) = some n := by
    refine find?_liveSlots hn (decide_eq_true hle) fun x hx hl => decide_eq_false fun hox => hl (hfree x hox hx)
  rw [State.scrubPlan, hc]; dsimp only; rw [hfind]

theorem scrubPlan_order_none {o : Slot} (hc : s.cursor = .order o) (hfree : ∀ x : Slot, o ≤ x → s.order x = none) :
    s.scrubPlan = (.block 0, .block 1) := by
  have hfind : (s.liveSlots.find? fun n => decide (o ≤ n)) = none :=
    find?_liveSlots_none fun x hl => decide_eq_false fun hox => hl (hfree x hox)
  rw [State.scrubPlan, hc]; dsimp only; rw [hfind]

/-- R136: the rows of the cursor's table. -/
theorem scrubPlan_rows {row : RecRef → RecRef → Prop} (h : ∀ r next, s.scrubPlan = (r, next) → row r next) :
    (∀ b : BlockId, s.cursor = .block b → b.val < 1023 → row (.block b) (.block (b + 1))) ∧
    (s.cursor = .block 1023 → row (.block 1023) (.vehicle 0)) ∧
    (∀ v : VehicleId, s.cursor = .vehicle v → v.val < 127 → row (.vehicle v) (.vehicle (v + 1))) ∧
    (s.cursor = .vehicle 127 → row (.vehicle 127) (.order 0)) ∧
    (∀ o n : Slot, s.cursor = .order o → o ≤ n → s.order n ≠ none →
      (∀ x : Slot, o ≤ x → x < n → s.order x = none) → n.val < 255 → row (.order n) (.order (n + 1))) ∧
    (∀ o : Slot, s.cursor = .order o → s.order 255 ≠ none → (∀ x : Slot, o ≤ x → x < 255 → s.order x = none) →
      row (.order 255) (.block 0)) ∧
    (∀ o : Slot, s.cursor = .order o → (∀ x : Slot, o ≤ x → s.order x = none) → row (.block 0) (.block 1)) := by
  refine ⟨fun b hc hb => h _ _ (scrubPlan_block hc hb), fun hc => h _ _ ?_, fun v hc hv => h _ _ (scrubPlan_vehicle hc hv),
    fun hc => h _ _ ?_, fun o n hc hle hn hfree hlt => h _ _ ?_, fun o hc hn hfree => h _ _ ?_,
    fun o hc hfree => h _ _ (scrubPlan_order_none hc hfree)⟩
  · rw [State.scrubPlan, hc]; rfl
  · rw [State.scrubPlan, hc]; rfl
  · have hne : n ≠ 255 := fun e => absurd hlt (by rw [e]; decide)
    rw [scrubPlan_order hc hle hn hfree, if_neg hne]
  · rw [scrubPlan_order hc (Fin.le_last o) hn hfree]; rfl

/-- Settles O53: the record a scrub step reads, by the cursor. -/
theorem scrubStep : Obligations.ScrubStep := by
  unfold Obligations.ScrubStep
  intro s
  refine ⟨execScrubStep_waiting,
    fun h => scrubPlan_rows (row := fun r next => exec .scrubStep s = .next (scrubRead r (s.scrubbed next)).1.endEvent)
      fun r next hp => execScrubStep_plan h hp,
    fun h hc => scrubPlan_rows (row := fun _ next => exec .scrubStep s = .next (s.scrubbed next).endEvent)
      fun r next hp => ?_⟩
  have hclean : (s.scrubbed next).clean = true := hc
  rw [exec_scrubStep, execScrubStep_plan h hp, scrubRead_clean r _ (clean_cleanAt hclean r)]

/-! ## Corrections (R133, R135) -/

theorem captureError_match (s : State) (r k f) : s.captureError r k f = { s with
    capture := match s.capture with
      | none => some ⟨r, k, f, s.fabClock, false⟩
      | some c => some { c with more := true } } := by
  unfold State.captureError; cases s.capture <;> rfl

theorem countCorrection_match (s : State) (r f) : s.countCorrection r f = { s with
    corrections := min 255 (s.corrections + 1)
    capture := match s.capture with
      | none => some ⟨r, .corrected, f, s.fabClock, false⟩
      | some c => some { c with more := true } } := captureError_match _ _ _ _

theorem toggle_nil (bit : Nat) : toggle bit [] = [bit] := rfl

theorem readWith_block_flipped (rd : Reader) (f : Finder) {b : BlockId} (bit : Nat) (h : (s.block b).flips = []) :
    State.readWith rd f (.block b) (s.setBlock b { s.block b with flips := [bit] }) =
      (s.countCorrection (.block b) f, false) := by
  have hrec : ({ s.block b with flips := [] } : BlockRec) = s.block b := by rw [← h]
  simp only [State.readWith, setBlock_same, List.cons_ne_nil, ↓reduceIte, checkBlock, List.length_singleton,
    setBlock_setBlock, hrec, setBlock_block]

theorem readWith_vehicle_flipped (rd : Reader) (f : Finder) {v : VehicleId} (bit : Nat) (h : (s.vehicle v).flips = []) :
    State.readWith rd f (.vehicle v) (s.setVehicle v { s.vehicle v with flips := [bit] }) =
      (s.countCorrection (.vehicle v) f, false) := by
  have hrec : ({ s.vehicle v with flips := [] } : VehicleRec) = s.vehicle v := by rw [← h]
  simp only [State.readWith, setVehicle_same, List.cons_ne_nil, ↓reduceIte, checkVehicle, List.length_singleton,
    setVehicle_setVehicle, hrec, setVehicle_self]

theorem readWith_order_flipped (rd : Reader) (f : Finder) {o : Slot} {r : OrderRec} (bit : Nat) (e : s.order o = some r)
    (h : r.flips = []) : State.readWith rd f (.order o) (s.setOrder o (some { r with flips := [bit] })) =
      (s.countCorrection (.order o) f, false) := by
  have hrec : ({ r with flips := [] } : OrderRec) = r := by rw [← h]
  simp only [State.readWith, setOrder_same, List.cons_ne_nil, ↓reduceIte, checkOrder, List.length_singleton,
    setOrder_setOrder, hrec, setOrder_self e]

/-- Settles O54: one flipped bit is corrected and written back, counted and captured. -/
theorem correctableErrorIsWrittenBack : Obligations.CorrectableErrorIsWrittenBack := by
  unfold Obligations.CorrectableErrorIsWrittenBack
  refine ⟨fun b bit s h => ⟨?_, ?_, ?_⟩, fun v bit s h => ⟨?_, ?_, ?_⟩, fun o r bit s e h => ⟨?_, ?_, ?_⟩,
    fun o bit s e => ?_⟩
  · show Host.Outcome.next (s.updBlock b _) = _
    rw [State.updBlock, h, toggle_nil]
  · rw [read_step, readWith_block_flipped _ _ bit h, countCorrection_match] <;> rfl
  · rw [scrubRead_step, readWith_block_flipped _ _ bit h, countCorrection_match] <;> rfl
  · show Host.Outcome.next (s.updVehicle v _) = _
    rw [State.updVehicle, h, toggle_nil]
  · rw [read_step, readWith_vehicle_flipped _ _ bit h, countCorrection_match] <;> rfl
  · rw [scrubRead_step, readWith_vehicle_flipped _ _ bit h, countCorrection_match] <;> rfl
  · show Host.Outcome.next (s.updOrder o _) = _
    rw [State.updOrder, e, Option.map_some, h, toggle_nil]
  · rw [read_step, readWith_order_flipped _ _ bit e h, countCorrection_match] <;> rfl
  · rw [scrubRead_step, readWith_order_flipped _ _ bit e h, countCorrection_match] <;> rfl
  · show Host.Outcome.next (s.updOrder o _) = _
    rw [State.updOrder, e, Option.map_none, setOrder_self e]

/-! ## Uncorrectable records (R134) -/

/-- R134: what comes before the repair of a record's table. -/
def State.found (s : State) (r : RecRef) (f : Finder) : State :=
  (s.captureError r .uncorrectable f).notifyIntegrity .record r f none

@[simp] theorem found_mode (s : State) (r f) : (s.found r f).mode = s.mode := by simp [State.found]
@[simp] theorem found_at_block (s : State) (r f b) : (s.found r f).block b = s.block b := by simp [State.found]
@[simp] theorem found_at_vehicle (s : State) (r f v) : (s.found r f).vehicle v = s.vehicle v := by simp [State.found]
@[simp] theorem found_at_order (s : State) (r f o) : (s.found r f).order o = s.order o := by simp [State.found]
@[simp] theorem found_at_static (s : State) (r f b) : (s.found r f).static b = s.static b := by simp [State.found]
@[simp] theorem found_idleSeq (s : State) (r f) : (s.found r f).idleSeq = s.idleSeq := by simp [State.found]
@[simp] theorem found_fabClock (s : State) (r f) : (s.found r f).fabClock = s.fabClock := by simp [State.found]

/-- The reader of a finder. -/
def Finder.reads : Finder → Reader
  | .access => read
  | .scrub => scrubRead

/-- The reads that a repair makes of other records (R142). -/
def nestedRead : Reader := readNested 1408 .access

theorem reads_step (f : Finder) (r : RecRef) (s : State) : f.reads r s = State.readWith nestedRead f r s := by
  cases f <;> rfl

theorem nestedRead_clean {s : State} {r : RecRef} (h : s.cleanAt r = true) : nestedRead r s = (s, false) :=
  readNested_clean 1407 .access r s h

theorem nestedRead_vehicle {v : VehicleId} (h : (s.vehicle v).flips = []) : nestedRead (.vehicle v) s = (s, false) :=
  nestedRead_clean (List.isEmpty_iff.mpr h)

theorem reads_block_damaged {f : Finder} {b : BlockId} (h : (s.block b).flips.length = 2) :
    f.reads (.block b) s = ((s.found (.block b) f).repairBlock nestedRead b, true) := by
  have e : (s.block b).flips ≠ [] := fun x => by simp [x] at h
  rw [reads_step]
  simp only [State.readWith, e, ↓reduceIte, checkBlock, h, State.repair, State.found]

theorem reads_vehicle_damaged {f : Finder} {v : VehicleId} (h : (s.vehicle v).flips.length = 2) :
    f.reads (.vehicle v) s = ((s.found (.vehicle v) f).repairVehicle nestedRead f v, true) := by
  have e : (s.vehicle v).flips ≠ [] := fun x => by simp [x] at h
  rw [reads_step]
  simp only [State.readWith, e, ↓reduceIte, checkVehicle, h, State.repair, State.found]

theorem reads_order_damaged {f : Finder} {o : Slot} {x : OrderRec} (hx : s.order o = some x) (h : x.flips.length = 2) :
    f.reads (.order o) s = ((s.found (.order o) f).repairOrder nestedRead o, true) := by
  have e : x.flips ≠ [] := fun x => by simp [x] at h
  rw [reads_step]
  simp only [State.readWith, hx, e, ↓reduceIte, checkOrder, h, State.repair, State.found]

/-! ## A damaged block (R137) -/

/-- R137: the wait of one vehicle ends, from the records as they stood. -/
def State.waitDropped (s : State) (b : BlockId) (t : State) (v : VehicleId) : State :=
  if (s.vehicle v).waitingOn = some b then
    (t.setVehicle v { s.vehicle v with waitingOn := none }).notifyOwner (s.vehicle v).owner
      (.waitCancelled v b .frozen (s.vehicle v).holds.length)
  else t

theorem dropWaitAt_eq {s t : State} {v : VehicleId} (b : BlockId) (h : t.vehicle v = s.vehicle v) :
    t.dropWaitAt b v = s.waitDropped b t v := by
  simp only [State.dropWaitAt, State.waitDropped, h]

theorem waitDropped_other (s t : State) (b : BlockId) {v w : VehicleId} (h : w ≠ v) :
    (s.waitDropped b t v).vehicle w = t.vehicle w := by
  unfold State.waitDropped
  split
  · rw [notifyOwner_at_vehicle, setVehicle_other _ _ h]
  · rfl

/-- R137: the waits of clean vehicles, each in its turn, are those of the records as they stood. -/
theorem dropWaits_clean {s : State} (b : BlockId) (hv : ∀ v, (s.vehicle v).flips = []) : ∀ (vs : List VehicleId) (t : State),
    vs.Nodup → (∀ v ∈ vs, t.vehicle v = s.vehicle v) →
    State.dropWaits nestedRead b vs t = vs.foldl (s.waitDropped b) t
  | [], _, _, _ => rfl
  | v :: vs, t, hn, ht => by
    obtain ⟨hnot, hnodup⟩ := List.nodup_cons.mp hn
    have hhead : t.vehicle v = s.vehicle v := ht v (List.mem_cons_self ..)
    have hclean : (t.vehicle v).flips = [] := hhead ▸ hv v
    rw [State.dropWaits, nestedRead_vehicle hclean, dropWaitAt_eq b hhead, List.foldl_cons]
    refine dropWaits_clean b hv vs _ hnodup fun w hw => ?_
    have hne : w ≠ v := fun e => hnot (e ▸ hw)
    rw [waitDropped_other s t b hne, ht w (List.mem_cons_of_mem _ hw)]

theorem repairBlock_clean {b : BlockId} (hv : ∀ v, (s.vehicle v).flips = []) : s.repairBlock nestedRead b =
    (List.finRange 128).foldl (s.waitDropped b) (s.setBlock b ⟨s.static b, .unknown, true, [], []⟩) := by
  have hfrozen : (s.updBlock b fun r => { r with fixed := s.static b, flips := [] }).updBlock b
      (fun r => { r with holder := .unknown, frozen := true, waiters := [] }) =
      s.setBlock b ⟨s.static b, .unknown, true, [], []⟩ := by
    simp only [State.updBlock, setBlock_same, setBlock_setBlock]
  unfold State.repairBlock State.freeze
  rw [hfrozen, allVehicles_eq]
  exact dropWaits_clean b hv _ _ (List.nodup_finRange 128) fun _ _ => rfl

/-- Settles O55: a damaged block comes back FROZEN, the waits at it ended. -/
theorem damagedBlockFreezes : Obligations.DamagedBlockFreezes := by
  unfold Obligations.DamagedBlockFreezes
  intro finder b s hb hv
  have e : finder.reads (.block b) s =
      ((List.finRange 128).foldl (s.waitDropped b)
        ((s.found (.block b) finder).setBlock b ⟨s.static b, .unknown, true, [], []⟩), true) := by
    have hsame : (s.found (.block b) finder).waitDropped b = s.waitDropped b := by
      funext t v; simp only [State.waitDropped, found_at_vehicle]
    rw [reads_block_damaged hb, repairBlock_clean (by simpa using hv), hsame, found_at_static]
  rw [State.found, captureError_match] at e
  cases finder <;> exact e

/-! ## A damaged order (R141) -/

/-- The order freed, every SCHEDULER link told. -/
def State.lostOrder (s : State) (o : Slot) : State :=
  (s.freeOrder o).notifyWhere (·.role = .scheduler) (.orderLost o s.fabClock)

@[simp] theorem lostOrder_at_vehicle (s : State) (o v) : (s.lostOrder o).vehicle v = s.vehicle v := rfl
@[simp] theorem lostOrder_idleSeq (s : State) (o) : (s.lostOrder o).idleSeq = s.idleSeq := rfl

theorem repairOrder_eq (s : State) (o : Slot) :
    s.repairOrder nestedRead o = State.releaseVehiclesOf nestedRead o allVehicles (s.lostOrder o) := by
  unfold State.repairOrder; exact congrArg (State.releaseVehiclesOf nestedRead o allVehicles) rfl

/-- R141 step 4: of clean vehicles one names the slot, and that one is moved. -/
theorem releaseVehiclesOf_one {o : Slot} {v : VehicleId} {t : State} (hv : ∀ w, (s.vehicle w).flips = [])
    (hone : ∀ w, (s.vehicle w).order = some o → w = v) (ht : State.releaseVehicleOf nestedRead o v s = t)
    (htv : ∀ w, (t.vehicle w).flips = []) (hto : ∀ w, (t.vehicle w).order ≠ some o) :
    ∀ vs : List VehicleId, v ∈ vs → State.releaseVehiclesOf nestedRead o vs s = t
  | w :: vs, hmem => by
    rw [State.releaseVehiclesOf, nestedRead_vehicle (hv w)]
    by_cases e : w = v
    · subst e
      rw [ht]
      exact releaseVehiclesOf_unnamed (fun w => nestedRead_vehicle (htv w)) hto vs
    · have hnot : (s.vehicle w).order ≠ some o := fun h => e (hone w h)
      have hsame : State.releaseVehicleOf nestedRead o w s = s := by simp [State.releaseVehicleOf, hnot]
      rw [hsame]
      exact releaseVehiclesOf_one hv hone ht htv hto vs ((List.mem_cons.mp hmem).resolve_left (Ne.symm e))

variable {o : Slot} {v : VehicleId}

/-- R141 step 4: the vehicle told, its order and its offer gone. -/
def State.orderTaken (s : State) (v : VehicleId) (o : Slot) : State :=
  (s.setVehicle v { s.vehicle v with order := none, offer := none }).noteWithdraw v o .integrity

@[simp] theorem orderTaken_vehicle (s : State) (v : VehicleId) (o : Slot) :
    (s.orderTaken v o).vehicle v = { s.vehicle v with order := none, offer := none } := by simp [State.orderTaken, State.noteWithdraw]

theorem orderTaken_other (s : State) (v : VehicleId) (o : Slot) {w : VehicleId} (h : w ≠ v) :
    (s.orderTaken v o).vehicle w = s.vehicle w := by
  simp [State.orderTaken, State.noteWithdraw, setVehicle_other _ _ h]

@[simp] theorem orderTaken_idleSeq (s : State) (v : VehicleId) (o : Slot) : (s.orderTaken v o).idleSeq = s.idleSeq := by
  simp [State.orderTaken, State.noteWithdraw]

theorem orderTaken_setVehicle (s : State) (v : VehicleId) (o : Slot) (r : VehicleRec) :
    (s.orderTaken v o).setVehicle v r = (s.notifyOwner (s.vehicle v).owner (.withdraw v o .integrity)).setVehicle v r := by
  unfold State.orderTaken State.noteWithdraw
  rw [setVehicle_same]
  cases (s.vehicle v).owner with
  | none => exact setVehicle_setVehicle s v _ r
  | some l => exact congrArg (State.notify · l _) (setVehicle_setVehicle s v _ r)

theorem releaseVehicleOf_named (ho : (s.vehicle v).order = some o) : State.releaseVehicleOf nestedRead o v s =
    match (s.vehicle v).state with
    | .offered =>
      (if (s.vehicle v).carrier = .none then ((s.orderTaken v o).enterIdle nestedRead v).1
        else (s.orderTaken v o).enterLoadedIdle v (s.vehicle v).carrier).noteVehicle v (s.vehicle v).state
    | .toSource => ((s.orderTaken v o).enterIdle nestedRead v).1.noteVehicle v (s.vehicle v).state
    | .toDest => ((s.orderTaken v o).enterLoadedIdle v (s.vehicle v).carrier).noteVehicle v (s.vehicle v).state
    | .stalled =>
      if (s.vehicle v).saved = some .toDest then
        (s.orderTaken v o).updVehicle v fun r => { r with saved := some .loadedIdle }
      else s.orderTaken v o
    | _ => s.orderTaken v o := by
  unfold State.releaseVehicleOf
  rw [if_pos ho]
  rfl

theorem releaseVehicleOf_idle (ho : (s.vehicle v).order = some o) (hseq : s.idleSeq ≠ counterTop)
    (hst : (s.vehicle v).state = .toSource ∨ ((s.vehicle v).state = .offered ∧ (s.vehicle v).carrier = .none)) :
    State.releaseVehicleOf nestedRead o v s =
      ((((s.orderTaken v o).setVehicle v
        (({ s.vehicle v with offer := none, order := none } : VehicleRec).idled (s.idleSeq + 1))).afterIdle
        (s.vehicle v).drain).noteVehicle v (s.vehicle v).state) := by
  have hseq' : (s.orderTaken v o).idleSeq ≠ counterTop := by rw [orderTaken_idleSeq]; exact hseq
  have henter : ((s.orderTaken v o).enterIdle nestedRead v).1 = _ :=
    congrArg Prod.fst (enterIdle_ready nestedRead v hseq')
  rw [orderTaken_vehicle, orderTaken_idleSeq] at henter
  rw [releaseVehicleOf_named ho]
  rcases hst with hs | ⟨hs, hc⟩
  · rw [hs]; exact congrArg (State.noteVehicle · v _) henter
  · rw [hs]; dsimp only; rw [if_pos hc]; exact congrArg (State.noteVehicle · v _) henter

theorem releaseVehicleOf_loaded (ho : (s.vehicle v).order = some o)
    (hst : (s.vehicle v).state = .toDest ∨ ((s.vehicle v).state = .offered ∧ (s.vehicle v).carrier ≠ .none)) :
    State.releaseVehicleOf nestedRead o v s =
      ((s.orderTaken v o).setVehicle v (({ s.vehicle v with offer := none, order := none } : VehicleRec).loaded
        (s.vehicle v).carrier)).setTrigger.noteVehicle v (s.vehicle v).state := by
  have henter := enterLoadedIdle_eq (s.orderTaken v o) v (s.vehicle v).carrier
  rw [orderTaken_vehicle] at henter
  rw [releaseVehicleOf_named ho]
  rcases hst with hs | ⟨hs, hc⟩
  · rw [hs]; exact congrArg (State.noteVehicle · v _) henter
  · rw [hs]; dsimp only; rw [if_neg hc]; exact congrArg (State.noteVehicle · v _) henter

theorem releaseVehicleOf_stalled (ho : (s.vehicle v).order = some o) (hst : (s.vehicle v).state = .stalled)
    (hsaved : (s.vehicle v).saved = some .toDest) : State.releaseVehicleOf nestedRead o v s =
      (s.orderTaken v o).setVehicle v { s.vehicle v with offer := none, order := none, saved := some .loadedIdle } := by
  rw [releaseVehicleOf_named ho, hst]
  dsimp only
  rw [if_pos hsaved]
  exact congrArg (fun r : VehicleRec => (s.orderTaken v o).setVehicle v { r with saved := some .loadedIdle })
    (orderTaken_vehicle s v o)

/-- R141: the one vehicle of a lost order is moved, every other record being clean. -/
theorem repairOrder_one {t : State} (hv : ∀ w, (s.vehicle w).flips = []) (hone : ∀ w, (s.vehicle w).order = some o → w = v)
    (ht : State.releaseVehicleOf nestedRead o v (s.lostOrder o) = t)
    (hself : (t.vehicle v).flips = [] ∧ (t.vehicle v).order = none) (hother : ∀ w, w ≠ v → t.vehicle w = s.vehicle w) :
    s.repairOrder nestedRead o = t := by
  rw [repairOrder_eq]
  refine releaseVehiclesOf_one (s := s.lostOrder o) hv hone ht (fun w => ?_) (fun w => ?_) _ (mem_allVehicles v)
  · by_cases e : w = v
    · rw [e]; exact hself.1
    · rw [hother w e]; exact hv w
  · by_cases e : w = v
    · rw [e, hself.2]; exact Option.some_ne_none o ∘ Eq.symm
    · rw [hother w e]; exact fun h => e (hone w h)

theorem repairOrder_unnamed (hv : ∀ w, (s.vehicle w).flips = []) (hnone : ∀ w, (s.vehicle w).order ≠ some o) :
    s.repairOrder nestedRead o = s.lostOrder o := by
  rw [repairOrder_eq]
  exact releaseVehiclesOf_unnamed (s := s.lostOrder o) (fun w => nestedRead_vehicle (hv w)) hnone allVehicles

theorem repairOrder_idle (hv : ∀ w, (s.vehicle w).flips = []) (ho : (s.vehicle v).order = some o)
    (hone : ∀ w, (s.vehicle w).order = some o → w = v) (hseq : s.idleSeq ≠ counterTop)
    (hst : (s.vehicle v).state = .toSource ∨ ((s.vehicle v).state = .offered ∧ (s.vehicle v).carrier = .none)) :
    s.repairOrder nestedRead o =
      (((((s.lostOrder o).notifyOwner (s.vehicle v).owner (.withdraw v o .integrity)).setVehicle v
        (({ s.vehicle v with offer := none, order := none } : VehicleRec).idled (s.idleSeq + 1))).afterIdle
        (s.vehicle v).drain).noteVehicle v (s.vehicle v).state) := by
  have hmoved := releaseVehicleOf_idle (s := s.lostOrder o) ho hseq hst
  rw [orderTaken_setVehicle] at hmoved
  refine repairOrder_one hv hone hmoved ?_ fun w hw => ?_
  · simp [hv]
  · simp [setVehicle_other _ _ hw]

theorem repairOrder_loaded (hv : ∀ w, (s.vehicle w).flips = []) (ho : (s.vehicle v).order = some o)
    (hone : ∀ w, (s.vehicle w).order = some o → w = v)
    (hst : (s.vehicle v).state = .toDest ∨ ((s.vehicle v).state = .offered ∧ (s.vehicle v).carrier ≠ .none)) :
    s.repairOrder nestedRead o =
      (((s.lostOrder o).notifyOwner (s.vehicle v).owner (.withdraw v o .integrity)).setVehicle v
        (({ s.vehicle v with offer := none, order := none } : VehicleRec).loaded
        (s.vehicle v).carrier)).setTrigger.noteVehicle v (s.vehicle v).state := by
  have hmoved := releaseVehicleOf_loaded (s := s.lostOrder o) ho hst
  rw [orderTaken_setVehicle] at hmoved
  refine repairOrder_one hv hone hmoved ?_ fun w hw => ?_
  · simp [VehicleRec.loaded, hv]
  · simp [setVehicle_other _ _ hw]

theorem repairOrder_stalled (hv : ∀ w, (s.vehicle w).flips = []) (ho : (s.vehicle v).order = some o)
    (hone : ∀ w, (s.vehicle w).order = some o → w = v) (hst : (s.vehicle v).state = .stalled)
    (hsaved : (s.vehicle v).saved = some .toDest) : s.repairOrder nestedRead o =
      ((s.lostOrder o).notifyOwner (s.vehicle v).owner (.withdraw v o .integrity)).setVehicle v
        { s.vehicle v with offer := none, order := none, saved := some .loadedIdle } := by
  have hmoved := releaseVehicleOf_stalled (s := s.lostOrder o) ho hst hsaved
  rw [orderTaken_setVehicle] at hmoved
  refine repairOrder_one hv hone hmoved ?_ fun w hw => ?_
  · simp [hv]
  · simp [setVehicle_other _ _ hw]

/-- Settles O57: a damaged order is freed, and its vehicle moves by its state. -/
theorem damagedOrderIsFreed : Obligations.DamagedOrderIsFreed := by
  unfold Obligations.DamagedOrderIsFreed
  intro finder o x s hx hflips hv
  have e := reads_order_damaged (f := finder) hx hflips
  generalize hf : s.found (.order o) finder = t at e
  have htv : ∀ w, t.vehicle w = s.vehicle w := fun w => by rw [← hf, found_at_vehicle]
  have hidle : t.idleSeq = s.idleSeq := by rw [← hf, found_idleSeq]
  have hclock : t.fabClock = s.fabClock := by rw [← hf, found_fabClock]
  have hclean : ∀ w, (t.vehicle w).flips = [] := fun w => htv w ▸ hv w
  have hread : ∀ u, t.repairOrder nestedRead o = u → (match finder with | .access => read | .scrub => scrubRead) (.order o) s =
      (u, true) := fun u hu => by rw [← hu, ← e]; cases finder <;> rfl
  have hfound : { s with capture := match s.capture with
        | none => some ⟨.order o, .uncorrectable, finder, s.fabClock, false⟩
        | some c => some { c with more := true } }.notifyIntegrity .record (.order o) finder none = t := by
    rw [← hf, State.found, captureError_match]
  dsimp only
  refine hfound ▸ ?_
  refine ⟨fun hnone => ?_, fun v ho hone => ⟨fun hst hseq => ?_, fun hst => ?_, fun hst hsaved => ?_⟩⟩
  · refine (hread _ (repairOrder_unnamed hclean fun w => htv w ▸ hnone w)).trans ?_
    rw [State.lostOrder, hclock]
  · refine (hread _ (repairOrder_idle (v := v) hclean (htv v ▸ ho) (fun w => htv w ▸ hone w) (hidle ▸ hseq)
      (htv v ▸ hst))).trans ?_
    rw [State.lostOrder, hclock, htv, hidle]
  · refine (hread _ (repairOrder_loaded (v := v) hclean (htv v ▸ ho) (fun w => htv w ▸ hone w) (htv v ▸ hst))).trans ?_
    rw [State.lostOrder, hclock, htv, State.setTrigger]
  · refine (hread _ (repairOrder_stalled (v := v) hclean (htv v ▸ ho) (fun w => htv w ▸ hone w) (htv v ▸ hst)
      (htv v ▸ hsaved))).trans ?_
    rw [State.lostOrder, hclock, htv]

end Sys2Proof.Machine
end

section
/-! The console's settings: fences, weights, the line rate and the clock (R49, R52 to R54, R148, R164). -/

namespace Sys2Proof.Machine

variable {s : State}

theorem below_eq_some {n k : Nat} {a : Fin n} (h : below n k = some a) : k = a.val := by
  unfold below at h
  split at h
  · exact congrArg Fin.val (Option.some.inj h)
  · cases h

/-! ## Fences (R52, R53, R54) -/

theorem fenced_iff (s : State) (b : BlockId) : s.fenced b = true ↔
    ∃ f, (s.fence f).active = true ∧ (s.fence f).first ≤ b ∧ b ≤ (s.fence f).last := by
  simp only [State.fenced, List.any_eq_true, Fence.covers, Bool.and_eq_true, decide_eq_true_eq, Vector.mem_toList_iff,
    Vector.mem_iff_getElem, State.fence]
  constructor
  · rintro ⟨x, ⟨i, hi, rfl⟩, ⟨ha, hf⟩, hl⟩
    exact ⟨⟨i, hi⟩, ha, hf, hl⟩
  · rintro ⟨f, ha, hf, hl⟩
    exact ⟨_, ⟨f.val, f.isLt, rfl⟩, ⟨ha, hf⟩, hl⟩

theorem moveFence_eq (s : State) (f : FenceId) (new : Fence) : s.moveFence f new =
    (s.setFence f new).askArbiters
      ((List.finRange 1024).filter fun b => (s.fence f).active && (s.fence f).first ≤ b && b ≤ (s.fence f).last) := by
  rw [State.moveFence, allBlocks_eq]; rfl

/-- Settles O47: which blocks are fenced, and SET_FENCE and CLEAR_FENCE whole. -/
theorem fences : Obligations.Fences := by
  unfold Obligations.Fences
  refine ⟨fenced_iff, fun h fence first last s hready => ?_⟩
  have sets {t : State} {a : Answer} (e : setFenceBody fence first last s = (t, a)) :
      exec (.setFence h fence first last) s = .next (t.answered h .setFence a.code a.fields) :=
    request_hunts (takes_of_ready hready rfl rfl) (setFenceBody_hunts _ _ _) e
  have clears {t : State} {a : Answer} (e : clearFenceBody fence s = (t, a)) :
      exec (.clearFence h fence) s = .next (t.answered h .clearFence a.code a.fields) :=
    request_hunts (takes_of_ready hready rfl rfl) (clearFenceBody_hunts _) e
  refine ⟨fun hout => sets (a := .plain .range) ?_, fun hout => clears (a := .plain .range) ?_, fun f hf => ⟨fun x y hx hy hle =>
    sets (a := ⟨.ok, (s.fence f).fields⟩) ?_, clears (a := ⟨.ok, (s.fence f).fields⟩) ?_⟩⟩
  · unfold setFenceBody
    cases hf : fence? fence with
    | none => rfl
    | some f =>
      cases hx : block? first with
      | none => rfl
      | some x =>
        cases hy : block? last with
        | none => rfl
        | some y =>
          have hf := below_eq_some hf; have hx := below_eq_some hx; have hy := below_eq_some hy
          have hlt : y < x := by rw [Fin.lt_def]; omega
          exact if_pos hlt
  · have e : fence? fence = none := below_eq_none hout
    rw [clearFenceBody, e, inRange_none]
  all_goals have hfence : fence? fence = some f := below_of_eq_val hf
  · have hfirst : block? first = some x := below_of_eq_val hx
    have hlast : block? last = some y := below_of_eq_val hy
    rw [setFenceBody, hfence, hfirst, hlast, inRange_some, inRange_some, inRange_some, if_neg (not_lt.mpr hle), moveFence_eq]
  · rw [clearFenceBody, hfence, inRange_some, moveFence_eq]

/-! ## THAW (R143) -/

theorem lister_eq_none {b : BlockId} (h : ∀ v, b ∉ (s.vehicle v).holds) : s.lister b = none := by
  rw [State.lister, allVehicles_eq]
  exact find?_finRange_none fun v => by simpa using h v

theorem lister_eq_some {b : BlockId} {v : VehicleId} (hv : b ∈ (s.vehicle v).holds)
    (hone : ∀ w, b ∈ (s.vehicle w).holds → w = v) : s.lister b = some v := by
  rw [State.lister, allVehicles_eq]
  refine find?_finRange (by simpa using hv) fun w hw => ?_
  have hnot : b ∉ (s.vehicle w).holds := fun h => absurd (hone w h) (ne_of_lt hw)
  simpa using hnot

theorem vehicleRefs_clean (h : ∀ v, (s.vehicle v).flips = []) : ∀ r ∈ vehicleRefs, s.cleanAt r = true := by
  intro r hr
  obtain ⟨v, -, rfl⟩ := List.mem_map.mp hr
  simp [State.cleanAt, h v]

theorem readVehicles_clean (h : s.clean = true) : readAll read vehicleRefs s = (s, false) :=
  readAll_clean s _ (vehicleRefs_clean (clean_vehicle h))

/-- R44: an arbiter asked about a block with no waiters does nothing. -/
theorem askArbiter_unwaited {b : BlockId} (hclean : (s.block b).flips = []) (hw : (s.block b).waiters = []) :
    s.askArbiter b = s := by
  unfold State.askArbiter State.arbitrate
  split
  · rfl
  · rw [readBlock_clean hclean]
    have hc : (s.block b).contested = false := by simp [BlockRec.contested, hw]
    simp [hc]

/-- R137: the end of the waits at a block leaves the blocks as they are. -/
theorem waitDropped_at_block (s t : State) (b x : BlockId) (v : VehicleId) :
    (s.waitDropped b t v).block x = t.block x := by
  unfold State.waitDropped
  split
  · simp
  · rfl

theorem foldl_waitDropped_at_block (s : State) (b x : BlockId) : ∀ (vs : List VehicleId) (t : State),
    (vs.foldl (s.waitDropped b) t).block x = t.block x
  | [], _ => rfl
  | v :: vs, t => (foldl_waitDropped_at_block s b x vs _).trans (waitDropped_at_block s t b x v)

/-- R137: a damaged block, once read, has its holder unknown. -/
theorem readBlock_damaged_holder {b : BlockId} (h : (s.block b).flips.length = 2) (hv : ∀ v, (s.vehicle v).flips = []) :
    ((s.readBlock b).1.block b).holder = .unknown := by
  have e := reads_block_damaged (f := .access) h
  rw [repairBlock_clean (by simpa using hv)] at e
  have e' : (s.readBlock b).1 = _ := congrArg Prod.fst e
  rw [e', foldl_waitDropped_at_block, setBlock_same]

/-- Settles O51: THAW of a FROZEN block with a lister and without, and of other blocks. -/
theorem thaw : Obligations.Thaw := by
  unfold Obligations.Thaw
  refine ⟨fun h block s b hready hb hflips hv => ?_, fun h block s b hready hb hclean => ?_⟩
  all_goals
    have answers {t : State} {a : Answer} (e : thawBody block s = (t, a)) :
        exec (.thaw h block) s = .next (t.answered h .thaw a.code a.fields) :=
      request_hunts (takes_of_ready hready rfl rfl) (thawBody_hunts _) e
    rw [thawBody, hb, inRange_some] at answers
  · refine answers (a := ⟨.integrity, _⟩) ?_
    have hbad := readBlock_damaged hflips
    dsimp only
    rw [if_pos hbad, readBlock_damaged_holder hflips hv]; rfl
  · rw [readBlock_clean (clean_block hclean b)] at answers
    dsimp only at answers
    refine ⟨fun hfrozen => answers (a := .plain .state) ?_, fun hfrozen hw hnone => answers (a := ⟨.ok, [0xFF]⟩) ?_,
      fun v hfrozen hv hone => answers (a := ⟨.ok, [.ofNat 8 v.val]⟩) ?_⟩
    · rw [hfrozen]; rfl
    all_goals
      rw [hfrozen, State.thaw, readVehicles_clean hclean]
      dsimp only
    · rw [lister_eq_none hnone]
      dsimp only
      rw [askArbiter_unwaited (b := b)]
      · rfl
      · rw [State.updBlock, setBlock_same]; exact clean_block hclean b
      · rw [State.updBlock, setBlock_same]; exact hw
    · rw [lister_eq_some hv hone]; rfl

end Sys2Proof.Machine
end

section
/-! Promotion (R101, R102), and the settings whose change has effects: timing, weights, the line rate, the clock. -/

namespace Sys2Proof.Machine

variable {s : State}

/-! ## Promotion (R101) -/

/-- R101: the record of an order one class up. -/
def OrderRec.promoted (now : Millis) (r : OrderRec) : OrderRec := { r with cls := r.cls.up, classEntry := now }

/-- R101: a promotion. -/
def State.promotedTo (s : State) (o : Slot) (r : OrderRec) : State :=
  ((s.leaveQueue o).queued o r).setTrigger.noteOrder o r .promoted none

/-- R89: an order written joins its class queue. -/
theorem enterQueue_setOrder (s : State) (o : Slot) (r : OrderRec) :
    (s.setOrder o (some r)).enterQueue o = s.queued o r := by
  unfold State.enterQueue
  rw [setOrder_same]
  rfl

theorem promote_eq {o : Slot} {r : OrderRec} (h : s.order o = some r) :
    s.promote o = s.promotedTo o (r.promoted s.msBase) := by
  unfold State.promote
  rw [h]
  dsimp only
  rw [enterQueue_setOrder]
  rfl

theorem Cls.up_eq (c : Cls) : c.up = match c with
    | .bulk => .standard
    | .standard => .express
    | _ => .hot := by cases c <;> rfl

theorem exec_promotion (o : Slot) (s : State) : exec (.promotion o) s = execPromotion o s := rfl

/-- Settles O41: the promotion of an order by time. -/
theorem promotion : Obligations.Promotion := by
  unfold Obligations.Promotion
  intro s o
  have due {r : OrderRec} (hr : s.order o = some r) (hst : r.state = .queued) (hpt : promoTime s.timing r.cls ≠ 0)
      (hdue : promoTime s.timing r.cls * 1000 ≤ (s.msBase - r.classEntry).toNat) :
      (s.order o).any s.promotionDue = true := by
    rw [hr]; exact (promotionDue_iff s r).mpr ⟨hst, hpt, hdue⟩
  refine ⟨fun r hr hflips hst hpt hdue => ?_, fun r hr hflips hst hpt hdue => ?_, fun hnot => ?_⟩
  · have hbad := readOrder_damaged hr hflips
    rw [exec_promotion, execPromotion, due hr hst hpt hdue]
    dsimp only
    rw [if_pos hbad]; rfl
  · rw [exec_promotion, execPromotion, due hr hst hpt hdue, readOrder_clean hr hflips]
    dsimp only
    rw [promote_eq hr, State.promotedTo, OrderRec.promoted, State.setTrigger, Cls.up_eq]
    rfl
  · have hno : (s.order o).any s.promotionDue = false := by
      cases hr : s.order o with
      | none => rfl
      | some r =>
        refine Bool.eq_false_iff.mpr fun h => ?_
        obtain ⟨hst, hpt, hdue⟩ := (promotionDue_iff s r).mp h
        rcases hnot r hr with h' | h' | h'
        · exact h' hst
        · exact hpt h'
        · exact absurd hdue (Nat.not_le.mpr h')
    rw [exec_promotion, execPromotion, hno]; rfl

/-! ## SET_TIMING (R149 to R152) -/

/-- R102: an order of a queue under promotion times just written. -/
def State.promotedWhenDue (t : Timing) (u : State) (o : Slot) : State :=
  match u.order o with
  | some r =>
    if r.state = .queued ∧ promoTime t r.cls ≠ 0 ∧ promoTime t r.cls * 1000 ≤ (u.msBase - r.classEntry).toNat then
      u.promotedTo o (r.promoted u.msBase)
    else u
  | none => u

/-- What the reads of SET_TIMING leave as they found it: no record damaged, and the settings. -/
structure Settled (t : Timing) (timer : Option Nat) (u : State) : Prop where
  clean : u.clean = true
  timing : u.timing = t
  scrubTimer : u.scrubTimer = timer

theorem clean_promotedTo {u : State} {o : Slot} {r : OrderRec} (h : u.clean = true) (hr : r.flips = []) :
    (u.promotedTo o r).clean = true := by
  have hset : (u.setOrder o (some r)).clean = true := clean_setOrder h o fun x e => Option.some.inj e ▸ hr
  exact clean_congr hset rfl rfl rfl

theorem Settled.promotedWhenDue {t : Timing} {timer : Option Nat} {u : State} (h : Settled t timer u) (o : Slot) :
    Settled t timer (u.promotedWhenDue t o) := by
  unfold State.promotedWhenDue
  split
  · next r hr =>
    split
    · have hflips : r.flips = [] := clean_order h.clean hr
      exact ⟨clean_promotedTo (r := r.promoted u.msBase) h.clean hflips, h.timing, h.scrubTimer⟩
    · exact h
  · exact h

theorem promoteIfDue_clean {t : Timing} {timer : Option Nat} {u : State} (h : Settled t timer u) (o : Slot) :
    u.promoteIfDue o = (u.promotedWhenDue t o, false) := by
  have hread : u.readOrder o = (u, false) := read_clean _ _ (clean_cleanAt h.clean _)
  unfold State.promoteIfDue State.promotedWhenDue
  rw [hread]
  dsimp only
  cases hr : u.order o with
  | none => rfl
  | some r =>
    rw [Option.any_some, promote_eq hr]
    simp only [promotionDue_iff, h.timing]

theorem promoteAllDue_clean {t : Timing} {timer : Option Nat} : ∀ (os : List Slot) {u : State}, Settled t timer u →
    State.promoteAllDue os u = (os.foldl (State.promotedWhenDue t) u, false) ∧
      Settled t timer (os.foldl (State.promotedWhenDue t) u)
  | [], _, h => ⟨rfl, h⟩
  | o :: os, u, h => by
    obtain ⟨e, hrest⟩ := promoteAllDue_clean os (h.promotedWhenDue o)
    refine ⟨?_, hrest⟩
    rw [State.promoteAllDue, promoteIfDue_clean h]
    dsimp only
    rw [e]; rfl

/-- R102: the promotions that a change of settings makes in one class. -/
def State.promotedClass (old new : Timing) (c : Cls) (u : State) : State :=
  if promoTime new c ≠ 0 ∧ (promoTime old c = 0 ∨ promoTime new c < promoTime old c) then
    (u.queues.get c).foldl (State.promotedWhenDue new) u
  else u

theorem lowered_iff (old new : Nat) : lowered old new = true ↔ new ≠ 0 ∧ (old = 0 ∨ new < old) := by
  simp [lowered]

theorem applyPromotion_clean {old new : Timing} {timer : Option Nat} {u : State} (h : Settled new timer u) (c : Cls) :
    u.applyPromotion old new c = (u.promotedClass old new c, false) ∧ Settled new timer (u.promotedClass old new c) := by
  unfold State.applyPromotion State.promotedClass
  simp only [lowered_iff]
  split
  · exact promoteAllDue_clean _ h
  · exact ⟨rfl, h⟩

theorem applySilence_clean {t : Timing} {timer : Option Nat} {u : State} (old new : Byte) (h : Settled t timer u) :
    u.applySilence old new = ({ u with vehicles := u.vehicles.map (VehicleRec.silenceChange old new) }, false) ∧
      Settled t timer { u with vehicles := u.vehicles.map (VehicleRec.silenceChange old new) } := by
  have hflips (r : VehicleRec) : (r.silenceChange old new).flips = r.flips := by
    unfold VehicleRec.silenceChange; split
    · rfl
    · split <;> rfl
  refine ⟨?_, clean_of (fun b => clean_block h.clean b) (fun v => ?_) (fun o r e => clean_order h.clean e), h.timing, h.scrubTimer⟩
  · unfold State.applySilence
    split
    · next hsame =>
      have hid : VehicleRec.silenceChange old new = id := by
        funext r
        have h1 : ¬(old ≠ 0 ∧ new = 0) := fun ⟨ho, hn⟩ => ho (hsame.mpr hn)
        have h2 : ¬(old = 0 ∧ new ≠ 0 ∧ r.state ≠ .offline ∧ r.state ≠ .stalled) := fun ⟨ho, hn, _⟩ => hn (hsame.mp ho)
        rw [VehicleRec.silenceChange, if_neg h1, if_neg h2]; rfl
      rw [hid, Vector.map_id]
    · rw [readVehicles_clean h.clean]
  · simpa [State.vehicle, hflips] using clean_vehicle h.clean v

theorem sameReach_iff (a b : Timing) : sameReach a b = true ↔
    a.reachHot = b.reachHot ∧ a.reachExpress = b.reachExpress ∧ a.reachStandard = b.reachStandard ∧
      a.reachBulk = b.reachBulk := by
  simp [sameReach, and_assoc]

/-- SET_TIMING before its last two effects, on a state with no damaged record. -/
def State.retimed (s : State) (t : Timing) : State :=
  State.promotedClass s.timing t .express (State.promotedClass s.timing t .standard (State.promotedClass s.timing t .bulk
    { s with timing := t, vehicles := s.vehicles.map (VehicleRec.silenceChange s.timing.silence t.silence) }))

theorem setTiming_clean {t : Timing} (h : s.clean = true) : s.setTiming t =
    ({ s.retimed t with
      trigger := (s.retimed t).trigger || !sameReach s.timing t
      scrubTimer := scrubChange s.timing.scrub t.scrub s.scrubTimer }, false) ∧ (s.retimed t).timing = t := by
  have h0 : Settled t s.scrubTimer { s with timing := t } := ⟨clean_congr h rfl rfl rfl, rfl, rfl⟩
  obtain ⟨e1, h1⟩ := applySilence_clean s.timing.silence t.silence h0
  obtain ⟨e2, h2⟩ := applyPromotion_clean (old := s.timing) (new := t) h1 .bulk
  obtain ⟨e3, h3⟩ := applyPromotion_clean (old := s.timing) (new := t) h2 .standard
  obtain ⟨e4, h4⟩ := applyPromotion_clean (old := s.timing) (new := t) h3 .express
  refine ⟨?_, h4.timing⟩
  unfold State.setTiming
  dsimp only
  rw [e1]; dsimp only
  rw [e2]; dsimp only
  rw [e3]; dsimp only
  rw [e4]; dsimp only
  cases hreach : sameReach s.timing t with
  | true =>
    simp only [if_true, h4.scrubTimer, Bool.or_false, Bool.not_true, State.retimed]
  | false =>
    simp only [Bool.false_eq_true, if_false, h4.scrubTimer, Bool.or_true, Bool.not_false, State.retimed, State.setTrigger, Bool.or_self]

theorem timingInRange_iff (t : Timing) : timingInRange t = true ↔ t.offer ≠ 0 ∧ t.aging ≠ 0 := by simp [timingInRange]

/-! ## SET_WEIGHTS, SET_LINK_RATE, SET_CLOCK and the fab clock -/

theorem weightsInRange_iff (w : Weights) : weightsInRange w = true ↔
    w.hot.toNat ≤ 200 ∧ w.express.toNat ≤ 200 ∧ w.standard.toNat ≤ 200 ∧ w.bulk.toNat ≤ 200 ∧ w.none.toNat ≤ 200 := by
  simp [weightsInRange, and_assoc]

theorem rate?_eq_none {b : Byte} (h : 5 ≤ b.toNat) : rate? b = none := by
  unfold rate?
  split
  any_goals omega
  rfl

/-- SET_TIMING as the statement of O49 writes it. -/
theorem setTiming_answers {h : Hdr} {t : Timing} (hready : s.ready h .service) (ho : t.offer ≠ 0) (ha : t.aging ≠ 0)
    (hclean : s.clean = true) : exec (.setTiming h t) s =
      .next ({ s.retimed t with
        trigger := (s.retimed t).trigger || !sameReach s.timing t
        scrubTimer := scrubChange s.timing.scrub t.scrub s.scrubTimer }.answered h .setTiming .ok s.timing.bytes) := by
  refine request_hunts (body := setTimingBody t) (a := ⟨.ok, s.timing.bytes⟩) (takes_of_ready hready rfl rfl)
    (setTimingBody_hunts t) ?_
  rw [setTimingBody, (timingInRange_iff t).mpr ⟨ho, ha⟩, (setTiming_clean hclean).1]; rfl

theorem setTiming_range {h : Hdr} {t : Timing} (hready : s.ready h .service) (hout : t.offer = 0 ∨ t.aging = 0) :
    exec (.setTiming h t) s = .next (s.answered h .setTiming .range []) := by
  refine request_hunts (body := setTimingBody t) (a := .plain .range) (takes_of_ready hready rfl rfl)
    (setTimingBody_hunts t) ?_
  have e : timingInRange t = false := by
    refine Bool.eq_false_iff.mpr fun hin => ?_
    obtain ⟨ho, ha⟩ := (timingInRange_iff t).mp hin
    exact hout.elim ho ha
  rw [setTimingBody, e]; rfl

theorem setWeights_answers {h : Hdr} {w : Weights} (hready : s.ready h .service) :
    (weightsInRange w = false → exec (.setWeights h w) s = .next (s.answered h .setWeights .range [])) ∧
    (weightsInRange w = true →
      exec (.setWeights h w) s = .next ({ s with weights := w }.answered h .setWeights .ok w.bytes)) := by
  have answers {t : State} {a : Answer} (e : setWeightsBody w s = (t, a)) :
      exec (.setWeights h w) s = .next (t.answered h .setWeights a.code a.fields) :=
    request_hunts (takes_of_ready hready rfl rfl) (setWeightsBody_hunts w) e
  refine ⟨fun hout => answers (a := .plain .range) ?_, fun hin => answers (a := ⟨.ok, w.bytes⟩) ?_⟩
  · rw [setWeightsBody, hout]; rfl
  · rw [setWeightsBody, hin]; rfl

theorem setLinkRate_answers {h : Hdr} {link rate : Byte} (hready : s.ready h .service) :
    (6 ≤ link.toNat ∨ 5 ≤ rate.toNat → exec (.setLinkRate h link rate) s = .next (s.answered h .setLinkRate .range [])) ∧
    ∀ (l : LinkId) (r : Rate), link.toNat = l.val → rate? rate = some r → exec (.setLinkRate h link rate) s =
      .next ((s.setLink h.link { s.link h.link with pendingRate := some (l, r) }).answered h .setLinkRate .ok
        [.ofNat 8 l.val, (s.link l).rate.code]) := by
  have answers {t : State} {a : Answer} (e : setLinkRateBody h.link link rate s = (t, a)) :
      exec (.setLinkRate h link rate) s = .next (t.answered h .setLinkRate a.code a.fields) :=
    request_hunts (takes_of_ready hready rfl rfl) (setLinkRateBody_hunts _ _ _) e
  refine ⟨fun hout => answers (a := .plain .range) ?_, fun l r hl hr =>
    answers (a := ⟨.ok, [.ofNat 8 l.val, (s.link l).rate.code]⟩) ?_⟩
  · unfold setLinkRateBody
    rcases hout with hl | hr
    · have e : link? link = none := below_eq_none hl
      rw [e, inRange_none]
    · rw [rate?_eq_none hr]; cases link? link <;> rfl
  · have e : link? link = some l := below_of_eq_val hl
    rw [setLinkRateBody, e, hr, inRange_some, inRange_some]; rfl

theorem setClock_answers {h : Hdr} {w : Word} (hfree : s.free h)
    (hrole : (s.link h.link).role = .scheduler ∨ (s.link h.link).role = .service) : exec (.setClock h w) s =
      .next ({ s with fabClock := w, divider := 0 }.answered h .setClock .ok (bytes4 s.fabClock)) := by
  obtain ⟨-, hfits, hslot⟩ := hfree
  have ht : s.takes h .setClock := by
    rcases hrole with hr | hr <;> exact takes_of_ready ⟨hr, hfits, hslot⟩ rfl rfl
  exact request_hunts (a := ⟨.ok, bytes4 s.fabClock⟩) ht (setClockBody_hunts w) rfl

theorem exec_fabClockAdvance (s : State) : exec .fabClockAdvance s = execFabClockAdvance s := rfl

/-- Settles O49: the settings and the fab clock. -/
theorem weightsRateAndClock : Obligations.WeightsRateAndClock := by
  unfold Obligations.WeightsRateAndClock
  refine ⟨fun h t s hready => ⟨setTiming_range hready, fun ho ha hclean => ?_⟩, fun h w s hready => ⟨fun hout => ?_,
    fun h1 h2 h3 h4 h5 => ?_⟩, fun h link rate s hready => setLinkRate_answers hready,
    fun h w s hfree hrole => setClock_answers hfree hrole, fun s => ⟨fun hd => ?_, fun hd => ?_⟩⟩
  · refine (setTiming_answers hready ho ha hclean).trans ?_
    have hreach : (!sameReach s.timing t) = decide (¬(s.timing.reachHot = t.reachHot ∧ s.timing.reachExpress = t.reachExpress ∧
        s.timing.reachStandard = t.reachStandard ∧ s.timing.reachBulk = t.reachBulk)) := by
      rw [decide_not, ← Bool.decide_coe (sameReach s.timing t)]
      simp only [sameReach_iff]
    rw [hreach]; rfl
  · refine (setWeights_answers hready).1 (Bool.eq_false_iff.mpr fun hin => ?_)
    have hin := (weightsInRange_iff w).mp hin
    omega
  · exact (setWeights_answers hready).2 ((weightsInRange_iff w).mpr ⟨h1, h2, h3, h4, h5⟩)
  · rw [exec_fabClockAdvance, execFabClockAdvance, if_neg (not_not.mpr hd)]; rfl
  · rw [exec_fabClockAdvance, execFabClockAdvance, if_pos hd]

end Sys2Proof.Machine
end

section
/-! WRITE_BLOCKS (R5). -/

namespace Sys2Proof.Machine

variable {s : State}

/-- R5: one record of WRITE_BLOCKS, with the damage met so far. -/
def blockWritten (t : State × Bool) (x : BlockId × BlockStatic) : State × Bool :=
  let u := read (.block x.1) t.1
  ({ u.1 with
    map := u.1.map.set x.1.val x.2
    blocks := u.1.blocks.set x.1.val { u.1.block x.1 with fixed := x.2, flips := [] } }, t.2 || u.2)

theorem foldl_blockWritten : ∀ (rs : List (BlockId × BlockStatic)) (s : State) (bad : Bool),
    rs.foldl blockWritten (s, bad) = ((State.writeBlocks rs s).1, bad || (State.writeBlocks rs s).2)
  | [], s, bad => by rw [List.foldl_nil, State.writeBlocks, Bool.or_false]
  | (b, x) :: rs, s, bad => by
    have hhead : blockWritten (s, bad) (b, x) = ((s.writeBlock b x).1, bad || (s.writeBlock b x).2) := rfl
    rw [List.foldl_cons, hhead, foldl_blockWritten rs, State.writeBlocks, Bool.or_assoc]

/-- R5: what the records change when no record written is damaged. -/
def State.blocksWritten (s : State) (rs : List (BlockId × BlockStatic)) : State :=
  { s with
    map := rs.foldl (fun (m : Vector BlockStatic 1024) (x : BlockId × BlockStatic) => m.set x.1.val x.2) s.map
    blocks := rs.foldl (fun (bs : Vector BlockRec 1024) (x : BlockId × BlockStatic) =>
      bs.set x.1.val { bs[x.1.val] with fixed := x.2 }) s.blocks }

theorem writeBlock_clean {b : BlockId} {x : BlockStatic} (h : (s.block b).flips = []) :
    s.writeBlock b x = (s.blocksWritten [(b, x)], false) := by
  have hrec : ({ s.block b with fixed := x, flips := [] } : BlockRec) = { s.block b with fixed := x } := by rw [← h]
  unfold State.writeBlock
  rw [readBlock_clean h]
  dsimp only
  exact congrArg (fun r => (({ s with map := s.map.set b.val x } : State).setBlock b r, false)) hrec

theorem writeBlocks_clean : ∀ (rs : List (BlockId × BlockStatic)) (s : State), (∀ x ∈ rs, (s.block x.1).flips = []) →
    State.writeBlocks rs s = (s.blocksWritten rs, false)
  | [], _, _ => rfl
  | (b, x) :: rs, s, h => by
    have hrest : ∀ y ∈ rs, ((s.blocksWritten [(b, x)]).block y.1).flips = [] := fun y hy => by
      have hread := setBlock_read s b y.1 { s.block b with fixed := x }
      have e : (s.blocksWritten [(b, x)]).block y.1 = (s.setBlock b { s.block b with fixed := x }).block y.1 := rfl
      rw [e, hread]
      split
      · exact h (b, x) (List.mem_cons_self ..)
      · exact h y (List.mem_cons_of_mem _ hy)
    rw [State.writeBlocks, writeBlock_clean (h (b, x) (List.mem_cons_self ..))]
    dsimp only
    rw [writeBlocks_clean rs _ hrest]
    rfl

/-- Settles O42: WRITE_BLOCKS whole. -/
theorem writeBlocks : Obligations.WriteBlocks := by
  unfold Obligations.WriteBlocks
  intro h records s hready hmode
  have answers {t : State} {a : Answer} (e : writeBlocksBody records s = (t, a)) :
      exec (.writeBlocks h records) s = .next (t.answered h .writeBlocks a.code a.fields) :=
    request_hunts (takes_of_ready hready rfl (by rw [hmode]; rfl)) (writeBlocksBody_hunts _) e
  have writes {rs : List (BlockId × BlockStatic)} (hne : records ≠ []) (hlen : records.length ≤ 16)
      (hrs : records.mapM blockRecord? = some rs) : writeBlocksBody records s =
        ({ (State.writeBlocks rs s).1 with committed := false },
          ⟨okOr (State.writeBlocks rs s).2, [.ofNat 8 rs.length]⟩) := by
    rw [writeBlocksBody, if_neg (not_or.mpr ⟨hne, Nat.not_lt.mpr hlen⟩), hrs]; rfl
  refine ⟨fun hout => answers (a := .plain .range) ?_, fun rs hne hlen hrs hclean => ?_, fun rs hne hlen hrs => ?_⟩
  · unfold writeBlocksBody
    split
    · rfl
    · next hin =>
      obtain ⟨hne, hlen⟩ := not_or.mp hin
      obtain ⟨r, hr, hnone⟩ := (hout.resolve_left hne).resolve_left hlen
      rw [mapM_eq_none_of_mem hnone hr, inRange_none]
  · refine answers (a := ⟨.ok, [.ofNat 8 rs.length]⟩) ((writes hne hlen hrs).trans ?_)
    rw [writeBlocks_clean rs s hclean]; rfl
  · refine (answers (writes hne hlen hrs)).trans ?_
    have e := foldl_blockWritten rs s false
    rw [Bool.false_or] at e
    rw [← Prod.eta (State.writeBlocks rs s), ← e]
    rfl

end Sys2Proof.Machine
end

section
/-! COMMIT_MAP (R9, R10). -/

namespace Sys2Proof.Machine

variable {s : State}

theorem findSome?_finRange {n : Nat} {α : Type} {f : Fin n → Option α} {a : Fin n} {x : α} (ha : f a = some x)
    (hlt : ∀ y, y < a → f y = none) : (List.finRange n).findSome? f = some x := by
  refine List.findSome?_eq_some_iff.mpr ⟨(List.finRange n).take a, a, (List.finRange n).drop (a + 1), ?_, ha, fun y hy => ?_⟩
  · conv_lhs => rw [← List.take_append_drop a.val (List.finRange n)]
    rw [List.drop_eq_getElem_cons (by simp)]
    simp
  · obtain ⟨i, hi, rfl⟩ := List.mem_take_iff_getElem.mp hy
    refine hlt _ ?_
    rw [Fin.lt_def]
    simp at hi ⊢
    omega

/-! ## The checks (R9) -/

theorem successorsFit_iff (b : BlockId) : s.successorsFit b = true ↔ ∀ x ∈ (s.static b).succs, s.used x = true ∧ x ≠ b := by
  simp [State.successorsFit]

theorem countFits_iff (x : BlockStatic) : x.countFits = true ↔
    if x.kind = .diverge then ∃ a b, x.succs = [a, b] ∧ a ≠ b else ∃ a, x.succs = [a] := by
  obtain ⟨kind, bay, succs, port⟩ := x
  unfold BlockStatic.countFits
  dsimp only
  match succs with
  | [] => cases kind <;> simp
  | [a] => cases kind <;> simp
  | [a, b] => cases kind <;> simp
  | a :: b :: c :: rest => cases kind <;> simp

theorem predecessorsFit_iff (b : BlockId) : s.predecessorsFit b = true ↔
    (allBlocks.filter fun x => s.used x && (s.static x).succs.contains b).length =
      if (s.static b).kind = .merge then 2 else 1 := by
  simp [State.predecessorsFit, State.predecessorCount]

theorem portFits_iff (b : BlockId) : s.portFits b = true ↔
    ((s.static b).kind = .port → ∃ p, (s.static b).port = some p ∧ (s.port p).block = some b) := by
  simp only [State.portFits, Bool.or_eq_true, decide_eq_true_eq, Option.any_eq_true, imp_iff_not_or]
  exact .rfl

theorem portFault_none_iff (p : PortId) : s.portFault p = none ↔
    ∀ b, (s.port p).block = some b → (s.static b).kind = .port ∧ (s.static b).port = some p := by
  unfold State.portFault
  cases hb : s.portBlock p with
  | none => simp [State.portBlock] at hb; simp [hb]
  | some b => simp [State.portBlock] at hb; simp [hb]

theorem bayInUse_iff (a : BayId) : s.bayInUse a = true ↔ ∃ b, s.used b = true ∧ (s.static b).bay = a := by
  simp [State.bayInUse]

theorem bayOwned_iff (a : BayId) : s.bayOwned a = true ↔ ∃ l, (s.bay a).owner = some l ∧ (s.link l).role = .bay := by
  simp [State.bayOwned, Option.any_eq_true]

/-- R9: the checks of one block. -/
def State.blockOk (s : State) (b : BlockId) : Prop :=
  s.successorsFit b = true ∧ (s.static b).countFits = true ∧ s.predecessorsFit b = true ∧ s.portFits b = true

/-- R9: the checks of one bay. -/
def State.bayOk (s : State) (a : BayId) : Prop :=
  (s.bayInUse a = true → s.bayOwned a = true) ∧ (s.bay a).row[a.val] = 0

theorem blockFault_none {b : BlockId} (h : s.used b = true → s.blockOk b) : s.blockFault b = none := by
  unfold State.blockFault
  cases hu : s.used b with
  | false => rfl
  | true =>
    obtain ⟨h1, h2, h3, h4⟩ := h hu
    simp [h1, h2, h3, h4]

theorem bayFault_none {a : BayId} (h : s.bayOk a) : s.bayFault a = none := by
  obtain ⟨howned, hself⟩ := h
  unfold State.bayFault
  have h1 : ¬(s.bayInUse a = true ∧ (!s.bayOwned a) = true) := fun ⟨hu, ho⟩ => by simp [howned hu] at ho
  rw [if_neg h1, if_neg (not_not.mpr hself)]

/-! ## The first failure (R9) -/

theorem mapFault_none (hb : ∀ b, s.used b = true → s.blockOk b) (hp : ∀ p, s.portFault p = none) (ha : ∀ a, s.bayOk a) :
    s.mapFault = none := by
  have h1 : allBlocks.findSome? s.blockFault = none := List.findSome?_eq_none_iff.mpr fun b _ => blockFault_none (hb b)
  have h2 : (List.finRange 192).findSome? s.portFault = none := List.findSome?_eq_none_iff.mpr fun p _ => hp p
  have h3 : (List.finRange 32).findSome? s.bayFault = none := List.findSome?_eq_none_iff.mpr fun a _ => bayFault_none (ha a)
  rw [State.mapFault, h1, h2, h3]; rfl

theorem mapFault_block {b : BlockId} {f : MapFault} (hlt : ∀ x, x < b → s.used x = true → s.blockOk x)
    (h : s.blockFault b = some f) : s.mapFault = some f := by
  have h1 : allBlocks.findSome? s.blockFault = some f := by
    rw [allBlocks_eq]; exact findSome?_finRange h fun x hx => blockFault_none (hlt x hx)
  rw [State.mapFault, h1]; rfl

theorem mapFault_port {p : PortId} {f : MapFault} (hb : ∀ b, s.used b = true → s.blockOk b)
    (hlt : ∀ q, q < p → s.portFault q = none) (h : s.portFault p = some f) : s.mapFault = some f := by
  have h1 : allBlocks.findSome? s.blockFault = none := List.findSome?_eq_none_iff.mpr fun b _ => blockFault_none (hb b)
  have h2 : (List.finRange 192).findSome? s.portFault = some f := findSome?_finRange h hlt
  rw [State.mapFault, h1, h2]; rfl

theorem mapFault_bay {a : BayId} {f : MapFault} (hb : ∀ b, s.used b = true → s.blockOk b) (hp : ∀ p, s.portFault p = none)
    (hlt : ∀ x, x < a → s.bayOk x) (h : s.bayFault a = some f) : s.mapFault = some f := by
  have h1 : allBlocks.findSome? s.blockFault = none := List.findSome?_eq_none_iff.mpr fun b _ => blockFault_none (hb b)
  have h2 : (List.finRange 192).findSome? s.portFault = none := List.findSome?_eq_none_iff.mpr fun p _ => hp p
  have h3 : (List.finRange 32).findSome? s.bayFault = some f := findSome?_finRange h fun x hx => bayFault_none (hlt x hx)
  rw [State.mapFault, h1, h2, h3]; rfl

theorem portFault_some {p : PortId} (h : s.portFault p ≠ none) : s.portFault p = some ⟨.port, p.val, .portOrphan⟩ := by
  unfold State.portFault at h ⊢
  split
  · next e => rw [e] at h; exact absurd rfl h
  · next b e =>
    rw [e] at h
    dsimp only at h
    by_cases hc : (s.static b).kind = .port ∧ (s.static b).port = some p
    · rw [if_pos hc] at h; exact absurd rfl h
    · rw [if_neg hc]

/-- Settles O44: COMMIT_MAP whole. -/
theorem commitMap : Obligations.CommitMap := by
  unfold Obligations.CommitMap
  intro h s hready hmode
  have ht : s.takes h .commitMap := takes_of_ready hready rfl (by rw [hmode]; rfl)
  have fails {f : MapFault} (e : s.mapFault = some f) : exec (.commitMap h) s =
      .next (s.answered h .commitMap .invalidMap ([f.object.code] ++ Enc.num2 f.number ++ [f.reason.code])) :=
    request_hunts (body := commitMapBody) (a := ⟨.invalidMap, [f.object.code] ++ Enc.num2 f.number ++ [f.reason.code]⟩) ht commitMapBody_hunts
      (by rw [commitMapBody, e])
  have commits (e : s.mapFault = none) : exec (.commitMap h) s =
      .next (({ s with committed := true, mode := .run }.notifyMode .setup .commit).answered h .commitMap .ok []) := by
    refine request_hunts (body := commitMapBody) (a := .plain .ok) ht commitMapBody_hunts ?_
    rw [commitMapBody, e, ← hmode]; rfl
  dsimp only
  simp only [← successorsFit_iff, ← countFits_iff, ← predecessorsFit_iff, ← portFits_iff, ← portFault_none_iff, ← bayInUse_iff, ← bayOwned_iff]
  refine ⟨fun hb hp ha => commits (mapFault_none hb hp ha), fun b hu hlt => ⟨fun h1 => ?_, fun h1 h2 => ?_, fun h1 h2 h3 => ?_,
    fun h1 h2 h3 h4 => ?_⟩, fun p hb hp hlt => fails (mapFault_port hb hlt (portFault_some hp)),
    fun a hb hp hlt => ⟨fun hno => ?_, fun ho hself => ?_⟩⟩
  · exact fails (mapFault_block (f := ⟨.block, b.val, .badSuccessor⟩) hlt (by simp [State.blockFault, hu, h1]))
  · exact fails (mapFault_block (f := ⟨.block, b.val, .successorCount⟩) hlt (by simp [State.blockFault, hu, h1, h2]))
  · exact fails (mapFault_block (f := ⟨.block, b.val, .predecessorCount⟩) hlt (by simp [State.blockFault, hu, h1, h2, h3]))
  · exact fails (mapFault_block (f := ⟨.block, b.val, .portMismatch⟩) hlt (by simp [State.blockFault, hu, h1, h2, h3, h4]))
  · exact fails (mapFault_bay (f := ⟨.bay, a.val, .noBayOwner⟩) hb hp hlt (by
      obtain ⟨hu, ho⟩ := Classical.not_imp.mp hno
      simp [State.bayFault, hu, ho]))
  · exact fails (mapFault_bay (f := ⟨.bay, a.val, .distanceSelf⟩) hb hp hlt (by
      have hnot : ¬(s.bayInUse a = true ∧ (!s.bayOwned a) = true) := fun ⟨hu, hn⟩ => by simp [ho hu] at hn
      rw [State.bayFault, if_neg hnot, if_pos hself]))

end Sys2Proof.Machine
end

section
/-! REOPEN_MAP, HALT, RESUME and SOFT_RESET (R12 to R16). -/

namespace Sys2Proof.Machine

variable {s : State}

/-! ## The roster (R138, log entry 11) -/

theorem readUntilBad_first {r : RecRef} (h : (read r s).2 = true) : ∀ (before after : List RecRef),
    (∀ x ∈ before, s.cleanAt x = true) → readUntilBad read (before ++ r :: after) s = ((read r s).1, true)
  | [], after, _ => by rw [List.nil_append, readUntilBad]; dsimp only; rw [if_pos h]
  | x :: before, after, hclean => by
    have hx := read_clean x s (hclean x (List.mem_cons_self ..))
    rw [List.cons_append, readUntilBad, hx]
    exact readUntilBad_first h before after fun y hy => hclean y (List.mem_cons_of_mem _ hy)

theorem vehicleRefs_split (v : VehicleId) : ∃ before after, vehicleRefs = before ++ .vehicle v :: after ∧
    ∀ x ∈ before, ∃ w, w < v ∧ x = .vehicle w := by
  refine ⟨((List.finRange 128).take v.val).map .vehicle, ((List.finRange 128).drop (v.val + 1)).map .vehicle, ?_, ?_⟩
  · have e : (List.finRange 128).drop v.val = v :: (List.finRange 128).drop (v.val + 1) := by
      rw [List.drop_eq_getElem_cons (by simp)]; simp
    rw [vehicleRefs, allVehicles_eq, ← List.map_cons, ← List.map_append, ← e, List.take_append_drop]
  · intro x hx
    obtain ⟨w, hw, rfl⟩ := List.mem_map.mp hx
    obtain ⟨i, hi, rfl⟩ := List.mem_take_iff_getElem.mp hw
    refine ⟨_, ?_, rfl⟩
    rw [Fin.lt_def]
    simp at hi ⊢
    omega

theorem readVehicles_first {v : VehicleId} (h : (s.vehicle v).flips.length = 2) (hlt : ∀ w, w < v → (s.vehicle w).flips = []) :
    readUntilBad read vehicleRefs s = ((read (.vehicle v) s).1, true) := by
  obtain ⟨before, after, e, hbefore⟩ := vehicleRefs_split v
  rw [e]
  refine readUntilBad_first (readVehicle_damaged h) before after fun x hx => ?_
  obtain ⟨w, hw, rfl⟩ := hbefore x hx
  simp [State.cleanAt, hlt w hw]

theorem readVehiclesUntilBad_clean (h : ∀ v, (s.vehicle v).flips = []) : readUntilBad read vehicleRefs s = (s, false) :=
  readUntilBad_clean s _ (vehicleRefs_clean h)

theorem withRoster_damaged {v : VehicleId} (h : (s.vehicle v).flips.length = 2)
    (hlt : ∀ w, w < v → (s.vehicle w).flips = []) (go : State → State × Answer) :
    s.withRoster go = ((read (.vehicle v) s).1, .plain .integrity) := by
  rw [State.withRoster, readVehicles_first h hlt]; rfl

theorem withRoster_clean (h : s.clean = true) (go : State → State × Answer) : s.withRoster go = go s := by
  rw [State.withRoster, readVehiclesUntilBad_clean (clean_vehicle h)]; rfl

theorem anyInService_iff : s.anyInService = true ↔ ∃ v, (s.vehicle v).state ≠ .offline := by simp [State.anyInService]

theorem liveSlots_ne_nil_iff : s.liveSlots ≠ [] ↔ ∃ o, s.order o ≠ none := by
  rw [ne_eq, List.eq_nil_iff_forall_not_mem]
  simp [Option.ne_none_iff_isSome]

/-! ## REOPEN_MAP, HALT and RESUME -/

theorem notifyMode_link (s : State) (m : Mode) (cause : ModeCause) (l : LinkId) : (s.notifyMode m cause).link l =
    ((s.link l).enqueue (.mode m s.mode cause)).attend .modeChanged := mapLinks_link s _ l

theorem resume_eq (s : State) : s.resume =
    { { s with mode := .run }.askArbiters (List.finRange 1024) with trigger := true }.notifyMode .halted .resume := by
  rw [State.resume, allBlocks_eq]; rfl

/-- Settles O45: REOPEN_MAP, HALT and RESUME whole. -/
theorem modeRequests : Obligations.ModeRequests := by
  unfold Obligations.ModeRequests
  intro h s hready hmode
  have hrunning : s.mode = .run ∨ s.mode = .halted := by cases e : s.mode <;> simp [e] at hmode ⊢
  have takes {kind : ReqKind} (hp : ReqKind.permits kind .service = true) (hrun : ReqKind.allowedIn kind .run = true)
      (hhalt : ReqKind.allowedIn kind .halted = true) : s.takes h kind := by
    refine takes_of_ready hready hp ?_
    rcases hrunning with e | e <;> rw [e] <;> assumption
  have reopens {t : State} {a : Answer} (e : reopenMapBody s = (t, a)) :
      exec (.reopenMap h) s = .next (t.answered h .reopenMap a.code a.fields) :=
    request_hunts (takes rfl rfl rfl) reopenMapBody_hunts e
  have halts {t : State} (e : (if s.mode = .run then s.changeMode .halted .halt else s) = t) :
      exec (.halt h) s = .next (t.answered h .halt .ok []) :=
    request_hunts (a := .plain .ok) (takes rfl rfl rfl) haltBody_hunts (by subst e; rfl)
  have resumes {t : State} (e : (if s.mode = .halted then s.resume else s) = t) :
      exec (.resume h) s = .next (t.answered h .resume .ok []) :=
    request_hunts (a := .plain .ok) (takes rfl rfl rfl) resumeBody_hunts (by subst e; rfl)
  refine ⟨fun v hv hlt => reopens (withRoster_damaged hv hlt _), fun hclean hbusy => reopens (a := .plain .state) ?_,
    fun hclean hoff hfree => reopens (a := .plain .ok) ?_,
    fun hrun => ⟨halts ?_, resumes ?_⟩, fun hhalt => ⟨halts ?_, resumes ?_⟩, notifyMode_link⟩
  · have hbusy' : s.anyInService = true ∨ s.liveSlots ≠ [] := by rwa [anyInService_iff, liveSlots_ne_nil_iff]
    rw [reopenMapBody, withRoster_clean hclean, if_pos hbusy']
  · have hidle : ¬(s.anyInService = true ∨ s.liveSlots ≠ []) := by
      rw [anyInService_iff, liveSlots_ne_nil_iff]
      exact fun hb => hb.elim (fun ⟨v, hv⟩ => hv (hoff v)) fun ⟨o, ho⟩ => ho (hfree o)
    rw [reopenMapBody, withRoster_clean hclean, if_neg hidle]; rfl
  · rw [if_pos hrun, ← hrun]; rfl
  · exact if_neg (by rw [hrun]; decide)
  · exact if_neg (by rw [hhalt]; decide)
  · rw [if_pos hhalt, resume_eq]

/-! ## SOFT_RESET -/

theorem thawed_clean {r : BlockRec} (h : r.flips = []) :
    r.thawed = if r.frozen then { r with frozen := false, holder := .none, waiters := [] } else r := by
  obtain ⟨fixed, holder, frozen, waiters, flips⟩ := r
  rw [BlockRec.thawed, h]

theorem softReset_clean {r : VehicleRec} (h : r.flips = []) : r.softReset = { r with timedOut := none, idleSeq := 0 } := by
  rw [VehicleRec.softReset, ← h]

theorem softReset_notified (k : Link) (n : Notice) : (k.softReset.enqueue n).attend .modeChanged =
    if k.role = Role.disabled then { k with queue := [], attention := ⟨false, false, false, false, false⟩ }
    else { k with queue := [n], attention := ⟨false, false, false, true, false⟩ } := by
  by_cases h : k.role = .disabled
  · simp [Link.softReset, Link.enqueue, Link.attend, h, Attention.clear]
  · simp [Link.softReset, Link.enqueue, Link.attend, h, Attention.clear, Attention.set]

/-- R16: a performed soft reset, of a state with no damaged record. -/
theorem softReset_eq (h : s.clean = true) : s.softReset = { s with
    mode := if s.committed then .run else .setup
    blocks := s.blocks.map fun (r : BlockRec) =>
      if r.frozen then { r with frozen := false, holder := .none, waiters := [] } else r
    ports := s.ports.map fun (r : PortRec) => { r with reservation := none }
    vehicles := s.vehicles.map fun (r : VehicleRec) => { r with timedOut := none, idleSeq := 0 }
    orders := .replicate 256 none, queues := ⟨[], [], [], []⟩, trigger := false
    capture := none, corrections := 0, cursor := .block 0, submitSeq := 0, waiterSeq := 0, idleSeq := 0
    links := s.links.map fun (k : Link) =>
      if k.role = Role.disabled then { k with queue := [], attention := ⟨false, false, false, false, false⟩ }
      else { k with
        queue := [.mode s.mode (if s.committed then .run else .setup) .softReset]
        attention := ⟨false, false, false, true, false⟩ } } := by
  have hblocks : s.blocks.map BlockRec.thawed = s.blocks.map fun (r : BlockRec) =>
      if r.frozen then { r with frozen := false, holder := .none, waiters := [] } else r :=
    Vector.map_congr_left fun r hr => by
      obtain ⟨i, hi, rfl⟩ := Vector.mem_iff_getElem.mp hr
      exact thawed_clean (clean_block h ⟨i, hi⟩)
  have hvehicles : s.vehicles.map VehicleRec.softReset =
      s.vehicles.map fun (r : VehicleRec) => { r with timedOut := none, idleSeq := 0 } :=
    Vector.map_congr_left fun r hr => by
      obtain ⟨i, hi, rfl⟩ := Vector.mem_iff_getElem.mp hr
      exact softReset_clean (clean_vehicle h ⟨i, hi⟩)
  have hlinks (n : Notice) : (s.links.map Link.softReset).map (fun k => (k.enqueue n).attend .modeChanged) =
      s.links.map fun (k : Link) =>
        if k.role = Role.disabled then { k with queue := [], attention := ⟨false, false, false, false, false⟩ }
        else { k with queue := [n], attention := ⟨false, false, false, true, false⟩ } := by
    rw [Vector.map_map]
    exact Vector.map_congr_left fun k _ => softReset_notified k n
  unfold State.softReset State.changeMode State.notifyMode
  dsimp only
  rw [hblocks, hvehicles, hlinks]
  rfl

/-- Settles O46: SOFT_RESET converted into a halt, and performed. -/
theorem softReset : Obligations.SoftReset := by
  unfold Obligations.SoftReset
  have answers {h : Hdr} {s t : State} {a : Answer} (hready : s.ready h .service) (e : softResetBody s = (t, a)) :
      exec (.softReset h) s = .next (t.answered h .softReset a.code a.fields) :=
    request_hunts (takes_of_ready hready rfl (by cases s.mode <;> rfl)) softResetBody_hunts e
  refine ⟨fun h s v hready hv hlt => answers hready (withRoster_damaged hv hlt _), fun h s hready hclean =>
    ⟨fun hbusy hrun => answers hready (a := .plain .converted) ?_,
      fun hbusy hrun => answers hready (a := .plain .converted) ?_, fun hoff => answers hready (a := .plain .ok) ?_⟩⟩
  · rw [softResetBody, withRoster_clean hclean, if_pos (anyInService_iff.mpr hbusy), State.convertReset, if_pos hrun, ← hrun]
    rfl
  · rw [softResetBody, withRoster_clean hclean, if_pos (anyInService_iff.mpr hbusy), State.convertReset, if_neg hrun]
  · have hidle : ¬s.anyInService = true := fun hb => by
      obtain ⟨v, hv⟩ := anyInService_iff.mp hb
      exact hv (hoff v)
    rw [softResetBody, withRoster_clean hclean, if_neg hidle, softReset_eq hclean]

end Sys2Proof.Machine
end

section
/-! The sequence counters (R153, R154). -/

namespace Sys2Proof.Machine

variable {s : State}

/-- R154: renumbering keeps the values in the order they stood. -/
theorem rank_strictMono {values : List Word} {x y : Word} (hlen : values.length < 0xFFFFFFFF) (hx : x ∈ values) (hxy : x < y) :
    rank values x < rank values y := by
  have hsub : (values.filter (· < x)).Sublist ((values.filter (· < y)).filter (· < x)) := by
    rw [List.filter_filter]
    refine List.monotone_filter_right _ fun a ha => ?_
    have ha' : a < x := by simpa using ha
    simpa using ⟨ha', BitVec.lt_trans ha' hxy⟩
  have hlt : (values.filter (· < x)).length < (values.filter (· < y)).length := by
    refine lt_of_le_of_lt hsub.length_le (List.length_filter_lt_length_iff_exists.mpr ⟨x, ?_, ?_⟩)
    · simp [hx, hxy]
    · simp
  have hy : (values.filter (· < y)).length ≤ values.length := List.length_filter_le ..
  rw [BitVec.lt_def, rank, rank, BitVec.toNat_ofNat, BitVec.toNat_ofNat]
  omega

theorem readAll_blocks_clean (h : s.clean = true) (refs : List BlockId) :
    readAll read (refs.map .block) s = (s, false) :=
  readAll_clean s _ fun r _ => clean_cleanAt h r

theorem readAll_orders_clean (h : s.clean = true) : readAll read s.orderRefs s = (s, false) :=
  readAll_clean s _ fun r _ => clean_cleanAt h r

theorem nextSubmitSeq_ready (rd : Reader) (h : s.submitSeq ≠ counterTop) :
    s.nextSubmitSeq rd = ({ s with submitSeq := s.submitSeq + 1 }, s.submitSeq + 1) := by
  simp only [State.nextSubmitSeq, h, ↓reduceIte]

theorem readyWaiterSeq_ready (rd : Reader) (h : s.waiterSeq ≠ counterTop) : s.readyWaiterSeq rd = (s, false) := if_neg h

theorem renumberIdle_clean (h : s.clean = true) : s.renumberIdle read = ({ s with
    vehicles := s.vehicles.map fun r =>
      { r with idleSeq := if r.state = .idle then rank s.idleValues r.idleSeq else 0 }
    idleSeq := .ofNat 32 s.idleValues.length }, false) := by
  rw [State.renumberIdle, readVehicles_clean h]

theorem renumberSubmit_clean (h : s.clean = true) : s.renumberSubmit read = { s with
    orders := s.orders.map fun x => x.map fun r => { r with submitSeq := rank s.submitValues r.submitSeq }
    submitSeq := .ofNat 32 s.submitValues.length } := by
  rw [State.renumberSubmit, readAll_orders_clean h]

theorem renumberWaiters_clean (h : s.clean = true) : s.renumberWaiters read = ({ s with
    blocks := s.blocks.map fun r =>
      { r with waiters := r.waiters.map fun w => { w with seq := rank s.waiterValues w.seq } }
    waiterSeq := .ofNat 32 s.waiterValues.length }, false) := by
  rw [State.renumberWaiters, readAll_blocks_clean h]

/-- Settles O50: the sequence counters, and their renumbering. -/
theorem sequenceCounters : Obligations.SequenceCounters := by
  unfold Obligations.SequenceCounters
  refine ⟨fun values x y hlen hx hxy => rank_strictMono hlen hx hxy, fun s hclean => ⟨nextIdleSeq_ready read,
    nextSubmitSeq_ready read, readyWaiterSeq_ready read, fun v b => rfl, fun h => ?_, fun h => ?_, fun h => ?_⟩⟩
  · have htop : s.idleSeq = counterTop := h
    simp only [State.nextIdleSeq, htop, ↓reduceIte, renumberIdle_clean hclean]; rfl
  · have htop : s.submitSeq = counterTop := h
    simp only [State.nextSubmitSeq, htop, ↓reduceIte, renumberSubmit_clean hclean]; rfl
  · exact (if_pos h).trans (renumberWaiters_clean hclean)

end Sys2Proof.Machine
end

section
/-! The order book's mechanisms: freeing (R100), requeue (R98), the withdrawal of an offer (R119). -/

namespace Sys2Proof.Machine

variable {s : State}

/-! ## Freeing an order (R100) -/

theorem names_iff (r : PortRec) (o : Slot) : r.names o = true ↔ ∃ x, r.reservation = some x ∧ x.slot = o := by
  unfold PortRec.names
  cases r.reservation <;> simp

theorem freeOrder_at_port (s : State) (o : Slot) (p : PortId) : (s.freeOrder o).port p =
    if (s.port p).names o then { s.port p with reservation := none } else s.port p := by
  have e : (s.freeOrder o).port p =
      (s.ports.map fun r => if r.names o then { r with reservation := none } else r)[p.val] := rfl
  rw [e, Vector.getElem_map]; rfl

theorem freeOrder_trigger_iff (s : State) (o : Slot) : (s.freeOrder o).trigger = true ↔
    s.trigger = true ∨ ∃ p x, (s.port p).reservation = some x ∧ x.slot = o ∧ (s.port p).down = false := by
  have e : (s.freeOrder o).trigger = (s.trigger || s.ports.toList.any fun r => r.names o && !r.down) := rfl
  rw [e, Bool.or_eq_true]
  refine or_congr_right ?_
  simp only [List.any_eq_true, Bool.and_eq_true, names_iff, Vector.mem_toList_iff, Vector.mem_iff_getElem,
    Bool.not_eq_true', State.port]
  constructor
  · rintro ⟨r, ⟨i, hi, rfl⟩, ⟨x, hx, ho⟩, hd⟩
    exact ⟨⟨i, hi⟩, x, hx, ho, hd⟩
  · rintro ⟨p, x, hx, ho, hd⟩
    exact ⟨_, ⟨p.val, p.isLt, rfl⟩, ⟨x, hx, ho⟩, hd⟩

/-- Settles O18: what the freeing of an order changes. -/
theorem freeOrder : Obligations.FreeOrder := by
  unfold Obligations.FreeOrder
  intro s o
  refine ⟨rfl, fun p x hx ho => ?_, fun p hnot => ?_, freeOrder_trigger_iff s o⟩
  · rw [freeOrder_at_port, if_pos ((names_iff _ _).mpr ⟨x, hx, ho⟩)]
  · rw [freeOrder_at_port, if_neg fun hn => by
      obtain ⟨x, hx, ho⟩ := (names_iff _ _).mp hn
      exact hnot x hx ho]

/-! ## What the book's operations leave alone -/

/-- Only the orders, their queues and ports, the trigger and the links may differ. -/
def BookOnly (s t : State) : Prop :=
  t = { s with orders := t.orders, queues := t.queues, ports := t.ports, trigger := t.trigger, links := t.links }

theorem BookOnly.trans {s t u : State} (h : BookOnly s t) (k : BookOnly t u) : BookOnly s u := by
  unfold BookOnly at *
  rw [k, h]

theorem BookOnly.refl (s : State) : BookOnly s s := rfl

theorem BookOnly.setOrder (s : State) (o r) : BookOnly s (s.setOrder o r) := rfl
theorem BookOnly.setPort (s : State) (p r) : BookOnly s (s.setPort p r) := rfl
theorem BookOnly.notify (s : State) (l n) : BookOnly s (s.notify l n) := rfl

theorem BookOnly.releasePort (s : State) (o p) : BookOnly s (s.releasePort o p) := by
  unfold State.releasePort
  split
  · split
    · dsimp only; split <;> rfl
    · rfl
  · rfl

theorem BookOnly.releasePort? (s : State) (o) : ∀ p, BookOnly s (s.releasePort? o p)
  | some p => .releasePort s o p
  | none => rfl

theorem BookOnly.queued (s : State) (o r) : BookOnly s (s.queued o r) := rfl

theorem BookOnly.promotedTo (s : State) (o r) : BookOnly s (s.promotedTo o r) := rfl

theorem BookOnly.promote (s : State) (o) : BookOnly s (s.promote o) := by
  cases h : s.order o with
  | none => rw [State.promote, h]; rfl
  | some r => rw [promote_eq h]; exact .promotedTo ..

/-- R98: the order back in its queue, its ports released, and told, before any promotion. -/
def State.requeuedTo (s : State) (o : Slot) (r r' : OrderRec) (cause : OrderCause) : State :=
  (((s.releasePort? o r.source).releasePort o r.destInUse).queued o r').setTrigger.noteOrder o r' .requeued (some cause)

theorem BookOnly.requeuedTo (s : State) (o r r' cause) : BookOnly s (s.requeuedTo o r r' cause) :=
  ((BookOnly.releasePort? s o r.source).trans (.releasePort _ o _)).trans rfl

theorem requeuedTo_order (s : State) (o : Slot) (r r' : OrderRec) (cause) :
    (s.requeuedTo o r r' cause).order o = some r' := setOrder_same ..

theorem requeue_eq {o : Slot} {r : OrderRec} (v : VehicleId) (cause : OrderCause) (h : s.order o = some r) :
    s.requeue o v cause =
      if promoTime s.timing r.cls ≠ 0 ∧ promoTime s.timing r.cls * 1000 ≤ (s.msBase - r.classEntry).toNat then
        (s.requeuedTo o r (r.requeued v) cause).promotedTo o ((r.requeued v).promoted s.msBase)
      else s.requeuedTo o r (r.requeued v) cause := by
  have hbook := BookOnly.requeuedTo s o r (r.requeued v) cause
  have htiming : (s.requeuedTo o r (r.requeued v) cause).timing = s.timing := by rw [hbook]
  have hnow : (s.requeuedTo o r (r.requeued v) cause).msBase = s.msBase := by rw [hbook]
  have hunfold : s.requeue o v cause =
      if (s.requeuedTo o r (r.requeued v) cause).promotionDue (r.requeued v) then
        (s.requeuedTo o r (r.requeued v) cause).promote o
      else s.requeuedTo o r (r.requeued v) cause := by
    unfold State.requeue
    rw [h]
    dsimp only
    rw [enterQueue_setOrder]
    rfl
  have hstate : (r.requeued v).state = .queued := rfl
  have hcls : (r.requeued v).cls = r.cls := rfl
  have hentry : (r.requeued v).classEntry = r.classEntry := rfl
  rw [hunfold, promote_eq (requeuedTo_order ..), hnow]
  simp only [promotionDue_iff, hstate, hcls, hentry, htiming, hnow, true_and]

theorem BookOnly.requeue (s : State) (o v cause) : BookOnly s (s.requeue o v cause) := by
  cases h : s.order o with
  | none => rw [State.requeue, h]; rfl
  | some r =>
    rw [requeue_eq v cause h]
    split
    · exact (BookOnly.requeuedTo s o r _ cause).trans (.promotedTo ..)
    · exact .requeuedTo ..

@[simp] theorem requeue_at_vehicle (s : State) (o v cause w) : (s.requeue o v cause).vehicle w = s.vehicle w := by
  rw [BookOnly.requeue s o v cause]; rfl
@[simp] theorem requeue_idleSeq (s : State) (o v cause) : (s.requeue o v cause).idleSeq = s.idleSeq := by
  rw [BookOnly.requeue s o v cause]
@[simp] theorem requeue_timing (s : State) (o v cause) : (s.requeue o v cause).timing = s.timing := by
  rw [BookOnly.requeue s o v cause]

theorem releasePort_match (s : State) (o : Slot) (p : PortId) : s.releasePort o p =
    match (s.port p).reservation with
    | some x =>
      if x.slot = o then
        { s.setPort p { s.port p with reservation := none } with trigger := s.trigger || !(s.port p).down }
      else s
    | none => s := by
  unfold State.releasePort
  cases (s.port p).reservation with
  | none => rfl
  | some x =>
    dsimp only
    split
    · cases (s.port p).down with
      | true => simp [State.setPort]
      | false => simp [State.setPort, State.setTrigger]
    · rfl

/-- Settles O19: a requeue, and the promotion that may follow it. -/
theorem requeue : Obligations.Requeue := by
  unfold Obligations.Requeue
  intro s o v cause r hr
  have hrec : r.requeued v = { r with
      altInUse := false, vehicle := none, state := .queued, suspended := false
      declinedBy := if r.bound = none then some v else r.declinedBy } := by
    unfold OrderRec.requeued
    cases r.bound <;> rfl
  refine (requeue_eq v cause hr).trans ?_
  unfold State.requeuedTo State.releasePort?
  rw [hrec]
  simp only [releasePort_match]
  rfl

/-! ## The withdrawal of an offer (R119) -/

theorem boundTo_iff {o : Slot} {r : OrderRec} (v : VehicleId) (h : s.order o = some r) :
    s.boundTo o v = decide (r.bound = some v) := by unfold State.boundTo; rw [h]

/-- R119: the vehicle's owner told of an expiry. -/
def State.toldExpiry (s : State) (owner : Option LinkId) (v : VehicleId) (o : Slot) (cause : OrderCause) : State :=
  if cause = .timeout then s.notifyOwner owner (.withdraw v o .timeout) else s

theorem toldExpiry_eq (s : State) {owner : Option LinkId} {v : VehicleId} (o : Slot) (cause : OrderCause)
    (h : (s.vehicle v).owner = owner) :
    (if cause = .timeout then s.noteWithdraw v o .timeout else s) = s.toldExpiry owner v o cause := by
  subst h; rfl

@[simp] theorem idled_owner (n : Word) (r : VehicleRec) : (r.idled n).owner = r.owner := by
  unfold VehicleRec.idled; split <;> rfl

/-- R119: the vehicle with its offer over, its order requeued. -/
def State.offerRequeued (s : State) (v : VehicleId) (o : Slot) (cause : OrderCause) : State :=
  (s.setVehicle v ((s.vehicle v).offerOver o cause)).requeue o v cause

@[simp] theorem offerRequeued_vehicle (s : State) (v o cause) :
    (s.offerRequeued v o cause).vehicle v = (s.vehicle v).offerOver o cause := by simp [State.offerRequeued]

@[simp] theorem offerRequeued_idleSeq (s : State) (v o cause) : (s.offerRequeued v o cause).idleSeq = s.idleSeq := by
  simp [State.offerRequeued]

theorem withdrawOffer_unbound {v : VehicleId} {o : Slot} (cause : OrderCause) (h : s.boundTo o v = false) :
    s.withdrawOffer v o cause =
      ((if cause = .timeout then ((s.offerRequeued v o cause).enterIdle read v).1.noteWithdraw v o .timeout
        else ((s.offerRequeued v o cause).enterIdle read v).1).noteVehicle v .offered,
        ((s.offerRequeued v o cause).enterIdle read v).2) := by
  unfold State.withdrawOffer
  rw [h]
  rfl

theorem withdrawOffer_bound {v : VehicleId} {o : Slot} (cause : OrderCause) (h : s.boundTo o v = true) :
    s.withdrawOffer v o cause =
      ((if cause = .timeout then
          ((s.offerRequeued v o cause).enterLoadedIdle v (s.vehicle v).carrier).noteWithdraw v o .timeout
        else (s.offerRequeued v o cause).enterLoadedIdle v (s.vehicle v).carrier).noteVehicle v .offered, false) := by
  unfold State.withdrawOffer
  rw [h]
  rfl

/-- Settles O35: what the withdrawal of an offer changes. -/
theorem withdrawalOfAnOffer : Obligations.WithdrawalOfAnOffer := by
  unfold Obligations.WithdrawalOfAnOffer
  intro s v o r cause hr
  refine ⟨fun hbound hseq => ?_, fun hbound => ?_⟩
  · have hfree : s.boundTo o v = false := by rw [boundTo_iff v hr, decide_eq_false hbound]
    have hseq' : (s.offerRequeued v o cause).idleSeq ≠ counterTop := by rw [offerRequeued_idleSeq]; exact hseq
    rw [withdrawOffer_unbound cause hfree, enterIdle_ready read v hseq', offerRequeued_vehicle, offerRequeued_idleSeq,
      toldExpiry_eq (owner := (s.vehicle v).owner) _ _ _ (by rw [afterIdle_at_vehicle, setVehicle_same, idled_owner]; rfl)]
    rfl
  · have hbound' : s.boundTo o v = true := by rw [boundTo_iff v hr, decide_eq_true hbound]
    rw [withdrawOffer_bound cause hbound', enterLoadedIdle_eq, offerRequeued_vehicle,
      toldExpiry_eq (owner := (s.vehicle v).owner) _ _ _ (by rw [setTrigger_at_vehicle, setVehicle_same]; rfl)]
    rfl

end Sys2Proof.Machine
end

section
/-! The order that a request names (R93, R107), RECLASS_ORDER (R97) and SET_PORT_STATE (R105). -/

namespace Sys2Proof.Machine

variable {s : State}

/-! ## The order a request names -/

theorem readOrder_none {o : Slot} (h : s.order o = none) : s.readOrder o = (s, false) :=
  read_clean _ _ (by simp [State.cleanAt, h])

section
variable {l : LinkId} {o : Slot} {tag : Half} {conflict : OrderRec → Bool} {damaged : State → List Byte}
  {go : OrderRec → State → State × Answer} {r : OrderRec}

theorem withOrder_damaged (hr : s.order o = some r) (hf : r.flips.length = 2) :
    s.withOrder l o tag conflict damaged go =
      ((read (.order o) s).1, ⟨.integrity, damaged (read (.order o) s).1⟩) := by
  have hbad := readOrder_damaged hr hf
  rw [State.withOrder]; exact if_pos hbad

theorem withOrder_unknown (h : ∀ r, s.order o = some r → r.flips = [] ∧ r.tag ≠ tag) :
    s.withOrder l o tag conflict damaged go = (s, .plain .unknown) := by
  unfold State.withOrder
  cases hr : s.order o with
  | none => rw [readOrder_none hr]; dsimp only; rw [if_neg Bool.false_ne_true, hr]
  | some r =>
    obtain ⟨hf, htag⟩ := h r hr
    rw [readOrder_clean hr hf]; dsimp only; rw [if_neg Bool.false_ne_true, hr]; exact if_pos htag

theorem withOrder_found (hr : s.order o = some r) (hf : r.flips = []) (htag : r.tag = tag) :
    s.withOrder l o tag conflict damaged go =
      if conflict r then (s, .plain .range) else if r.origin ≠ l then (s, .plain .notYours) else go r s := by
  unfold State.withOrder
  rw [readOrder_clean hr hf]
  dsimp only
  rw [if_neg Bool.false_ne_true, hr]
  exact if_neg (not_not.mpr htag)

theorem withOrder_conflict (hr : s.order o = some r) (hf : r.flips = []) (htag : r.tag = tag) (hc : conflict r = true) :
    s.withOrder l o tag conflict damaged go = (s, .plain .range) := by
  rw [withOrder_found hr hf htag, if_pos hc]

theorem withOrder_notYours (hr : s.order o = some r) (hf : r.flips = []) (htag : r.tag = tag) (hc : conflict r = false)
    (hl : r.origin ≠ l) : s.withOrder l o tag conflict damaged go = (s, .plain .notYours) := by
  rw [withOrder_found hr hf htag, hc, if_neg Bool.false_ne_true, if_pos hl]

theorem withOrder_go (hr : s.order o = some r) (hf : r.flips = []) (htag : r.tag = tag) (hc : conflict r = false)
    (hl : r.origin = l) : s.withOrder l o tag conflict damaged go = go r s := by
  rw [withOrder_found hr hf htag, hc, if_neg Bool.false_ne_true, if_neg (not_not.mpr hl)]

end

/-! ## RECLASS_ORDER (R97) -/

theorem cls?_eq_none {b : Byte} (h : 4 ≤ b.toNat) : cls? b = none := by
  unfold cls?
  split
  any_goals omega
  rfl

theorem cls?_eq_some {b : Byte} (h : b.toNat < 4) : ∃ c, cls? b = some c := by
  unfold cls?
  generalize b.toNat = n at h ⊢
  match n, h with
  | 0, _ | 1, _ | 2, _ | 3, _ => exact ⟨_, rfl⟩

theorem reclass_queued (s : State) (o : Slot) {r : OrderRec} (c : Cls) (h : r.state = .queued) :
    (s.reclass o r c).setTrigger =
      { (s.leaveQueue o).queued o { r with cls := c, classEntry := s.msBase } with trigger := true } := by
  rw [State.reclass, if_pos h, enterQueue_setOrder]; rfl

theorem reclass_other (s : State) (o : Slot) {r : OrderRec} (c : Cls) (h : r.state ≠ .queued) :
    (s.reclass o r c).setTrigger = { s.setOrder o (some { r with cls := c }) with trigger := true } := by
  rw [State.reclass, if_neg h]; rfl

/-- Settles O22: RECLASS_ORDER whole. -/
theorem reclassOrder : Obligations.ReclassOrder := by
  unfold Obligations.ReclassOrder
  have answers {h : Hdr} {slot tag : Half} {cls : Byte} {s t : State} {a : Answer} (hready : s.ready h .scheduler)
      (e : reclassOrderBody h.link slot tag cls s = (t, a)) :
      exec (.reclassOrder h slot tag cls) s = .next (t.answered h .reclassOrder a.code a.fields) :=
    request_hunts (takes_of_ready hready rfl rfl) (reclassOrderBody_hunts _ _ _ _) e
  refine ⟨fun h slot tag cls s hready => ⟨fun hout => answers hready (a := .plain .range) ?_, fun o ho hcls => ?_⟩,
    fun h slot tag cls s o r c hready ho hc hr hf htag hl => ?_⟩
  · unfold reclassOrderBody
    rcases hout with hs | hc
    · have e : slot? slot = none := below_eq_none hs
      rw [e, inRange_none]
    · rw [cls?_eq_none hc]; cases slot? slot <;> rfl
  · obtain ⟨c, hc⟩ := cls?_eq_some hcls
    have hslot : slot? slot = some o := below_of_eq_val ho
    have hbody : reclassOrderBody h.link slot tag cls s = s.withOrder h.link o tag (fun _ => false) (fun _ => [0xFF])
        fun r s => ((s.reclass o r c).setTrigger, ⟨.ok, [r.cls.code]⟩) := by
      rw [reclassOrderBody, hslot, hc]; rfl
    exact ⟨fun hno => answers hready (a := .plain .unknown) (hbody.trans (withOrder_unknown hno)),
      fun r hr => ⟨fun hf htag hl => answers hready (a := .plain .notYours)
        (hbody.trans (withOrder_notYours hr hf htag rfl hl)),
      fun hf => answers hready (a := ⟨.integrity, [0xFF]⟩) (hbody.trans (withOrder_damaged hr hf))⟩⟩
  · have hbody : reclassOrderBody h.link slot tag cls s = ((s.reclass o r c).setTrigger, ⟨.ok, [r.cls.code]⟩) := by
      rw [reclassOrderBody, ho, hc, inRange_some, inRange_some, withOrder_go hr hf htag rfl hl]
    refine ⟨fun hq => ?_, fun hq => ?_⟩
    · rw [answers hready hbody, reclass_queued s o c hq]
    · rw [answers hready hbody, reclass_other s o c hq]

/-! ## SET_PORT_STATE (R105) -/

theorem portAction?_eq_none {b : Byte} (h : 2 ≤ b.toNat) : portAction? b = none := by
  unfold portAction?
  split
  any_goals omega
  rfl

theorem portAction?_eq_some {b : Byte} (h : b.toNat < 2) : portAction? b = some (decide (b.toNat = 1)) := by
  unfold portAction?
  generalize b.toNat = n at h ⊢
  match n, h with
  | 0, _ | 1, _ => rfl

theorem setDown_same (s : State) {p : PortId} {down : Bool} (h : (s.port p).down = down) : s.setDown p down = s := if_pos h

theorem setDown_change (s : State) {p : PortId} {down : Bool} (h : (s.port p).down ≠ down) : s.setDown p down =
    { s.setPort p { s.port p with down := down } with
      trigger := s.trigger || (!down && (s.port p).reservation.isNone) }.notifyWhere (·.maskPort)
        (.portState p (s.port p).block down (s.port p).reservation) := by
  have hu (t : State) : (t.notifyWhere (·.maskPort) (.portState p (s.port p).block down (s.port p).reservation)).usable p =
      t.usable p := rfl
  unfold State.setDown
  rw [if_neg h]
  dsimp only
  rw [setPort_same, hu]
  have hus : (s.setPort p { s.port p with down := down }).usable p = (!down && (s.port p).reservation.isNone) := by
    rw [State.usable, setPort_same]
  rw [hus]
  cases hd : (!down && (s.port p).reservation.isNone) with
  | true => rw [if_pos rfl, Bool.or_true]; rfl
  | false => rw [if_neg Bool.false_ne_true, Bool.or_false]; rfl

theorem setDown_port (s : State) (p : PortId) (down : Bool) :
    (s.setDown p down).port p = { s.port p with down := down } := by
  by_cases h : (s.port p).down = down
  · rw [setDown_same s h, ← h]
  · rw [setDown_change s h]; exact setPort_same ..

/-- Settles O23: SET_PORT_STATE whole. -/
theorem setPortState : Obligations.SetPortState := by
  unfold Obligations.SetPortState
  intro h port action s hfree hrole
  have ht : s.takes h .setPortState := by
    obtain ⟨-, hfits, hslot⟩ := hfree
    rcases hrole with hr | hr <;> exact takes_of_ready ⟨hr, hfits, hslot⟩ rfl rfl
  have answers {t : State} {a : Answer} (e : setPortStateBody port action s = (t, a)) :
      exec (.setPortState h port action) s = .next (t.answered h .setPortState a.code a.fields) :=
    request_hunts ht (setPortStateBody_hunts _ _) e
  refine ⟨fun hout => answers (a := .plain .range) ?_, fun p hp hact => ?_⟩
  · unfold setPortStateBody
    rcases hout with hp | ha
    · have e : port? port = none := below_eq_none hp
      rw [e, inRange_none]
    · rw [portAction?_eq_none ha]; cases port? port <;> rfl
  · have hport : port? port = some p := below_of_eq_val hp
    intro down was
    have hbody : setPortStateBody port action s =
        if s.mode ≠ .setup ∧ !s.placed p then (s, .plain .range)
        else (s.setDown p down,
          ⟨.ok, Enc.flag ((s.setDown p down).port p).down ++ Enc.reservation ((s.setDown p down).port p).reservation⟩) := by
      rw [setPortStateBody, hport, portAction?_eq_some hact]; rfl
    have allowed (hm : s.mode = .setup ∨ was.block ≠ none) : ¬(s.mode ≠ .setup ∧ (!s.placed p) = true) := by
      rintro ⟨hmode, hplaced⟩
      refine hm.elim hmode fun hb => hb ?_
      simpa [State.placed] using hplaced
    refine ⟨fun hmode hblock => answers (a := .plain .range) ?_, fun hm hsame => ?_, fun hm hne => ?_⟩
    · have hplaced : s.placed p = false := by rw [State.placed, hblock]; rfl
      rw [hbody, if_pos ⟨hmode, by rw [hplaced]; rfl⟩]
    all_goals rw [if_neg (allowed hm), setDown_port] at hbody
    · rw [setDown_same s hsame] at hbody
      exact answers hbody
    · rw [setDown_change s hne] at hbody
      exact answers hbody

end Sys2Proof.Machine
end

section
/-! CANCEL_ORDER (R94). -/

namespace Sys2Proof.Machine

variable {s : State}

/-! ## The vehicle that a request reads -/

theorem withVehicle_damaged {v : VehicleId} (h : (s.vehicle v).flips.length = 2) (damaged : State → List Byte)
    (go : State → State × Answer) : s.withVehicle v damaged go =
      ((read (.vehicle v) s).1, ⟨.integrity, damaged (read (.vehicle v) s).1⟩) := by
  have hbad := readVehicle_damaged h
  rw [State.withVehicle]; exact if_pos hbad

theorem withVehicle_clean {v : VehicleId} (h : (s.vehicle v).flips = []) (damaged : State → List Byte)
    (go : State → State × Answer) : s.withVehicle v damaged go = go s := by
  rw [State.withVehicle, readVehicle_clean h]; rfl

/-! ## An order lost with every vehicle clean (R141) -/

/-- Every vehicle is clean, and the slot is free. -/
def Vacant (o : Slot) (s : State) : Prop := (∀ w, (s.vehicle w).flips = []) ∧ s.order o = none

theorem Vacant.setVehicle {o : Slot} (h : Vacant o s) (v : VehicleId) {r : VehicleRec} (hr : r.flips = []) :
    Vacant o (s.setVehicle v r) := by
  refine ⟨fun w => ?_, h.2⟩
  rw [setVehicle_read]; split
  · exact hr
  · exact h.1 w

theorem Vacant.notifyOwner {o : Slot} (h : Vacant o s) (owner n) : Vacant o (s.notifyOwner owner n) := by
  refine ⟨fun w => ?_, ?_⟩
  · rw [notifyOwner_at_vehicle]; exact h.1 w
  · rw [notifyOwner_at_order]; exact h.2

theorem Vacant.nextIdleSeq {o : Slot} (h : Vacant o s) : Vacant o (s.nextIdleSeq nestedRead).1 := by
  have hread : readAll nestedRead vehicleRefs s = (s, false) := readAll_same _ fun r hr => by
    obtain ⟨w, -, rfl⟩ := List.mem_map.mp hr
    exact nestedRead_vehicle (h.1 w)
  unfold State.nextIdleSeq State.renumberIdle
  rw [hread]
  split
  next e =>
    split at e
    · obtain ⟨rfl, -⟩ := Prod.mk.inj e
      refine ⟨fun w => ?_, h.2⟩
      simpa [State.vehicle] using h.1 w
    · obtain ⟨rfl, -⟩ := Prod.mk.inj e
      exact h

theorem Vacant.enterIdle {o : Slot} (h : Vacant o s) (v : VehicleId) : Vacant o (s.enterIdle nestedRead v).1 := by
  have hnext := h.nextIdleSeq
  unfold State.enterIdle
  split
  · exact h.setVehicle v (h.1 v)
  · generalize s.nextIdleSeq nestedRead = p at hnext
    obtain ⟨t, n, bad⟩ := p
    exact Vacant.setVehicle hnext v (hnext.1 v)

theorem Vacant.releaseVehicleOf {o : Slot} (h : Vacant o s) (v : VehicleId) :
    Vacant o (State.releaseVehicleOf nestedRead o v s) := by
  by_cases ho : (s.vehicle v).order = some o
  · have ht : Vacant o (s.orderTaken v o) := by
      have hset : Vacant o (s.setVehicle v { s.vehicle v with order := none, offer := none }) := h.setVehicle v (h.1 v)
      exact hset.notifyOwner _ _
    have hloaded (c) : Vacant o ((s.orderTaken v o).enterLoadedIdle v c) := ht.setVehicle v (ht.1 v)
    rw [releaseVehicleOf_named ho]
    split
    · split
      · exact ht.enterIdle v
      · exact hloaded _
    · exact ht.enterIdle v
    · exact hloaded _
    · split
      · exact ht.setVehicle v (ht.1 v)
      · exact ht
    · exact ht
  · rw [State.releaseVehicleOf, if_neg ho]; exact h

theorem Vacant.releaseVehiclesOf {o : Slot} : ∀ (vs : List VehicleId) {s : State}, Vacant o s →
    Vacant o (State.releaseVehiclesOf nestedRead o vs s)
  | [], _, h => h
  | v :: vs, s, h => by
    rw [State.releaseVehiclesOf, nestedRead_vehicle (h.1 v)]
    exact Vacant.releaseVehiclesOf vs (h.releaseVehicleOf v)

/-- R141: a damaged order, once read, is gone. -/
theorem readOrder_damaged_gone {o : Slot} {r : OrderRec} (hr : s.order o = some r) (hf : r.flips.length = 2)
    (hv : ∀ v, (s.vehicle v).flips = []) : (read (.order o) s).1.order o = none := by
  have e := reads_order_damaged (f := .access) hr hf
  rw [repairOrder_eq] at e
  have e' : (read (.order o) s).1 = _ := congrArg Prod.fst e
  rw [e']
  refine (Vacant.releaseVehiclesOf allVehicles ⟨fun w => ?_, ?_⟩).2
  · rw [lostOrder_at_vehicle, found_at_vehicle]; exact hv w
  · exact setOrder_same ..

/-! ## CANCEL_ORDER -/

variable {o : Slot} {r : OrderRec} {v : VehicleId}

theorem idled_dropOrder (n : Word) (r : VehicleRec) : ({ r with order := none } : VehicleRec).idled n = r.idled n := by
  unfold VehicleRec.idled; split <;> rfl

@[simp] theorem noteWithdraw_at_vehicle (s : State) (v o c w) : (s.noteWithdraw v o c).vehicle w = s.vehicle w := by
  simp [State.noteWithdraw]

@[simp] theorem noteWithdraw_idleSeq (s : State) (v o c) : (s.noteWithdraw v o c).idleSeq = s.idleSeq := by
  simp [State.noteWithdraw]

/-- R94: the vehicle of a cancelled order, told. -/
theorem cancelVehicle_idle (hseq : s.idleSeq ≠ counterTop) : s.cancelVehicle o v false =
    (((s.noteWithdraw v o .cancelled).setVehicle v
      (({ s.vehicle v with offer := none } : VehicleRec).idled (s.idleSeq + 1))).afterIdle (s.vehicle v).drain, false) := by
  have hseq' : ((s.noteWithdraw v o .cancelled).setVehicle v { s.vehicle v with offer := none, order := none }).idleSeq ≠
      counterTop := by simpa using hseq
  have e := enterIdle_ready read v hseq'
  rw [setVehicle_same, setVehicle_setVehicle, setVehicle_idleSeq, noteWithdraw_idleSeq] at e
  have hbase : s.cancelVehicle o v false =
      ((s.noteWithdraw v o .cancelled).setVehicle v { s.vehicle v with offer := none, order := none }).enterIdle read v := by
    rw [State.cancelVehicle, State.updVehicle, noteWithdraw_at_vehicle]; rfl
  rw [hbase, e]
  exact congrArg (fun x => (((s.noteWithdraw v o .cancelled).setVehicle v x).afterIdle (s.vehicle v).drain, false))
    (idled_dropOrder _ { s.vehicle v with offer := none })

theorem cancelVehicle_loaded : s.cancelVehicle o v true =
    (((s.noteWithdraw v o .cancelled).setVehicle v
      (({ s.vehicle v with offer := none } : VehicleRec).loaded (s.vehicle v).carrier)).setTrigger, false) := by
  rw [State.cancelVehicle, State.updVehicle, noteWithdraw_at_vehicle]
  dsimp only
  rw [if_pos rfl, enterLoadedIdle_eq, setVehicle_same, setVehicle_setVehicle]
  rfl

/-- R94: the order of a vehicle on its way or under an offer. -/
theorem cancel_worked (hst : r.state = .toSource ∨ r.state = .offered) (hv : r.vehicle = some v) : s.cancel o r =
    ((((s.cancelVehicle o v (r.state = .offered ∧ r.bound = some v)).1).freeOrder o).noteVehicle v (s.vehicle v).state,
      (s.cancelVehicle o v (r.state = .offered ∧ r.bound = some v)).2) := by
  unfold State.cancel
  rcases hst with e | e <;> rw [e, hv]

theorem cancel_queued (hst : r.state = .queued) : s.cancel o r = (s.freeOrder o, false) := by
  unfold State.cancel; rw [hst]

theorem withVehicleOf_none (hv : r.vehicle = none) (damaged : State → List Byte) (go : State → State × Answer) :
    s.withVehicleOf r damaged go = go s := by rw [State.withVehicleOf, hv]

theorem withVehicleOf_some (hv : r.vehicle = some v) (damaged : State → List Byte) (go : State → State × Answer) :
    s.withVehicleOf r damaged go = s.withVehicle v damaged go := by rw [State.withVehicleOf, hv]

/-- What CANCEL_ORDER does with the order it names. -/
def cancelGo (o : Slot) (r : OrderRec) (s : State) : State × Answer :=
  if r.state = .carrying then (s, .plain .state)
  else s.withVehicleOf r (·.cancelFields o) fun s => ((s.cancel o r).1, ⟨okOr (s.cancel o r).2, s.cancelFields o⟩)

theorem cancelOrderBody_eq {m : LinkId} {slot tag : Half} (ho : slot? slot = some o) : cancelOrderBody m slot tag s =
    s.withOrder m o tag (fun _ => false) (·.cancelFields o) (cancelGo o) := by
  rw [cancelOrderBody, ho]; rfl

/-- Settles O20: CANCEL_ORDER whole. -/
theorem cancelOrder : Obligations.CancelOrder := by
  unfold Obligations.CancelOrder
  have answers {h : Hdr} {slot tag : Half} {s t : State} {a : Answer} (hready : s.ready h .scheduler)
      (e : cancelOrderBody h.link slot tag s = (t, a)) :
      exec (.cancelOrder h slot tag) s = .next (t.answered h .cancelOrder a.code a.fields) :=
    request_hunts (takes_of_ready hready rfl rfl) (cancelOrderBody_hunts _ _ _) e
  refine ⟨fun h slot tag s hready => ⟨fun hout => answers hready (a := .plain .range) ?_, fun o ho hno => ?_⟩,
    fun h slot tag s o r hready ho hr => ?_, fun h slot tag s o r hready ho hr hf htag => ?_⟩
  · have e : slot? slot = none := below_eq_none hout
    rw [cancelOrderBody, e, inRange_none]
  · have hslot : slot? slot = some o := below_of_eq_val ho
    exact answers hready (a := .plain .unknown) ((cancelOrderBody_eq hslot).trans (withOrder_unknown hno))
  · have hbody := cancelOrderBody_eq (s := s) (m := h.link) (tag := tag) ho
    refine ⟨fun hf => ?_, fun hf hv => ?_, fun v hf htag hl hst hv hvf => ?_⟩
    · exact answers hready (hbody.trans (withOrder_damaged hr hf))
    · refine (answers hready (hbody.trans (withOrder_damaged hr hf))).trans ?_
      have hgone := readOrder_damaged_gone hr hf hv
      rw [State.cancelFields, hgone]; rfl
    · rw [withOrder_go hr hf htag rfl hl, cancelGo, if_neg hst, withVehicleOf_some hv, withVehicle_damaged hvf] at hbody
      exact answers hready hbody
  · have hbody := cancelOrderBody_eq (s := s) (m := h.link) (tag := tag) ho
    have hfields : s.cancelFields o = [r.state.code] ++ Enc.opt1 Enc.vehicle r.vehicle := by
      rw [State.cancelFields, hr]
    refine ⟨fun hl => answers hready (a := .plain .notYours) (hbody.trans (withOrder_notYours hr hf htag rfl hl)),
      fun hl hst => ?_, fun hl hst hv => ?_, fun v hl hst hv hvf => ?_⟩
    all_goals rw [withOrder_go hr hf htag rfl hl, cancelGo] at hbody
    · exact answers hready (a := .plain .state) (hbody.trans (if_pos hst))
    · rw [if_neg (by rw [hst]; decide), withVehicleOf_none hv, cancel_queued hst, hfields, hst, hv] at hbody
      exact answers hready hbody
    · have hnot : r.state ≠ .carrying := by rcases hst with e | e <;> rw [e] <;> decide
      rw [if_neg hnot, withVehicleOf_some hv, withVehicle_clean hvf, cancel_worked hst hv, hfields, hv] at hbody
      refine ⟨fun hnb hseq => ?_, fun hb => ?_⟩
      · rw [decide_eq_false hnb, cancelVehicle_idle hseq] at hbody
        exact answers hready hbody
      · rw [decide_eq_true hb, cancelVehicle_loaded, hb.1] at hbody
        exact answers hready hbody

end Sys2Proof.Machine
end

section
/-! REDIRECT_ORDER (R95, R96). -/

namespace Sys2Proof.Machine

variable {s : State} {o : Slot} {r : OrderRec} {v : VehicleId} {d : PortId} {a : Option PortId}

/-! ## Its tests -/

theorem portsFit_none_iff : s.portsFit none d a = true ↔
    (∀ p, p = d ∨ a = some p → (s.port p).block ≠ none) ∧ a ≠ some d := by
  simp only [State.portsFit, State.placed, Option.all_none, Bool.true_and, Option.isNone_none, Bool.true_or, Bool.and_true,
    Bool.and_eq_true, decide_eq_true_eq, ne_eq, reduceCtorEq, not_false_eq_true, and_true, Option.isSome_iff_ne_none]
  refine and_congr_left fun _ => ?_
  cases a with
  | none => simp
  | some p => simp [or_imp, forall_and, State.placed, Option.isSome_iff_ne_none]

theorem sourceConflict_iff : r.sourceConflict d a = true ↔ ∃ p, r.source = some p ∧ (p = d ∨ a = some p) := by
  simp only [OrderRec.sourceConflict, Option.any_eq_true, decide_eq_true_eq, eq_comm (a := a)]

theorem sourceConflict_false (h : ∀ p, r.source = some p → p ≠ d ∧ a ≠ some p) : r.sourceConflict d a = false := by
  refine Bool.eq_false_iff.mpr fun hc => ?_
  obtain ⟨p, hp, hd | ha⟩ := sourceConflict_iff.mp hc
  · exact (h p hp).1 hd
  · exact (h p hp).2 ha

theorem redirectRefusal_down (h : (s.port d).down = true) : s.redirectRefusal o d = some (.down, none) := if_pos h

theorem redirectRefusal_reserved {x : Reservation} (hd : (s.port d).down = false) (hx : (s.port d).reservation = some x)
    (hne : x ≠ ⟨o, .drop⟩) : s.redirectRefusal o d = some (.reserved, some x.slot) := by
  have hnot : ¬(x.slot = o ∧ x.kind = .drop) := fun ⟨hs, hk⟩ => hne (by cases x; simp_all)
  rw [State.redirectRefusal, if_neg (by rw [hd]; decide), hx]
  exact if_neg hnot

theorem redirectRefusal_none (hd : (s.port d).down = false)
    (hx : (s.port d).reservation = none ∨ (s.port d).reservation = some ⟨o, .drop⟩) : s.redirectRefusal o d = none := by
  rw [State.redirectRefusal, if_neg (by rw [hd]; decide)]
  rcases hx with h | h <;> rw [h]
  exact if_pos ⟨rfl, rfl⟩

/-! ## Its effects -/

theorem releasePort_other {p q : PortId} (h : q ≠ p) : (s.releasePort o p).port q = s.port q := by
  unfold State.releasePort
  split
  · split
    · dsimp only; split <;> exact setPort_other _ _ h
    · rfl
  · rfl

@[simp] theorem releasePort_at_vehicle (s : State) (o p v) : (s.releasePort o p).vehicle v = s.vehicle v := by
  rw [BookOnly.releasePort s o p]; rfl

theorem redirect_queued (hst : r.state = .queued) :
    s.redirect o r d a = s.setOrder o (some { r with dest := d, alt := a, altInUse := false }) := by
  have hf : r.inField = false := by simp [OrderRec.inField, hst]
  simp [State.redirect, hf]

theorem redirect_inField (hst : r.state = .toSource ∨ r.state = .carrying) (hv : r.vehicle = some v) : s.redirect o r d a =
    (((if r.destInUse = d then s else s.releasePort o r.destInUse).setOrder o
      (some { r with dest := d, alt := a, altInUse := false })).setPort d
        { s.port d with reservation := some ⟨o, .drop⟩ }).notifyOwner (s.vehicle v).owner
      (.reroute v o .redirect d (s.port d).block a) := by
  have hf : r.inField = true := by rcases hst with e | e <;> simp [OrderRec.inField, e]
  have hif : (if r.inField ∧ r.destInUse ≠ d then s.releasePort o r.destInUse else s) =
      if r.destInUse = d then s else s.releasePort o r.destInUse := by
    by_cases e : r.destInUse = d <;> simp [e, hf]
  have hport : (if r.destInUse = d then s else s.releasePort o r.destInUse).port d = s.port d := by
    split
    · rfl
    · next hne => exact releasePort_other (Ne.symm hne)
  have hvehicle : (if r.destInUse = d then s else s.releasePort o r.destInUse).vehicle v = s.vehicle v := by
    split
    · rfl
    · exact releasePort_at_vehicle ..
  unfold State.redirect
  rw [hif]
  generalize (if r.destInUse = d then s else s.releasePort o r.destInUse) = t at hport hvehicle
  dsimp only
  rw [if_pos hf, hv]
  dsimp only
  rw [State.noteReroute, State.reserve, State.portBlock, setPort_same, setPort_at_vehicle, setOrder_at_vehicle, hvehicle,
    setOrder_at_port, hport]

/-- What REDIRECT_ORDER does with the order it names. -/
def redirectGo (o : Slot) (d : PortId) (a : Option PortId) (r : OrderRec) (s : State) : State × Answer :=
  if r.state = .offered then (s, .plain .state)
  else match s.redirectRefusal o d with
    | some (reason, x) => (s, ⟨.full, [reason.code] ++ Enc.opt2 Enc.slot x⟩)
    | none =>
      s.withVehicleOf r (·.redirectDamaged o) fun s =>
      (s.redirect o r d a, ⟨.ok, Enc.port r.destInUse ++ Enc.port d⟩)

theorem redirectOrderBody_eq {m : LinkId} {slot tag : Half} {dest alt : Byte} (ho : slot? slot = some o)
    (hd : port? dest = some d) (ha : portOrNone? alt = some a) : redirectOrderBody m slot tag dest alt s =
      if !s.portsFit none d a then (s, .plain .range)
      else s.withOrder m o tag (·.sourceConflict d a) (·.redirectDamaged o) (redirectGo o d a) := by
  rw [redirectOrderBody, ho, hd, ha]; rfl

theorem redirectOrderBody_fits {m : LinkId} {slot tag : Half} {dest alt : Byte} (ho : slot? slot = some o)
    (hd : port? dest = some d) (ha : portOrNone? alt = some a)
    (hp : ∀ p, p = d ∨ a = some p → (s.port p).block ≠ none) (hne : a ≠ some d) :
    redirectOrderBody m slot tag dest alt s =
      s.withOrder m o tag (·.sourceConflict d a) (·.redirectDamaged o) (redirectGo o d a) := by
  rw [redirectOrderBody_eq ho hd ha, portsFit_none_iff.mpr ⟨hp, hne⟩]; rfl

/-- Settles O21: REDIRECT_ORDER whole. -/
theorem redirectOrder : Obligations.RedirectOrder := by
  unfold Obligations.RedirectOrder
  have answers {h : Hdr} {slot tag : Half} {dest alt : Byte} {s t : State} {a : Answer} (hready : s.ready h .scheduler)
      (e : redirectOrderBody h.link slot tag dest alt s = (t, a)) :
      exec (.redirectOrder h slot tag dest alt) s = .next (t.answered h .redirectOrder a.code a.fields) :=
    request_hunts (takes_of_ready hready rfl rfl) (redirectOrderBody_hunts _ _ _ _ _) e
  refine ⟨fun h slot tag dest alt s hready => ⟨fun hout => answers hready (a := .plain .range) ?_, fun o d a ho hd ha =>
    ⟨fun hunfit => answers hready (a := .plain .range) ?_, fun hp hne => ⟨fun hno => ?_, fun r hr hf htag =>
      ⟨fun hc => ?_, fun hc hl => ?_⟩⟩, fun hp hne r hr => ⟨fun hf => ?_, fun v hf htag hl hc hst hdown hres hv hvf => ?_⟩⟩⟩,
    fun h slot tag dest alt s o r d a hready ho hd ha hp hne hr hf htag hl hc => ?_⟩
  · unfold redirectOrderBody
    rcases hout with hs | hd | ha
    · have e : slot? slot = none := below_eq_none hs
      rw [e, inRange_none]
    · rw [hd]; cases slot? slot <;> rfl
    · rw [ha]; cases slot? slot <;> cases port? dest <;> rfl
  · have hslot : slot? slot = some o := below_of_eq_val ho
    have hbad : s.portsFit none d a = false := by
      refine Bool.eq_false_iff.mpr fun hfit => ?_
      obtain ⟨hplaced, hne⟩ := portsFit_none_iff.mp hfit
      rcases hunfit with ⟨p, hp, hb⟩ | he
      · exact hplaced p hp hb
      · exact hne he
    rw [redirectOrderBody_eq hslot hd ha, hbad]; rfl
  · exact answers hready (a := .plain .unknown)
      ((redirectOrderBody_fits (below_of_eq_val ho) hd ha hp hne).trans (withOrder_unknown hno))
  · exact answers hready (a := .plain .range) ((redirectOrderBody_fits (below_of_eq_val ho) hd ha hp hne).trans
      (withOrder_conflict hr hf htag (sourceConflict_iff.mpr hc)))
  · exact answers hready (a := .plain .notYours) ((redirectOrderBody_fits (below_of_eq_val ho) hd ha hp hne).trans
      (withOrder_notYours hr hf htag (sourceConflict_false hc) hl))
  · exact answers hready ((redirectOrderBody_fits (below_of_eq_val ho) hd ha hp hne).trans (withOrder_damaged hr hf))
  · have hbody := redirectOrderBody_fits (m := h.link) (tag := tag) (below_of_eq_val ho) hd ha hp hne
    rw [withOrder_go hr hf htag (sourceConflict_false hc) hl, redirectGo, if_neg hst, redirectRefusal_none hdown hres,
      withVehicleOf_some hv, withVehicle_damaged hvf] at hbody
    exact answers hready hbody
  · have hbody := redirectOrderBody_fits (m := h.link) (tag := tag) ho hd ha hp hne
    rw [withOrder_go hr hf htag (sourceConflict_false hc) hl, redirectGo] at hbody
    refine ⟨fun hst => answers hready (a := .plain .state) (hbody.trans (if_pos hst)), fun hst hdown => ?_,
      fun x hst hdown hx hne => ?_, fun hst hv hus => ?_, fun v hst hv hvf hus => ?_⟩
    · rw [if_neg hst, redirectRefusal_down hdown] at hbody
      exact answers hready hbody
    · rw [if_neg hst, redirectRefusal_reserved hdown hx hne] at hbody
      exact answers hready hbody
    · rw [if_neg (by rw [hst]; decide), redirectRefusal_none hus.1 hus.2, withVehicleOf_none hv, redirect_queued hst] at hbody
      exact answers hready hbody
    · have hnot : r.state ≠ .offered := by rcases hst with e | e <;> rw [e] <;> decide
      rw [if_neg hnot, redirectRefusal_none hus.1 hus.2, withVehicleOf_some hv, withVehicle_clean hvf,
        redirect_inField hst hv] at hbody
      exact answers hready hbody

end Sys2Proof.Machine
end

section
/-! DRAIN and RESTORE (R78, R79). -/

namespace Sys2Proof.Machine

variable {s : State} {v : VehicleId}

/-- What DRAIN does with the vehicle it names. -/
def drainGo (v : VehicleId) (s : State) : State × Answer :=
  if (s.vehicle v).state = .offline then (s, .plain .state)
  else (s.drainVehicle v, ⟨.ok, (s.drainVehicle v).drainFields v⟩)

/-- What RESTORE does with the vehicle it names. -/
def restoreGo (v : VehicleId) (s : State) : State × Answer :=
  if (s.vehicle v).state = .offline then (s, .plain .state)
  else ((s.restoreVehicle v).1, ⟨okOr (s.restoreVehicle v).2, (s.restoreVehicle v).1.drainFields v⟩)

theorem drainBody_eq {vehicle : Byte} (hv : vehicle? vehicle = some v) :
    drainBody vehicle s = s.withVehicle v (·.drainFields v) (drainGo v) := by rw [drainBody, hv]; rfl

theorem restoreBody_eq {vehicle : Byte} (hv : vehicle? vehicle = some v) :
    restoreBody vehicle s = s.withVehicle v (·.drainFields v) (restoreGo v) := by rw [restoreBody, hv]; rfl

theorem drainVehicle_idle (h : (s.vehicle v).state = .idle) :
    s.drainVehicle v = (s.setVehicle v { s.vehicle v with state := .withdrawn }).noteVehicle v .idle := by
  rw [State.drainVehicle, h]; rfl

theorem drainVehicle_withdrawn (h : (s.vehicle v).state = .withdrawn) : s.drainVehicle v = s := by
  rw [State.drainVehicle, h]

theorem drainVehicle_other (h1 : (s.vehicle v).state ≠ .idle) (h2 : (s.vehicle v).state ≠ .withdrawn) :
    s.drainVehicle v = s.setVehicle v { s.vehicle v with drain := true } := by
  unfold State.drainVehicle
  split
  · next e => exact absurd e h1
  · next e => exact absurd e h2
  · rfl

theorem restoreVehicle_withdrawn (h : (s.vehicle v).state = .withdrawn) (hseq : s.idleSeq ≠ counterTop) :
    s.restoreVehicle v = ({ s.setVehicle v { s.vehicle v with
      state := .idle, drain := false, idleSeq := s.idleSeq + 1, order := none, carrier := .none } with
        idleSeq := s.idleSeq + 1, trigger := true }.noteVehicle v .withdrawn, false) := by
  have hseq' : (s.setVehicle v { s.vehicle v with drain := false }).idleSeq ≠ counterTop := hseq
  have e := enterIdle_ready read v hseq'
  rw [setVehicle_same, setVehicle_setVehicle, setVehicle_idleSeq] at e
  unfold State.restoreVehicle
  dsimp only
  rw [if_pos h, State.updVehicle, e]
  rfl

theorem restoreVehicle_other (h : (s.vehicle v).state ≠ .withdrawn) :
    s.restoreVehicle v = (s.setVehicle v { s.vehicle v with drain := false }, false) := if_neg h

/-- Settles O33: DRAIN and RESTORE whole. -/
theorem drainAndRestore : Obligations.DrainAndRestore := by
  unfold Obligations.DrainAndRestore
  have drains {h : Hdr} {vehicle : Byte} {s t : State} {a : Answer} (hready : s.ready h .service)
      (e : drainBody vehicle s = (t, a)) : exec (.drain h vehicle) s = .next (t.answered h .drain a.code a.fields) :=
    request_hunts (takes_of_ready hready rfl rfl) (drainBody_hunts _) e
  have restores {h : Hdr} {vehicle : Byte} {s t : State} {a : Answer} (hready : s.ready h .service)
      (e : restoreBody vehicle s = (t, a)) : exec (.restore h vehicle) s = .next (t.answered h .restore a.code a.fields) :=
    request_hunts (takes_of_ready hready rfl rfl) (restoreBody_hunts _) e
  refine ⟨fun h vehicle s hready hout => ?_, fun h vehicle s v hready hv hf => ⟨?_, ?_⟩, fun h vehicle s v hready hv hf => ?_⟩
  · have e : vehicle? vehicle = none := below_eq_none hout
    exact ⟨drains hready (a := .plain .range) (by rw [drainBody, e, inRange_none]),
      restores hready (a := .plain .range) (by rw [restoreBody, e, inRange_none])⟩
  · exact drains hready ((drainBody_eq hv).trans (withVehicle_damaged hf _ _))
  · exact restores hready ((restoreBody_eq hv).trans (withVehicle_damaged hf _ _))
  · have hdrain := (drainBody_eq (s := s) hv).trans (withVehicle_clean hf _ _)
    have hrestore := (restoreBody_eq (s := s) hv).trans (withVehicle_clean hf _ _)
    rw [drainGo] at hdrain
    rw [restoreGo] at hrestore
    refine ⟨fun hst => ⟨drains hready (a := .plain .state) (hdrain.trans (if_pos hst)),
      restores hready (a := .plain .state) (hrestore.trans (if_pos hst))⟩, fun hst => ?_, fun hst => ?_,
      fun hoff hidle hwd => ?_, fun hst hseq => ?_, fun hoff hwd => ?_⟩
    · rw [if_neg (by rw [hst]; decide), drainVehicle_idle hst, State.drainFields, noteVehicle_at_vehicle, setVehicle_same] at hdrain
      exact drains hready hdrain
    · rw [if_neg (by rw [hst]; decide), drainVehicle_withdrawn hst, State.drainFields, hst] at hdrain
      exact drains hready hdrain
    · rw [if_neg hoff, drainVehicle_other hidle hwd, State.drainFields, setVehicle_same] at hdrain
      exact drains hready hdrain
    · rw [if_neg (by rw [hst]; decide), restoreVehicle_withdrawn hst hseq, State.drainFields, noteVehicle_at_vehicle] at hrestore
      have hsame (t : State) (r : VehicleRec) (n : Word) :
          ({ t.setVehicle v r with idleSeq := n, trigger := true } : State).vehicle v = r := setVehicle_same ..
      rw [hsame] at hrestore
      exact restores hready hrestore
    · rw [if_neg hoff, restoreVehicle_other hwd, State.drainFields, setVehicle_same] at hrestore
      exact restores hready hrestore

end Sys2Proof.Machine
end

section
/-! Stalls (R36, R72, R73): the stall of a vehicle, FAULT (R71) and the silence countdown (R69). -/

namespace Sys2Proof.Machine

variable {s : State} {v : VehicleId} {l : LinkId}

/-! ## The vehicle that a bay's request names -/

theorem withOwned_eq_damaged (h : (s.vehicle v).flips.length = 2) (damaged : State → List Byte) (go : State → State × Answer) :
    s.withOwned l v damaged go = ((read (.vehicle v) s).1, ⟨.integrity, damaged (read (.vehicle v) s).1⟩) :=
  withVehicle_damaged h damaged _

theorem withOwned_eq_go (h : (s.vehicle v).flips = []) (ho : (s.vehicle v).owner = some l) (damaged : State → List Byte)
    (go : State → State × Answer) : s.withOwned l v damaged go = go s :=
  (withVehicle_clean h damaged _).trans (if_pos ho)

theorem withOwned_eq_notYours (h : (s.vehicle v).flips = []) (ho : (s.vehicle v).owner ≠ some l)
    (damaged : State → List Byte) (go : State → State × Answer) : s.withOwned l v damaged go = (s, .plain .notYours) :=
  (withVehicle_clean h damaged _).trans (if_neg ho)

/-! ## The end of a wait -/

/-- R36: the wait of a vehicle that stalls ends, and its owner is told. -/
def State.waitTold (s : State) (v : VehicleId) : State :=
  match (s.vehicle v).waitingOn with
  | some b => (s.waitEnded v).notifyOwner (s.vehicle v).owner (.waitCancelled v b .stalled (s.vehicle v).holds.length)
  | none => s

theorem waitEnded_none (h : (s.vehicle v).waitingOn = none) : s.waitEnded v = s := by rw [State.waitEnded, h]

theorem waitEnded_some {b : BlockId} (h : (s.vehicle v).waitingOn = some b) : s.waitEnded v =
    (s.removeEntry b v).setVehicle v { s.vehicle v with waitingOn := none } := by rw [State.waitEnded, h]

theorem waitClean_some {b : BlockId} (h : s.waitClean v = true) (hb : (s.vehicle v).waitingOn = some b) :
    (s.block b).flips = [] := by
  rw [State.waitClean, hb] at h
  exact List.isEmpty_iff.mp h

theorem removeEntry_setVehicle (s : State) (b : BlockId) (v w : VehicleId) (r : VehicleRec) :
    (s.setVehicle w r).removeEntry b v = (s.removeEntry b v).setVehicle w r := rfl

/-- R35: the end of a wait whose block is clean. -/
theorem endWait_clean (h : s.waitClean v = true) :
    s.endWait v = (s.waitEnded v, ⟨(s.vehicle v).waitingOn, none⟩) := by
  unfold State.endWait
  cases hb : (s.vehicle v).waitingOn with
  | none => rw [waitEnded_none hb]
  | some b =>
    dsimp only
    rw [readBlock_clean (waitClean_some h hb), waitEnded_some hb]
    rfl

theorem waitTold_order (o : Slot) : (s.waitTold v).order o = s.order o := by
  unfold State.waitTold
  cases hb : (s.vehicle v).waitingOn with
  | none => rfl
  | some b => dsimp only; rw [notifyOwner_at_order, waitEnded_some hb]; rfl

/-- R36: the end of a wait with its notice, the vehicle's record already written anew. -/
theorem cancelWait_clean (h : s.waitClean v = true) {r : VehicleRec} (hw : r.waitingOn = (s.vehicle v).waitingOn)
    (ho : r.owner = (s.vehicle v).owner) (hh : r.holds = (s.vehicle v).holds) : (s.setVehicle v r).cancelWait v =
      ((s.waitTold v).setVehicle v { r with waitingOn := none }, false) := by
  have hclean : (s.setVehicle v r).waitClean v = true := by
    rw [State.waitClean, setVehicle_same, hw]; exact h
  unfold State.cancelWait State.waitTold
  rw [endWait_clean hclean, setVehicle_same, hw]
  cases hb : (s.vehicle v).waitingOn with
  | none =>
    have hr : ({ r with waitingOn := none } : VehicleRec) = r := by rw [← hb, ← hw]
    rw [waitEnded_none (by rw [setVehicle_same, hw, hb]), hr]
    rfl
  | some b =>
    have e : (s.setVehicle v r).waitEnded v = (s.waitEnded v).setVehicle v { r with waitingOn := none } := by
      rw [waitEnded_some (b := b) (by rw [setVehicle_same, hw, hb]), waitEnded_some hb, setVehicle_same,
        removeEntry_setVehicle, setVehicle_setVehicle, setVehicle_setVehicle]
    dsimp only
    rw [e, setVehicle_same, notifyOwner_setVehicle, ho, hh]
    rfl

/-! ## The stall of a vehicle -/

/-- R72: the record of a vehicle that stalls, its wait ended. -/
def VehicleRec.stalled (r : VehicleRec) (c : StallCause) : VehicleRec := { r.stall c with waitingOn := none }

/-- No order that the vehicle's order field names is damaged. -/
def State.orderClean (s : State) (v : VehicleId) : Prop :=
  ∀ o r, (s.vehicle v).order = some o → s.order o = some r → r.flips = []

theorem readOrderOf_clean (h : s.orderClean v) : s.readOrderOf v = (s, false) := by
  unfold State.readOrderOf
  cases ho : (s.vehicle v).order with
  | none => rfl
  | some o =>
    dsimp only
    cases hr : s.order o with
    | none => exact readOrder_none hr
    | some r => exact readOrder_clean hr (h o r ho hr)

/-- R72: a stall with clean records, up to the order's handling. -/
theorem stall_clean (hw : s.waitClean v = true) (ho : s.orderClean v) (c : StallCause) : s.stall v c =
    let t := ((s.waitTold v).setVehicle v ((s.vehicle v).stalled c)).stallOrder v (s.vehicle v).state
    (t.1.noteVehicle v (s.vehicle v).state, ⟨t.2, false⟩) := by
  have hcancel : (s.setVehicle v ((s.vehicle v).stall c)).cancelWait v =
      ((s.waitTold v).setVehicle v ((s.vehicle v).stalled c), false) := cancelWait_clean hw rfl rfl rfl
  have hclean : ((s.waitTold v).setVehicle v ((s.vehicle v).stalled c)).orderClean v := by
    intro o r hvo hr
    rw [setVehicle_same] at hvo
    rw [setVehicle_at_order, waitTold_order] at hr
    exact ho o r hvo hr
  unfold State.stall
  dsimp only
  rw [State.updVehicle, hcancel]
  dsimp only
  rw [readOrderOf_clean hclean]
  rfl

theorem stallOrder_kept {was : VState} (h : was = .idle ∨ was = .loadedIdle ∨ was = .withdrawn) :
    s.stallOrder v was = (s, none) := by
  unfold State.stallOrder
  rcases h with rfl | rfl | rfl <;> cases (s.vehicle v).order <;> rfl

theorem stallOrder_requeued {was : VState} {o : Slot} {r : OrderRec} (h : was = .offered ∨ was = .toSource)
    (ho : (s.vehicle v).order = some o) (hr : s.order o = some r) : s.stallOrder v was =
      (((s.requeue o v .stalled).setVehicle v { s.vehicle v with
        order := none, saved := some (if was = .offered ∧ r.bound = some v then .loadedIdle else .idle) }).notifyOwner
        (s.vehicle v).owner (.withdraw v o .stalled), some (o, .requeued)) := by
  unfold State.stallOrder
  rw [ho]
  dsimp only
  rcases h with rfl | rfl
  · dsimp only
    rw [State.updVehicle, State.noteWithdraw, setVehicle_same, requeue_at_vehicle, boundTo_iff v hr]
    by_cases hb : r.bound = some v <;> simp [hb]
  · dsimp only
    rw [State.updVehicle, State.noteWithdraw, setVehicle_same, requeue_at_vehicle, if_neg (by simp)]

theorem stallOrder_suspended {o : Slot} {r : OrderRec} (ho : (s.vehicle v).order = some o) (hr : s.order o = some r) :
    s.stallOrder v .toDest = ((s.setOrder o (some { r with suspended := true })).noteOrder o { r with suspended := true }
      .suspended none, some (o, .suspended)) := by
  rw [State.stallOrder, ho]
  dsimp only
  rw [State.suspend, hr]

theorem faultFields_suspended (saved : Option VState) (order : Option Slot) :
    faultFields saved (order.map fun o => (o, .suspended)) = Enc.opt1 (fun x => [VState.code x]) saved ++
      match order with
      | some o => Enc.slot o ++ [Disposition.suspended.code]
      | none => [0xFF, 0xFF, 0xFF] := by
  unfold faultFields
  rw [List.append_assoc]
  cases order <;> rfl

/-- What FAULT does with the vehicle it names. -/
def faultGo (v : VehicleId) (s : State) : State × Answer :=
  if (s.vehicle v).state = .stalled then (s, .plain .state)
  else ((s.stall v .fault).1, ⟨okOr (s.stall v .fault).2.bad,
    faultFields ((s.stall v .fault).1.vehicle v).saved (s.stall v .fault).2.order⟩)

theorem faultBody_eq {vehicle : Byte} (hv : vehicle? vehicle = some v) : faultBody l vehicle s =
    s.withOwned l v (fun s => faultFields (s.vehicle v).saved ((s.vehicle v).order.map fun o => (o, .suspended)))
      (faultGo v) := by
  rw [faultBody, hv]; rfl

theorem exec_silenceExpiry (v : VehicleId) (s : State) : exec (.silenceExpiry v) s = execSilenceExpiry v s := rfl

/-- Settles O30: the stall of a vehicle, FAULT and the end of the silence countdown. -/
theorem stallOfAVehicle : Obligations.StallOfAVehicle := by
  unfold Obligations.StallOfAVehicle
  have faults {h : Hdr} {vehicle : Byte} {s t : State} {a : Answer} (hready : s.ready h .bay)
      (e : faultBody h.link vehicle s = (t, a)) : exec (.fault h vehicle) s = .next (t.answered h .fault a.code a.fields) :=
    request_hunts (takes_of_ready hready rfl rfl) (faultBody_hunts _ _) e
  refine ⟨fun s v c hw ho => ⟨fun hst => ?_, fun o r hvo hr hst => ?_, fun o r hvo hr hst => ?_⟩,
    fun h vehicle s v hready hv hf => ?_, fun h vehicle s v hready hv hf hl => ⟨fun hst => ?_, fun hst hgood => ?_⟩,
    fun s v => ⟨fun hsil hoff hst => ⟨fun hf => ?_, fun hf => ?_⟩, fun hsil => ?_⟩⟩
  · refine (stall_clean hw ho c).trans ?_
    rw [stallOrder_kept hst]
    rfl
  · refine (stall_clean hw ho c).trans ?_
    rw [stallOrder_requeued (o := o) (r := r) hst (by rw [setVehicle_same]; exact hvo)
      (by rw [setVehicle_at_order, waitTold_order]; exact hr), setVehicle_same]
    rfl
  · refine (stall_clean hw ho c).trans ?_
    rw [hst, stallOrder_suspended (o := o) (r := r) (by rw [setVehicle_same]; exact hvo)
      (by rw [setVehicle_at_order, waitTold_order]; exact hr)]
    rw [VehicleRec.stalled, VehicleRec.stall, hst, hvo]
    rfl
  · refine (faults hready ((faultBody_eq hv).trans (withOwned_eq_damaged hf _ _))).trans ?_
    unfold State.answeredDamaged
    rw [faultFields_suspended] <;> rfl
  · exact faults hready (a := .plain .state)
      ((faultBody_eq hv).trans ((withOwned_eq_go hf hl _ _).trans (if_pos hst)))
  · have hbody := (faultBody_eq hv).trans ((withOwned_eq_go hf hl _ _).trans (if_neg hst))
    rw [hgood] at hbody
    exact faults hready hbody
  · rw [exec_silenceExpiry, execSilenceExpiry, (silent_iff _).mpr ⟨hsil, hoff, hst⟩, readVehicle_clean hf]
    rfl
  · have hbad := readVehicle_damaged hf
    rw [exec_silenceExpiry, execSilenceExpiry, (silent_iff _).mpr ⟨hsil, hoff, hst⟩]
    dsimp only
    rw [if_pos hbad]
    rfl
  · have hno : (s.vehicle v).silent = false := Bool.eq_false_iff.mpr fun h => hsil ((silent_iff _).mp h).1
    rw [exec_silenceExpiry, execSilenceExpiry, hno]
    rfl

end Sys2Proof.Machine
end

section
/-! The arbiters (R43 to R47, R55). -/

namespace Sys2Proof.Machine

variable {s : State}

theorem bid_eq (s : State) (x : Waiter) : s.bid x =
    (match (s.vehicle x.vehicle).order.bind s.order with
     | some r =>
       match r.cls with
       | .hot => s.weights.hot.toNat
       | .express => s.weights.express.toNat
       | .standard => s.weights.standard.toNat
       | .bulk => s.weights.bulk.toNat
     | none => s.weights.none.toNat)
    + min 55 ((s.msBase - x.entry).toNat / (s.timing.aging.toNat * 100)) := by
  have hweight : s.weightOf x.vehicle = match (s.vehicle x.vehicle).order.bind s.order with
      | some r =>
        match r.cls with
        | .hot => s.weights.hot.toNat
        | .express => s.weights.express.toNat
        | .standard => s.weights.standard.toNat
        | .bulk => s.weights.bulk.toNat
      | none => s.weights.none.toNat := by
    unfold State.weightOf
    cases (s.vehicle x.vehicle).order.bind s.order with
    | none => rfl
    | some r => dsimp only; cases r.cls <;> rfl
  rw [← hweight]; rfl

/-! ## When no arbiter acts -/

theorem contested_iff (r : BlockRec) : r.contested = true ↔ r.holder = .none ∧ r.frozen = false ∧ r.waiters ≠ [] := by
  simp [BlockRec.contested, and_assoc]

/-- R43: the arbiter of a clean block does nothing when the mode, a fence or the block's record forbids it. -/
theorem arbitrate_idle {b : BlockId} (hf : (s.block b).flips = [])
    (h : s.mode = .halted ∨ s.fenced b = true ∨ (s.block b).holder ≠ .none ∨ (s.block b).frozen = true ∨
      (s.block b).waiters = []) : s.arbitrate b = (s, false) := by
  unfold State.arbitrate
  by_cases hm : s.mode = .halted ∨ s.fenced b = true
  · rw [if_pos hm]
  · have hc : ¬(s.block b).contested = true := fun hc => by
      obtain ⟨hholder, hfrozen, hw⟩ := (contested_iff _).mp hc
      rcases h with h | h | h | h | h
      · exact hm (.inl h)
      · exact hm (.inr h)
      · exact h hholder
      · rw [hfrozen] at h; exact Bool.false_ne_true h
      · exact hw h
    rw [if_neg hm, readBlock_clean hf]
    dsimp only
    rw [if_pos (.inr (by simpa using hc))]

theorem askArbiter_idle {b : BlockId} (hf : (s.block b).flips = [])
    (h : s.mode = .halted ∨ s.fenced b = true ∨ (s.block b).holder ≠ .none ∨ (s.block b).frozen = true ∨
      (s.block b).waiters = []) : s.askArbiter b = s := congrArg Prod.fst (arbitrate_idle hf h)

/-! ## The choice (R46) -/

/-- R46: one entry is chosen before another. -/
def State.beats (s : State) (w x : Waiter) : Prop := s.bid x < s.bid w ∨ (s.bid x = s.bid w ∧ w.seq < x.seq)

theorem better_left {w x : Waiter} (h : s.beats w x) : s.better w x = w := by
  unfold State.better
  rcases h with h | ⟨h, hseq⟩
  · rw [if_pos h]
  · have hnot : ¬x.seq < w.seq := fun h' => BitVec.lt_asymm hseq h'
    rw [if_neg (by omega), if_neg (by omega), if_neg hnot]

theorem better_right {w x : Waiter} (h : s.beats w x) : s.better x w = w := by
  unfold State.better
  rcases h with h | ⟨h, hseq⟩
  · rw [if_neg (by omega), if_pos h]
  · rw [if_neg (by omega), if_neg (by omega), if_pos hseq]

theorem better_self (w : Waiter) : s.better w w = w := by simp [State.better]

theorem better_mem (a b : Waiter) : s.better a b = a ∨ s.better a b = b := by
  unfold State.better
  split
  · exact .inl rfl
  · split
    · exact .inr rfl
    · split
      · exact .inr rfl
      · exact .inl rfl

theorem foldl_better {w : Waiter} : ∀ (ws : List Waiter) (a : Waiter), a = w ∨ w ∈ ws →
    (∀ x, x = a ∨ x ∈ ws → x ≠ w → s.beats w x) → ws.foldl s.better a = w
  | [], a, hw, _ => hw.resolve_right List.not_mem_nil
  | x :: ws, a, hw, hbeat => by
    have ha : a ≠ w → s.beats w a := hbeat a (.inl rfl)
    have hx : x ≠ w → s.beats w x := hbeat x (.inr (List.mem_cons_self ..))
    refine foldl_better ws (s.better a x) ?_ fun y hy hne => ?_
    · by_cases haw : a = w
      · subst haw
        by_cases hxw : x = a
        · rw [hxw]; exact .inl (better_self a)
        · exact .inl (better_left (hx hxw))
      · rcases List.mem_cons.mp (hw.resolve_left haw) with e | hmem
        · subst e; exact .inl (better_right (ha haw))
        · exact .inr hmem
    · rcases hy with rfl | hmem
      · rcases better_mem (s := s) a x with e | e <;> rw [e] at hne ⊢
        · exact ha hne
        · exact hx hne
      · exact hbeat y (.inr (List.mem_cons_of_mem _ hmem)) hne

theorem winner_eq {w : Waiter} {ws : List Waiter} (hw : w ∈ ws) (h : ∀ x ∈ ws, x ≠ w → s.beats w x) :
    s.winner ws = some w := by
  cases ws with
  | nil => cases hw
  | cons a ws =>
    refine congrArg some (foldl_better ws a ?_ fun x hx => h x (List.mem_cons.mpr hx))
    exact (List.mem_cons.mp hw).imp Eq.symm id

/-! ## The award (R47) -/

theorem setVehicle_setBlock (s : State) (v : VehicleId) (r : VehicleRec) (b : BlockId) (q : BlockRec) :
    (s.setVehicle v r).setBlock b q = (s.setBlock b q).setVehicle v r := rfl

theorem award_eq (s : State) (b : BlockId) (w : Waiter) : s.award b w =
    ((s.setBlock b { s.block b with
      holder := .vehicle w.vehicle, waiters := (s.block b).waiters.filter (fun x => x.vehicle ≠ w.vehicle) }).setVehicle
      w.vehicle { s.vehicle w.vehicle with
        waitingOn := none, holds := (s.vehicle w.vehicle).holds ++ [b] }).notifyOwner (s.vehicle w.vehicle).owner
      (.grant w.vehicle b ((s.vehicle w.vehicle).holds.length + 1) (s.bid w)) := by
  have hfilter : ((s.block b).waiters.filter fun x => !x.isOf w.vehicle) =
      (s.block b).waiters.filter fun x => x.vehicle ≠ w.vehicle :=
    List.filter_congr fun x _ => by simp [Waiter.isOf]
  unfold State.award State.grant State.removeEntry
  simp only [State.updBlock, State.updVehicle, setBlock_at_vehicle, setVehicle_at_block, setBlock_same, setVehicle_same,
    setVehicle_setBlock, setBlock_setBlock, setVehicle_setVehicle, hfilter, List.length_append, List.length_singleton]

/-- R55: the reads of waiters whose records, and their orders', are clean. -/
theorem readWaiter_same {v : VehicleId} (hv : (s.vehicle v).flips = [])
    (ho : ∀ o r, (s.vehicle v).order = some o → s.order o = some r → r.flips = []) : s.readWaiter v = (s, false) := by
  unfold State.readWaiter
  rw [readVehicle_clean hv]
  dsimp only
  cases e : (s.vehicle v).order with
  | none => rfl
  | some o =>
    dsimp only
    cases hr : s.order o with
    | none => rw [readOrder_none hr]; rfl
    | some r => rw [readOrder_clean hr (ho o r e hr)]; rfl

theorem readWaiters_same : ∀ ws : List Waiter, (∀ x ∈ ws, (s.vehicle x.vehicle).flips = [] ∧
    ∀ o r, (s.vehicle x.vehicle).order = some o → s.order o = some r → r.flips = []) →
    State.readWaiters ws s = (s, false)
  | [], _ => rfl
  | w :: ws, h => by
    obtain ⟨hv, ho⟩ := h w (List.mem_cons_self ..)
    rw [State.readWaiters, readWaiter_same hv ho]
    dsimp only
    rw [readWaiters_same ws fun x hx => h x (List.mem_cons_of_mem _ hx)]
    rfl

/-- R43 to R47: the arbiter of a contested block, its waiters' records clean. -/
theorem askArbiter_contested {b : BlockId} (hm : s.mode ≠ .halted) (hfence : s.fenced b = false)
    (hf : (s.block b).flips = []) (hc : (s.block b).contested = true)
    (hw : ∀ x ∈ (s.block b).waiters, (s.vehicle x.vehicle).flips = [] ∧
      ∀ o r, (s.vehicle x.vehicle).order = some o → s.order o = some r → r.flips = []) :
    s.askArbiter b = match s.winner (s.block b).waiters with
      | some w => s.award b w
      | none => s := by
  have hgo : ¬(s.mode = .halted ∨ s.fenced b = true) := fun h => h.elim hm (by rw [hfence]; exact Bool.false_ne_true)
  unfold State.askArbiter State.arbitrate
  rw [if_neg hgo, readBlock_clean hf]
  dsimp only
  rw [if_neg (by rw [hc]; decide), readWaiters_same _ hw]
  dsimp only
  rw [if_pos hc]
  cases s.winner (s.block b).waiters <;> rfl

/-- Settles O29: the arbiter grants the highest bid, or does nothing. -/
theorem arbiterGrantsHighestBid : Obligations.ArbiterGrantsHighestBid := by
  unfold Obligations.ArbiterGrantsHighestBid
  refine ⟨bid_eq, fun s b hf h => askArbiter_idle hf h, fun s b w hm hfence hf hholder hfrozen hw hbeat hclean => ?_⟩
  have hc : (s.block b).contested = true := (contested_iff _).mpr ⟨hholder, hfrozen, List.ne_nil_of_mem hw⟩
  rw [askArbiter_contested hm hfence hf hc hclean, winner_eq hw hbeat]
  exact award_eq s b w

end Sys2Proof.Machine
end

section
/-! Releases (R31, R41): runs of releases at which no arbiter acts, and what every run leaves alone. -/

namespace Sys2Proof.Machine

variable {s : State} {v : VehicleId}

/-! ## Blocks freed, no arbiter acting -/

theorem freed_at_block (s : State) (v : VehicleId) (bs : List BlockId) (x : BlockId) : (s.freed v bs).block x =
    if x ∈ bs ∧ (s.block x).frozen = false then { s.block x with holder := .none } else s.block x :=
  Vector.getElem_ofFn x.isLt

theorem freed_vehicle (s : State) (v : VehicleId) (bs : List BlockId) : (s.freed v bs).vehicle v =
    { s.vehicle v with holds := (s.vehicle v).holds.filter (· ∉ bs) } := Vector.getElem_set_self ..

theorem freed_other (s : State) (bs : List BlockId) {w : VehicleId} (h : w ≠ v) :
    (s.freed v bs).vehicle w = s.vehicle w :=
  Vector.getElem_set_ne v.isLt w.isLt fun e => h (Fin.ext e.symm)

theorem freed_flips (s : State) (v : VehicleId) (bs : List BlockId) (x : BlockId) :
    ((s.freed v bs).block x).flips = (s.block x).flips := by
  rw [freed_at_block]; split <;> rfl

theorem freed_waiters (s : State) (v : VehicleId) (bs : List BlockId) (x : BlockId) :
    ((s.freed v bs).block x).waiters = (s.block x).waiters := by
  rw [freed_at_block]; split <;> rfl

theorem freed_frozen (s : State) (v : VehicleId) (bs : List BlockId) (x : BlockId) :
    ((s.freed v bs).block x).frozen = (s.block x).frozen := by
  rw [freed_at_block]; split <;> rfl

theorem freed_vehicle_flips (s : State) (v : VehicleId) (bs : List BlockId) (w : VehicleId) :
    ((s.freed v bs).vehicle w).flips = (s.vehicle w).flips := by
  by_cases h : w = v
  · rw [h, freed_vehicle]
  · rw [freed_other s bs h]

/-- Blocks and vehicles may differ, and nothing else. -/
def TablesOnly (s t : State) : Prop := t = { s with blocks := t.blocks, vehicles := t.vehicles }

theorem TablesOnly.refl (s : State) : TablesOnly s s := rfl

theorem TablesOnly.trans {s t u : State} (h : TablesOnly s t) (k : TablesOnly t u) : TablesOnly s u := by
  unfold TablesOnly at *
  rw [k, h]

theorem TablesOnly.freed (s : State) (v : VehicleId) (bs : List BlockId) : TablesOnly s (s.freed v bs) := by
  unfold State.freed; rfl

theorem TablesOnly.setBlock (s : State) (b r) : TablesOnly s (s.setBlock b r) := rfl

theorem TablesOnly.setVehicle (s : State) (v r) : TablesOnly s (s.setVehicle v r) := rfl

/-- Two states that differ from one in blocks and vehicles alone are equal when those are. -/
theorem tables_ext {s t u : State} (ht : TablesOnly s t) (hu : TablesOnly s u) (hb : ∀ b, t.block b = u.block b)
    (hv : ∀ v, t.vehicle v = u.vehicle v) : t = u := by
  have eb : t.blocks = u.blocks := Vector.ext fun i hi => hb ⟨i, hi⟩
  have ev : t.vehicles = u.vehicles := Vector.ext fun i hi => hv ⟨i, hi⟩
  unfold TablesOnly at ht hu
  rw [ht, hu, eb, ev]

theorem freed_nil (s : State) (v : VehicleId) : s.freed v [] = s := by
  refine tables_ext (.freed s v []) (.refl s) (fun b => ?_) fun w => ?_
  · rw [freed_at_block, if_neg fun h => List.not_mem_nil h.1]
  · by_cases h : w = v
    · subst h
      rw [freed_vehicle]
      have e : (s.vehicle w).holds.filter (· ∉ ([] : List BlockId)) = (s.vehicle w).holds :=
        List.filter_eq_self.mpr fun a _ => by simp
      rw [e]
    · rw [freed_other s [] h]

theorem freed_cons (s : State) (v : VehicleId) (b : BlockId) (bs : List BlockId) :
    s.freed v (b :: bs) = (s.freed v [b]).freed v bs := by
  refine tables_ext (.freed s v _) ((TablesOnly.freed s v _).trans (.freed _ v _)) (fun x => ?_) fun w => ?_
  · rw [freed_at_block, freed_at_block, freed_frozen, freed_at_block]
    by_cases hf : (s.block x).frozen = false
    · by_cases hx : x = b
      · subst hx; simp [hf]
      · by_cases hbs : x ∈ bs <;> simp [hf, hx, hbs]
    · simp [hf]
  · by_cases h : w = v
    · subst h
      rw [freed_vehicle, freed_vehicle, freed_vehicle]
      dsimp only
      rw [List.filter_filter]
      have e : (s.vehicle w).holds.filter (· ∉ b :: bs) =
          (s.vehicle w).holds.filter fun a => decide (a ∉ bs) && decide (a ∉ [b]) :=
        List.filter_congr fun a _ => by simp [Bool.and_comm]
      rw [e]
    · rw [freed_other _ _ h, freed_other _ _ h, freed_other _ _ h]

/-- R43: no arbiter acts at the block. -/
def State.quietAt (s : State) (b : BlockId) : Prop :=
  (s.block b).flips = [] ∧ (s.mode = .halted ∨ s.fenced b = true ∨ (s.block b).waiters = [])

theorem quiet_iff (bs : List BlockId) : s.quiet bs = true ↔ ∀ b ∈ bs, s.quietAt b := by
  simp [State.quiet, State.quietAt, or_assoc]

theorem freed_mode (s : State) (v : VehicleId) (bs : List BlockId) : (s.freed v bs).mode = s.mode := by
  simp only [State.freed]

theorem freed_fenced (s : State) (v : VehicleId) (bs : List BlockId) (b : BlockId) :
    (s.freed v bs).fenced b = s.fenced b := by
  simp only [State.freed, State.fenced]

theorem quietAt_freed {b : BlockId} (bs : List BlockId) (h : s.quietAt b) : (s.freed v bs).quietAt b := by
  unfold State.quietAt
  rw [freed_flips, freed_waiters, freed_mode, freed_fenced]
  exact h

/-- R31: one release at which no arbiter acts. -/
theorem release_quiet {b : BlockId} (h : s.quietAt b) : s.release v b = (s.freed v [b], false) := by
  obtain ⟨hf, hq⟩ := h
  have hholds : ((s.vehicle v).holds.filter (· ≠ b)) = (s.vehicle v).holds.filter (· ∉ [b]) :=
    List.filter_congr fun a _ => by simp
  unfold State.release
  dsimp only
  by_cases hfrozen : (s.block b).frozen = true
  · rw [if_pos hfrozen]
    refine Prod.ext (tables_ext (.setVehicle s v _) (.freed s v [b]) (fun x => ?_) fun w => ?_) rfl
    · rw [freed_at_block, if_neg]
      · rfl
      · rintro ⟨hx, hfx⟩
        rw [List.mem_singleton.mp hx, hfrozen] at hfx
        exact Bool.false_ne_true hfx.symm
    · rw [State.updVehicle, setVehicle_read, hholds]
      split
      · next e => rw [e, freed_vehicle]
      · next e => rw [freed_other s [b] e]
  · have hfrozen' : (s.block b).frozen = false := by simpa using hfrozen
    rw [if_neg hfrozen, arbitrate_idle]
    · refine Prod.ext (tables_ext ((TablesOnly.setVehicle s v _).trans (.setBlock _ b _)) (.freed s v [b])
        (fun x => ?_) fun w => ?_) rfl
      · rw [State.updBlock, setBlock_read, freed_at_block]
        split
        · next e => rw [e, if_pos ⟨List.mem_singleton.mpr rfl, hfrozen'⟩]; rfl
        · next e => rw [if_neg fun h => e (List.mem_singleton.mp h.1)]; rfl
      · rw [State.updBlock, setBlock_at_vehicle, State.updVehicle, setVehicle_read, hholds]
        split
        · next e => rw [e, freed_vehicle]
        · next e => rw [freed_other s [b] e]
    · rw [State.updBlock, setBlock_same]; exact hf
    · rcases hq with hq | hq | hq
      · exact .inl hq
      · exact .inr (.inl hq)
      · refine .inr (.inr (.inr (.inr ?_)))
        rw [State.updBlock, setBlock_same]; exact hq

theorem releaseUntil_quiet (v : VehicleId) : ∀ (bs : List BlockId) {s : State}, (∀ b ∈ bs, s.quietAt b) →
    State.releaseUntil s v bs = (s.freed v bs, ⟨bs.length, none, false⟩)
  | [], s, _ => by rw [freed_nil]; rfl
  | b :: bs, s, h => by
    have hb := h b (List.mem_cons_self ..)
    have hrest : ∀ x ∈ bs, (s.freed v [b]).quietAt x := fun x hx => quietAt_freed _ (h x (List.mem_cons_of_mem _ hx))
    rw [State.releaseUntil, readBlock_clean hb.1]
    dsimp only
    rw [release_quiet hb]
    dsimp only
    rw [releaseUntil_quiet v bs hrest, ← freed_cons, List.length_cons]
    rfl

theorem releaseEvery_quiet (v : VehicleId) : ∀ (bs : List BlockId) {s : State}, (∀ b ∈ bs, s.quietAt b) →
    State.releaseEvery s v bs = (s.freed v bs, ⟨bs.length, none, false⟩)
  | [], s, _ => by rw [freed_nil]; rfl
  | b :: bs, s, h => by
    have hb := h b (List.mem_cons_self ..)
    have hrest : ∀ x ∈ bs, (s.freed v [b]).quietAt x := fun x hx => quietAt_freed _ (h x (List.mem_cons_of_mem _ hx))
    rw [State.releaseEvery, readBlock_clean hb.1]
    dsimp only
    rw [release_quiet hb]
    dsimp only
    rw [releaseEvery_quiet v bs hrest, ← freed_cons]
    rfl

/-- R41: a run of releases stops at the block found damaged. -/
theorem releaseUntil_stops (v : VehicleId) {d : BlockId} (pre post : List BlockId) (h : ∀ b ∈ pre, s.quietAt b)
    (hd : ((s.freed v pre).block d).flips.length = 2) : State.releaseUntil s v (pre ++ d :: post) =
      ((read (.block d) (s.freed v pre)).1, ⟨pre.length, some d, true⟩) := by
  induction pre generalizing s with
  | nil =>
    rw [freed_nil] at hd ⊢
    have hbad := readBlock_damaged hd
    rw [List.nil_append, State.releaseUntil]
    exact if_pos hbad
  | cons b pre ih =>
    have hb := h b (List.mem_cons_self ..)
    have hrest : ∀ x ∈ pre, (s.freed v [b]).quietAt x := fun x hx => quietAt_freed _ (h x (List.mem_cons_of_mem _ hx))
    rw [freed_cons] at hd ⊢
    rw [List.cons_append, State.releaseUntil, readBlock_clean hb.1]
    dsimp only
    rw [release_quiet hb]
    dsimp only
    rw [ih hrest hd, List.length_cons, Bool.or_true, if_neg Bool.false_ne_true]

/-! ## What track operations leave alone -/

/-- Blocks, holding lists, waits, links and the capture record may differ, and nothing else. -/
structure TrackOnly (s t : State) : Prop where
  others : t = { s with
    blocks := t.blocks, vehicles := t.vehicles, links := t.links, capture := t.capture, corrections := t.corrections }
  records : ∀ v, t.vehicle v = { s.vehicle v with holds := (t.vehicle v).holds, waitingOn := (t.vehicle v).waitingOn }

theorem TrackOnly.refl (s : State) : TrackOnly s s := ⟨rfl, fun _ => rfl⟩

theorem TrackOnly.trans {s t u : State} (h : TrackOnly s t) (k : TrackOnly t u) : TrackOnly s u := by
  refine ⟨?_, fun v => ?_⟩
  · rw [k.others, h.others]
  · rw [k.records v, h.records v]

theorem TrackOnly.setBlock (s : State) (b r) : TrackOnly s (s.setBlock b r) := ⟨rfl, fun _ => rfl⟩

theorem TrackOnly.setVehicle (s : State) (v : VehicleId) (holds : List BlockId) (wait : Option BlockId) :
    TrackOnly s (s.setVehicle v { s.vehicle v with holds := holds, waitingOn := wait }) := by
  refine ⟨rfl, fun w => ?_⟩
  rw [setVehicle_read]
  split
  · next e => rw [e]
  · rfl

theorem TrackOnly.notifyOwner (s : State) (owner n) : TrackOnly s (s.notifyOwner owner n) := by
  refine ⟨?_, fun w => ?_⟩
  · rw [notifyOwner_others]
  · rw [notifyOwner_at_vehicle]

theorem TrackOnly.award (s : State) (b w) : TrackOnly s (s.award b w) := by
  rw [award_eq]
  exact ((TrackOnly.setBlock s b _).trans (.setVehicle _ _ _ _)).trans (.notifyOwner ..)

theorem TrackOnly.askArbiter (h : s.clean = true) (b : BlockId) : TrackOnly s (s.askArbiter b) := by
  by_cases hgo : s.mode ≠ .halted ∧ s.fenced b = false ∧ (s.block b).contested = true
  · obtain ⟨hm, hfence, hc⟩ := hgo
    rw [askArbiter_contested hm hfence (clean_block h b) hc fun x _ => ⟨clean_vehicle h _, fun o r _ => clean_order h⟩]
    split
    · exact .award ..
    · exact .refl s
  · rw [askArbiter_idle (clean_block h b)]
    · exact .refl s
    · by_contra hno
      simp only [not_or] at hno
      obtain ⟨hm, hfence, hholder, hfrozen, hw⟩ := hno
      exact hgo ⟨hm, by simpa using hfence, (contested_iff _).mpr ⟨not_not.mp hholder, by simpa using hfrozen, hw⟩⟩

theorem TrackOnly.releasedInTurn (v : VehicleId) : ∀ (bs : List BlockId) {s : State}, s.clean = true →
    TrackOnly s (s.releasedInTurn v bs)
  | [], s, _ => .refl s
  | b :: bs, s, h => by
    have hnext := (release_clean h v b).2
    have hstep : TrackOnly s (s.releasedInTurn v [b]) := by
      have ht : TrackOnly s (s.setVehicle v { s.vehicle v with holds := (s.vehicle v).holds.filter (· ≠ b) }) :=
        .setVehicle s v _ _
      have hclean := clean_setVehicle h v (r := { s.vehicle v with holds := (s.vehicle v).holds.filter (· ≠ b) })
        (clean_vehicle h v)
      unfold State.releasedInTurn
      dsimp only
      split
      · exact ht
      · refine (ht.trans (.setBlock _ b _)).trans (.askArbiter (clean_setBlock hclean b ?_) b)
        exact clean_block hclean b
    exact hstep.trans (TrackOnly.releasedInTurn v bs hnext)

theorem TrackOnly.freed (s : State) (v : VehicleId) (bs : List BlockId) : TrackOnly s (s.freed v bs) := by
  refine ⟨by unfold State.freed; rfl, fun w => ?_⟩
  by_cases h : w = v
  · rw [h, freed_vehicle]
  · rw [freed_other s bs h]

theorem TrackOnly.waitEnded (s : State) (v : VehicleId) : TrackOnly s (s.waitEnded v) := by
  cases hb : (s.vehicle v).waitingOn with
  | none => rw [waitEnded_none hb]; exact .refl s
  | some b => rw [waitEnded_some hb]; exact (TrackOnly.setBlock s b _).trans (.setVehicle (s.removeEntry b v) v _ _)

end Sys2Proof.Machine
end

section
/-! LEAVE (R39, R67). -/

namespace Sys2Proof.Machine

variable {s : State} {v : VehicleId}

/-! ## The end of a wait, and releases after it -/

theorem waitClean_of_clean (h : s.clean = true) : s.waitClean v = true := by
  unfold State.waitClean
  cases (s.vehicle v).waitingOn with
  | none => rfl
  | some b => exact List.isEmpty_iff.mpr (clean_block h b)

theorem clean_waitEnded (h : s.clean = true) : (s.waitEnded v).clean = true := by
  cases hb : (s.vehicle v).waitingOn with
  | none => rw [waitEnded_none hb]; exact h
  | some b =>
    have hentry : (s.removeEntry b v).clean = true := clean_setBlock h b (clean_block h b)
    rw [waitEnded_some hb]; exact clean_setVehicle hentry v (clean_vehicle h v)

theorem waitEnded_vehicle : (s.waitEnded v).vehicle v = { s.vehicle v with waitingOn := none } := by
  cases hb : (s.vehicle v).waitingOn with
  | none => rw [waitEnded_none hb, ← hb]
  | some b => rw [waitEnded_some hb, setVehicle_same]

theorem waitEnded_other {w : VehicleId} (h : w ≠ v) : (s.waitEnded v).vehicle w = s.vehicle w := by
  cases hb : (s.vehicle v).waitingOn with
  | none => rw [waitEnded_none hb]
  | some b => rw [waitEnded_some hb, setVehicle_other _ _ h]; rfl

theorem waitEnded_at_block (x : BlockId) : ((s.waitEnded v).block x).flips = (s.block x).flips ∧
    ((s.block x).waiters = [] → ((s.waitEnded v).block x).waiters = []) := by
  cases hb : (s.vehicle v).waitingOn with
  | none => rw [waitEnded_none hb]; exact ⟨rfl, id⟩
  | some b =>
    rw [waitEnded_some hb, setVehicle_at_block, State.removeEntry, State.updBlock, setBlock_read]
    split
    · next e => exact ⟨by rw [e], fun h => by rw [e] at h; rw [h]; rfl⟩
    · exact ⟨rfl, id⟩

theorem quietAt_waitEnded {b : BlockId} (h : s.quietAt b) : (s.waitEnded v).quietAt b := by
  obtain ⟨hf, hq⟩ := h
  obtain ⟨hflips, hw⟩ := waitEnded_at_block (s := s) (v := v) b
  have hothers := (TrackOnly.waitEnded s v).others
  have hmode : (s.waitEnded v).mode = s.mode := by rw [hothers]
  have hfence : (s.waitEnded v).fenced b = s.fenced b := by rw [hothers]; rfl
  refine ⟨hflips.trans hf, ?_⟩
  rw [hmode, hfence]
  exact hq.imp_right (Or.imp_right hw)

/-! ## LEAVE -/

/-- R67: what LEAVE does once the blocks have left the holding list. -/
theorem leaveRail_eq {t : State} {n : Nat} (hw : s.waitClean v = true)
    (hrel : State.releaseEvery (s.waitEnded v) v (s.vehicle v).holds = (t, ⟨n, none, false⟩)) : s.leaveRail v =
      ((t.setVehicle v (t.vehicle v).left).noteVehicle v (s.vehicle v).state,
        ⟨.ok, leaveFields n (s.vehicle v).waitingOn none⟩) := by
  have hholds : ((s.waitEnded v).vehicle v).holds = (s.vehicle v).holds := by rw [waitEnded_vehicle]
  unfold State.leaveRail
  rw [endWait_clean hw]
  dsimp only
  rw [hholds, hrel]
  rfl

/-- What LEAVE does with the vehicle it names. -/
def leaveGo (v : VehicleId) (s : State) : State × Answer :=
  if (s.vehicle v).state = .idle ∨ (s.vehicle v).state = .withdrawn then s.leaveRail v else (s, .plain .state)

theorem leaveBody_eq {l : LinkId} {vehicle : Byte} (hv : vehicle? vehicle = some v) :
    leaveBody l vehicle s = s.withOwned l v (fun _ => leaveFields 0 none none) (leaveGo v) := by
  rw [leaveBody, hv]; rfl

theorem freed_holds_self : ((s.vehicle v).holds.filter (· ∉ (s.vehicle v).holds)) = [] :=
  List.filter_eq_nil_iff.mpr fun a ha => by simpa using ha

/-- Settles O25: LEAVE whole. -/
theorem leave : Obligations.Leave := by
  unfold Obligations.Leave
  have answers {h : Hdr} {vehicle : Byte} {s t : State} {a : Answer} (hready : s.ready h .bay)
      (e : leaveBody h.link vehicle s = (t, a)) : exec (.leave h vehicle) s = .next (t.answered h .leave a.code a.fields) :=
    request_hunts (takes_of_ready hready rfl rfl) (leaveBody_hunts _ _) e
  refine ⟨fun h vehicle s v hready hv hf => answers hready ((leaveBody_eq hv).trans (withOwned_eq_damaged hf _ _)),
    fun h vehicle s v hready hv hf hl => ⟨fun hidle hwd => ?_, fun hst => ?_⟩⟩
  all_goals have hbody := (leaveBody_eq (s := s) hv).trans (withOwned_eq_go hf hl _ _)
  · exact answers hready (a := .plain .state) (hbody.trans (if_neg (not_or.mpr ⟨hidle, hwd⟩)))
  · rw [leaveGo, if_pos hst] at hbody
    refine ⟨fun hq hw => ?_, fun hclean => ?_⟩
    · have hq' : ∀ b ∈ (s.vehicle v).holds, (s.waitEnded v).quietAt b := fun b hb =>
        quietAt_waitEnded ((quiet_iff _).mp hq b hb)
      rw [leaveRail_eq hw (releaseEvery_quiet v _ hq'), freed_vehicle, waitEnded_vehicle] at hbody
      dsimp only at hbody
      rw [freed_holds_self] at hbody
      exact answers hready hbody
    · have hrel := (releaseEvery_clean v (s.vehicle v).holds (clean_waitEnded (v := v) hclean)).1
      rw [leaveRail_eq (waitClean_of_clean hclean) hrel] at hbody
      exact answers hready hbody

end Sys2Proof.Machine
end

section
/-! EVICT (R40, R81, R82, R84). -/

namespace Sys2Proof.Machine

variable {s : State} {v : VehicleId}

/-! ## Clean states stay clean -/

theorem freed_at_order (s : State) (v : VehicleId) (bs : List BlockId) (o : Slot) : (s.freed v bs).order o = s.order o := by
  simp only [State.freed, State.order]

theorem clean_freed (h : s.clean = true) (v : VehicleId) (bs : List BlockId) : (s.freed v bs).clean = true := by
  refine clean_of (fun b => ?_) (fun w => ?_) fun o r e => ?_
  · rw [freed_flips]; exact clean_block h b
  · rw [freed_vehicle_flips]; exact clean_vehicle h w
  · rw [freed_at_order] at e; exact clean_order h e

theorem releasePort_orders (s : State) (o p) : (s.releasePort o p).orders = s.orders := by
  unfold State.releasePort
  split
  · split
    · dsimp only; split <;> rfl
    · rfl
  · rfl

theorem releasePort?_orders (s : State) (o) : ∀ p, (s.releasePort? o p).orders = s.orders
  | some p => releasePort_orders s o p
  | none => rfl

/-- A state of the book is clean when its orders are. -/
theorem BookOnly.clean {s t : State} (h : BookOnly s t) (hs : s.clean = true)
    (ho : ∀ o r, t.order o = some r → r.flips = []) : t.clean = true := by
  refine clean_of (fun b => ?_) (fun v => ?_) ho
  · rw [h]; exact clean_block hs b
  · rw [h]; exact clean_vehicle hs v

theorem clean_requeuedTo (h : s.clean = true) (o : Slot) (r : OrderRec) {r' : OrderRec} (cause : OrderCause)
    (hr : r'.flips = []) : (s.requeuedTo o r r' cause).clean = true := by
  refine (BookOnly.requeuedTo s o r r' cause).clean h fun x y e => ?_
  have horders : ((s.releasePort? o r.source).releasePort o r.destInUse).orders = s.orders := by
    rw [releasePort_orders, releasePort?_orders]
  have hset : (((s.releasePort? o r.source).releasePort o r.destInUse).setOrder o (some r')).order x = some y := e
  rw [setOrder_read] at hset
  split at hset
  · exact Option.some.inj hset ▸ hr
  · refine clean_order h (o := x) ?_
    rw [State.order, horders] at hset
    exact hset

theorem clean_requeue (h : s.clean = true) (o : Slot) (v : VehicleId) (cause : OrderCause) :
    (s.requeue o v cause).clean = true := by
  cases hr : s.order o with
  | none => rw [State.requeue, hr]; exact h
  | some r =>
    have hclean : r.flips = [] := clean_order h hr
    have hflips : (r.requeued v).flips = [] := hclean
    have hto := clean_requeuedTo h o r cause hflips
    rw [requeue_eq v cause hr]
    split
    · exact clean_promotedTo (r := (r.requeued v).promoted s.msBase) hto hflips
    · exact hto

theorem clean_freeOrder (h : s.clean = true) (o : Slot) : (s.freeOrder o).clean = true :=
  clean_congr (clean_setOrder h o fun _ e => by cases e) rfl rfl rfl

/-! ## The order of an evicted vehicle -/

/-- R82 step 1: the order that an evicted vehicle works, its record read on `s`. -/
def State.orderEvicted (t s : State) (v : VehicleId) : State :=
  match (s.vehicle v).order with
  | none => t
  | some o =>
    if (s.vehicle v).state = VState.offered ∨ (s.vehicle v).state = VState.toSource then t.requeue o v .evicted
    else match s.order o with
      | some r => (t.noteOrder o r .failed (some .vehicleEvicted)).freeOrder o
      | none => t

theorem evictOrder_eq {t : State} (h : TrackOnly s t) :
    t.evictOrder v = (t.orderEvicted s v, (s.vehicle v).order) := by
  have horder : (t.vehicle v).order = (s.vehicle v).order := by rw [h.records v]
  have hstate : (t.vehicle v).state = (s.vehicle v).state := by rw [h.records v]
  have horders (o : Slot) : t.order o = s.order o := by rw [h.others]; rfl
  unfold State.evictOrder State.orderEvicted
  rw [horder, hstate]
  cases (s.vehicle v).order with
  | none => rfl
  | some o =>
    dsimp only
    have hend : t.endOrder o .failed (some .vehicleEvicted) = match s.order o with
        | some r => (t.noteOrder o r .failed (some .vehicleEvicted)).freeOrder o
        | none => t := by
      unfold State.endOrder
      rw [horders]
      cases s.order o <;> rfl
    cases (s.vehicle v).state
    all_goals simp [hend]

theorem clean_orderEvicted {t : State} (h : t.clean = true) : (t.orderEvicted s v).clean = true := by
  unfold State.orderEvicted
  split
  · exact h
  · split
    · exact clean_requeue h _ v _
    · split
      · exact clean_freeOrder (clean_congr h rfl rfl rfl) _
      · exact h

theorem orderEvicted_vehicle (t : State) (w : VehicleId) : (t.orderEvicted s v).vehicle w = t.vehicle w := by
  unfold State.orderEvicted
  split
  · rfl
  · split
    · exact requeue_at_vehicle ..
    · split <;> rfl

/-- R82 step 3: the binding of a QUEUED order to the vehicle is cleared. -/
theorem unbind_vehicle (w : VehicleId) : (s.unbind v).vehicle w = s.vehicle w := by
  unfold State.unbind; split <;> rfl

/-- R82: what EVICT does once the blocks have left the holding list. -/
theorem evictVehicle_eq {t : State} (bad : Bool) (hclean : s.clean = true) (ht : t.clean = true) (htrack : TrackOnly s t)
    (hrel : State.releaseEvery (s.waitEnded v) v (s.vehicle v).holds = (t, ⟨(s.vehicle v).holds.length, none, false⟩)) :
    s.evictVehicle v bad =
      ((((t.orderEvicted s v).unbind v).setVehicle v (t.vehicle v).evicted).noteVehicle v (s.vehicle v).state,
        ⟨okOr bad, evictFields (s.vehicle v).holds.length (s.vehicle v).order (s.vehicle v).carrier none⟩) := by
  have horder : s.readOrderOf v = (s, false) := readOrderOf_clean fun o r _ => clean_order hclean
  have hholds : ((s.waitEnded v).vehicle v).holds = (s.vehicle v).holds := by rw [waitEnded_vehicle]
  unfold State.evictVehicle
  rw [horder]
  dsimp only
  rw [endWait_clean (waitClean_of_clean hclean)]
  dsimp only
  rw [hholds, hrel]
  dsimp only
  rw [evictOrder_eq htrack]
  dsimp only
  rw [readAll_orders_clean (clean_orderEvicted ht), State.updVehicle, unbind_vehicle, orderEvicted_vehicle]
  dsimp only
  simp only [Bool.or_false, Option.isSome_none, Option.or_none]

/-- What EVICT does with the vehicle it names, its record read. -/
def evictGo (v : VehicleId) (s : State) (bad : Bool) : State × Answer :=
  if (s.vehicle v).state = .offline then
    (s, if bad then ⟨.integrity, evictFields 0 none .none none⟩ else .plain .state)
  else s.evictVehicle v bad

theorem evictBody_eq {vehicle : Byte} (hv : vehicle? vehicle = some v) :
    evictBody vehicle s = evictGo v (s.readVehicle v).1 (s.readVehicle v).2 := by rw [evictBody, hv]; rfl

/-- R138: in SETUP the repair of a vehicle leaves it OFFLINE. -/
theorem readVehicle_damaged_setup (h : (s.vehicle v).flips.length = 2) (hm : s.mode = .setup) :
    ((read (.vehicle v) s).1.vehicle v).state = .offline := by
  have e := reads_vehicle_damaged (f := .access) h
  have e' : (read (.vehicle v) s).1 = _ := congrArg Prod.fst e
  rw [e', State.repairVehicle, if_pos (by rw [found_mode]; exact hm), setVehicle_same]
  rfl

/-- Settles O34: EVICT whole. -/
theorem evict : Obligations.Evict := by
  unfold Obligations.Evict
  intro h vehicle before v hready hv
  have answers {t : State} {a : Answer} (e : evictBody vehicle before = (t, a)) :
      exec (.evict h vehicle) before = .next (t.answered h .evict a.code a.fields) :=
    request_hunts (takes_of_ready hready rfl rfl) (evictBody_hunts _) e
  have goesOn {s : State} {bad : Bool} (hbody : evictBody vehicle before = evictGo v s bad) (hclean : s.clean = true)
      (hst : (s.vehicle v).state ≠ .offline) {t : State} (ht : t.clean = true) (htrack : TrackOnly s t)
      (hrel : State.releaseEvery (s.waitEnded v) v (s.vehicle v).holds =
        (t, ⟨(s.vehicle v).holds.length, none, false⟩)) :
      exec (.evict h vehicle) before =
        .next (((((t.orderEvicted s v).unbind v).setVehicle v (t.vehicle v).evicted).noteVehicle v
          (s.vehicle v).state).answered h .evict (okOr bad)
          (evictFields (s.vehicle v).holds.length (s.vehicle v).order (s.vehicle v).carrier none)) := by
    rw [evictGo, if_neg hst, evictVehicle_eq bad hclean ht htrack hrel] at hbody
    exact answers hbody
  have both {s : State} {bad : Bool} (hbody : evictBody vehicle before = evictGo v s bad) (hclean : s.clean = true)
      (hst : (s.vehicle v).state ≠ .offline) :=
    have hend := clean_waitEnded (v := v) hclean
    have hturn := releaseEvery_clean v (s.vehicle v).holds hend
    And.intro (fun hq : s.quiet (s.vehicle v).holds = true => goesOn hbody hclean hst (clean_freed hend v _)
        ((TrackOnly.waitEnded s v).trans (.freed _ v _))
        (releaseEvery_quiet v _ fun b hb => quietAt_waitEnded ((quiet_iff _).mp hq b hb)))
      (goesOn hbody hclean hst hturn.2 ((TrackOnly.waitEnded s v).trans (.releasedInTurn v _ hend)) hturn.1)
  refine ⟨fun hclean hoff => answers (a := .plain .state) ?_, fun hclean hst => ?_, fun hf hclean hst => ?_,
    fun hf hm => answers (a := ⟨.integrity, _⟩) ?_⟩
  · rw [evictBody_eq hv, readVehicle_clean (clean_vehicle hclean v)]
    exact if_pos hoff
  · refine both (bad := false) ?_ hclean hst
    rw [evictBody_eq hv, readVehicle_clean (clean_vehicle hclean v)]
  · refine both (bad := true) ?_ hclean hst
    rw [evictBody_eq hv, readVehicle_damaged hf]
    rfl
  · rw [evictBody_eq hv, readVehicle_damaged hf]
    exact if_pos (readVehicle_damaged_setup hf hm)

end Sys2Proof.Machine
end

section
/-! The front of a holding list through a run of releases (R31, R33), and what the report of a damaged block changes. -/

namespace Sys2Proof.Machine

variable {s : State} {v : VehicleId}

/-- A block stands in a list behind none but blocks of another list. -/
def LeadsTo (b : BlockId) (bs holds : List BlockId) : Prop :=
  ∃ pre rest, holds = pre ++ b :: rest ∧ ∀ x ∈ pre, x ∈ bs

theorem LeadsTo.head {b : BlockId} {holds : List BlockId} (h : LeadsTo b [] holds) : holds.head? = some b := by
  obtain ⟨pre, rest, rfl, hpre⟩ := h
  cases pre with
  | nil => rfl
  | cons x pre => cases hpre x (List.mem_cons_self ..)

theorem LeadsTo.append {b : BlockId} {bs holds : List BlockId} (h : LeadsTo b bs holds) (more : List BlockId) :
    LeadsTo b bs (holds ++ more) := by
  obtain ⟨pre, rest, rfl, hpre⟩ := h
  exact ⟨pre, rest ++ more, by simp, hpre⟩

theorem LeadsTo.filter {b : BlockId} {bs cs holds : List BlockId} (h : LeadsTo b bs holds) (p : BlockId → Bool) (hb : p b = true)
    (hcs : ∀ x ∈ bs, p x = true → x ∈ cs) : LeadsTo b cs (holds.filter p) := by
  obtain ⟨pre, rest, rfl, hpre⟩ := h
  refine ⟨pre.filter p, rest.filter p, by rw [List.filter_append, List.filter_cons_of_pos hb], fun x hx => ?_⟩
  obtain ⟨hmem, hp⟩ := List.mem_filter.mp hx
  exact hcs x (hpre x hmem) hp

/-- R33: the blocks behind a held block. -/
theorem behind_split {b : BlockId} {holds : List BlockId} (h : b ∈ holds) :
    ∃ rest, holds = holds.takeWhile (· ≠ b) ++ b :: rest := by
  induction holds with
  | nil => cases h
  | cons x xs ih =>
    by_cases hx : x = b
    · exact ⟨xs, by simp [hx]⟩
    · obtain ⟨rest, e⟩ := ih ((List.mem_cons.mp h).resolve_left (Ne.symm hx))
      exact ⟨rest, by rw [List.takeWhile_cons_of_pos (by simpa using hx), List.cons_append, ← e]⟩

theorem leadsTo_behind {b : BlockId} {holds : List BlockId} (h : b ∈ holds) :
    LeadsTo b (holds.takeWhile (· ≠ b)) holds := by
  obtain ⟨rest, e⟩ := behind_split h
  exact ⟨_, rest, e, fun x hx => hx⟩

theorem not_mem_behind (b : BlockId) (holds : List BlockId) : b ∉ holds.takeWhile (· ≠ b) := fun h => by
  have hne := List.mem_takeWhile_imp h
  simp at hne

theorem askArbiter_holds (h : s.clean = true) (b : BlockId) (v : VehicleId) :
    ∃ more, ((s.askArbiter b).vehicle v).holds = (s.vehicle v).holds ++ more := by
  have hsame : ∃ more, (s.vehicle v).holds = (s.vehicle v).holds ++ more := ⟨[], by simp⟩
  by_cases hgo : s.mode ≠ .halted ∧ s.fenced b = false ∧ (s.block b).contested = true
  · obtain ⟨hm, hfence, hc⟩ := hgo
    rw [askArbiter_contested hm hfence (clean_block h b) hc fun x _ => ⟨clean_vehicle h _, fun o r _ => clean_order h⟩]
    split
    · next w _ =>
      rw [award_eq, notifyOwner_at_vehicle, setVehicle_read]
      split
      · next e => rw [e]; exact ⟨[b], rfl⟩
      · exact hsame
    · exact hsame
  · rw [askArbiter_idle (clean_block h b)]
    · exact hsame
    · by_contra hno
      simp only [not_or] at hno
      obtain ⟨hm, hfence, hholder, hfrozen, hw⟩ := hno
      exact hgo ⟨hm, by simpa using hfence, (contested_iff _).mpr ⟨not_not.mp hholder, by simpa using hfrozen, hw⟩⟩

theorem leadsTo_releasedInTurn {b : BlockId} : ∀ (bs : List BlockId) {s : State}, s.clean = true → b ∉ bs →
    LeadsTo b bs (s.vehicle v).holds → LeadsTo b [] ((s.releasedInTurn v bs).vehicle v).holds
  | [], _, _, _, hl => hl
  | c :: bs, s, h, hb, hl => by
    have hbc : b ≠ c := fun e => hb (e ▸ List.mem_cons_self ..)
    have hbs : b ∉ bs := fun hm => hb (List.mem_cons_of_mem _ hm)
    have hfilter : LeadsTo b bs ((s.vehicle v).holds.filter (· ≠ c)) := hl.filter _ (by simpa using hbc) fun x hx hp =>
      (List.mem_cons.mp hx).resolve_left (by simpa using hp)
    have hset : (s.setVehicle v { s.vehicle v with holds := (s.vehicle v).holds.filter (· ≠ c) }).clean = true :=
      clean_setVehicle h v (clean_vehicle h v)
    have hstep : LeadsTo b bs ((s.releasedInTurn v [c]).vehicle v).holds := by
      unfold State.releasedInTurn
      dsimp only
      split
      · rw [State.releasedInTurn, setVehicle_same]; exact hfilter
      · have hfree := clean_setBlock hset c (r := { s.block c with holder := .none }) (clean_block h c)
        obtain ⟨more, e⟩ := askArbiter_holds hfree c v
        rw [setBlock_at_vehicle, setVehicle_same] at e
        rw [State.releasedInTurn]
        exact e ▸ hfilter.append more
    exact leadsTo_releasedInTurn bs (release_clean h v c).2 hbs hstep

theorem leadsTo_freed {b : BlockId} {bs : List BlockId} (hb : b ∉ bs) (h : LeadsTo b bs (s.vehicle v).holds) :
    LeadsTo b [] ((s.freed v bs).vehicle v).holds := by
  rw [freed_vehicle]
  exact h.filter _ (by simpa using hb) fun x hx hp => absurd hx (by simpa using hp)

/-! ## The report of a damaged block (R137) -/

theorem TrackOnly.found (s : State) (r f) : TrackOnly s (s.found r f) := by
  unfold State.found
  rw [captureError_match]
  exact ⟨rfl, fun _ => rfl⟩

theorem TrackOnly.foldl_waitDropped {s : State} (b : BlockId) : ∀ (vs : List VehicleId) {t : State}, TrackOnly s t →
    (∀ w, (t.vehicle w).holds = (s.vehicle w).holds) → TrackOnly s (vs.foldl (s.waitDropped b) t) ∧
      ∀ w, ((vs.foldl (s.waitDropped b) t).vehicle w).holds = (s.vehicle w).holds
  | [], _, h, hh => ⟨h, hh⟩
  | v :: vs, t, h, hh => by
    rw [List.foldl_cons]
    refine TrackOnly.foldl_waitDropped b vs ?_ fun w => ?_
    · unfold State.waitDropped
      split
      · refine TrackOnly.trans ⟨?_, fun w => ?_⟩ (.notifyOwner ..)
        · have e := h.others
          rw [e]; rfl
        · rw [setVehicle_read]
          split
          · next e => rw [e]
          · exact h.records w
      · exact h
    · unfold State.waitDropped
      split
      · rw [notifyOwner_at_vehicle, setVehicle_read]
        split
        · next e => rw [e]
        · exact hh w
      · exact hh w

/-- R137: the repair of a damaged block leaves every holding list as it is. -/
theorem readBlock_damaged_track {b : BlockId} (h : (s.block b).flips.length = 2) (hv : ∀ v, (s.vehicle v).flips = []) :
    TrackOnly s (read (.block b) s).1 ∧ ∀ w, ((read (.block b) s).1.vehicle w).holds = (s.vehicle w).holds := by
  have e := reads_block_damaged (f := .access) h
  rw [repairBlock_clean (by simpa using hv)] at e
  have e' : (read (.block b) s).1 = _ := congrArg Prod.fst e
  have hfound := TrackOnly.found s (.block b) .access
  obtain ⟨htrack, hholds⟩ := TrackOnly.foldl_waitDropped b (List.finRange 128)
    (TrackOnly.setBlock (s.found (.block b) .access) b ⟨(s.found (.block b) .access).static b, .unknown, true, [], []⟩)
    fun w => rfl
  rw [e']
  refine ⟨hfound.trans htrack, fun w => (hholds w).trans ?_⟩
  rw [found_at_vehicle]

end Sys2Proof.Machine
end

section
/-! POSITION (R33, R41, R64, R109). -/

namespace Sys2Proof.Machine

variable {s : State} {v : VehicleId} {b : BlockId}

@[simp] theorem restarted_state (n : Byte) (r : VehicleRec) : (r.restarted n).state = r.state := by
  unfold VehicleRec.restarted; split <;> rfl
@[simp] theorem restarted_owner (n : Byte) (r : VehicleRec) : (r.restarted n).owner = r.owner := by
  unfold VehicleRec.restarted; split <;> rfl
@[simp] theorem restarted_holds (n : Byte) (r : VehicleRec) : (r.restarted n).holds = r.holds := by
  unfold VehicleRec.restarted; split <;> rfl
@[simp] theorem restarted_drain (n : Byte) (r : VehicleRec) : (r.restarted n).drain = r.drain := by
  unfold VehicleRec.restarted; split <;> rfl

theorem mayReport_of {l : LinkId} (h : (s.vehicle v).owner = some l ∨ s.bayOwner b = some l) : s.mayReport l v b = true := by
  rw [State.mayReport, Bool.or_eq_true, decide_eq_true_eq, decide_eq_true_eq]; exact h

/-! ## What track operations keep of a vehicle -/

section
variable {t : State} (h : TrackOnly s t)
include h

theorem TrackOnly.state (v : VehicleId) : (t.vehicle v).state = (s.vehicle v).state := by rw [h.records v]
theorem TrackOnly.owner (v : VehicleId) : (t.vehicle v).owner = (s.vehicle v).owner := by rw [h.records v]
theorem TrackOnly.drain (v : VehicleId) : (t.vehicle v).drain = (s.vehicle v).drain := by rw [h.records v]
theorem TrackOnly.order (v : VehicleId) : (t.vehicle v).order = (s.vehicle v).order := by rw [h.records v]
theorem TrackOnly.saved (v : VehicleId) : (t.vehicle v).saved = (s.vehicle v).saved := by rw [h.records v]
theorem TrackOnly.carrier (v : VehicleId) : (t.vehicle v).carrier = (s.vehicle v).carrier := by rw [h.records v]
theorem TrackOnly.bayOwner (b : BlockId) : t.bayOwner b = s.bayOwner b := by rw [h.others]; rfl
theorem TrackOnly.static (b : BlockId) : t.static b = s.static b := by rw [h.others]; rfl
theorem TrackOnly.trigger : t.trigger = s.trigger := by rw [h.others]
theorem TrackOnly.timing : t.timing = s.timing := by rw [h.others]
theorem TrackOnly.idleSeq : t.idleSeq = s.idleSeq := by rw [h.others]
theorem TrackOnly.at_order (o : Slot) : t.order o = s.order o := by rw [h.others]; rfl

end

/-- R64: the owning link follows the position block. -/
theorem setOwner_head {at_ : BlockId} (h : (s.vehicle v).holds.head? = some at_) :
    s.setOwner v = s.setVehicle v { s.vehicle v with owner := s.bayOwner at_ } := by
  have hpos : (s.vehicle v).position = some at_ := h
  rw [State.setOwner, State.updVehicle, hpos]; rfl

/-- R33, R64, R68: the vehicle at its position, its releases made. -/
def State.movedTo (s t : State) (v : VehicleId) (at_ : BlockId) : State :=
  { t.setVehicle v (VehicleRec.restarted s.timing.silence { t.vehicle v with owner := s.bayOwner at_ }) with
    trigger := s.trigger || decide ((s.vehicle v).state = .idle ∧
      (s.vehicle v).position.map (fun x => (s.static x).bay) ≠ some (s.static at_).bay) }

theorem bayOf_head {at_ : BlockId} (h : (s.vehicle v).holds.head? = some at_) : s.bayOf v = some (s.static at_).bay := by
  have hpos : (s.vehicle v).position = some at_ := h
  rw [State.bayOf, hpos]; rfl

theorem reportPosition_eq {t : State} {at_ : BlockId} {rel : Released} (htrack : TrackOnly s t)
    (hhead : (t.vehicle v).holds.head? = some at_)
    (hrel : State.releaseUntil s v ((s.vehicle v).behind b) = (t, rel)) : s.reportPosition v b =
      (if (s.vehicle v).owner = s.bayOwner at_ then s.movedTo t v at_
        else (s.movedTo t v at_).noteVehicle v (s.vehicle v).state,
        ⟨okOr rel.bad, Enc.num rel.count ++ Enc.opt2 Enc.block rel.damaged⟩) := by
  have hmoved : (t.setOwner v).restartSilence v =
      t.setVehicle v (VehicleRec.restarted s.timing.silence { t.vehicle v with owner := s.bayOwner at_ }) := by
    rw [setOwner_head hhead, restartSilence_eq, setVehicle_same, setVehicle_setVehicle, setVehicle_timing, htrack.timing,
      htrack.bayOwner]
  generalize hr : VehicleRec.restarted s.timing.silence { t.vehicle v with owner := s.bayOwner at_ } = r at hmoved
  have hstate : r.state = (s.vehicle v).state := by rw [← hr, restarted_state]; exact htrack.state v
  have howner : r.owner = s.bayOwner at_ := by rw [← hr, restarted_owner]
  have hholds : r.holds.head? = some at_ := by rw [← hr, restarted_holds]; exact hhead
  have hbay : (t.setVehicle v r).bayOf v = some (s.static at_).bay := by
    rw [bayOf_head (at_ := at_) (by rw [setVehicle_same]; exact hholds), setVehicle_at_static, htrack.static]
  have hmove : s.movedTo t v at_ = { t.setVehicle v r with
      trigger := s.trigger || decide ((s.vehicle v).state = .idle ∧ s.bayOf v ≠ some (s.static at_).bay) } := by
    rw [← hr]; rfl
  have htrigger : (if ((t.setVehicle v r).vehicle v).state = .idle ∧ (t.setVehicle v r).bayOf v ≠ s.bayOf v then
      (t.setVehicle v r).setTrigger else t.setVehicle v r) = s.movedTo t v at_ := by
    rw [hmove, hbay, setVehicle_same, hstate]
    by_cases hc : (s.vehicle v).state = .idle ∧ s.bayOf v ≠ some (s.static at_).bay
    · rw [if_pos (hc.imp_right Ne.symm), decide_eq_true hc, Bool.or_true]; rfl
    · rw [if_neg (mt (And.imp_right Ne.symm) hc), decide_eq_false hc, Bool.or_false, ← htrack.trigger]; rfl
  have hvehicle : (s.movedTo t v at_).vehicle v = r := by
    rw [hmove]; exact setVehicle_same ..
  unfold State.reportPosition
  dsimp only
  rw [hrel]
  dsimp only
  rw [hmoved, htrigger]
  unfold State.noteVehicleIfChanged
  rw [hvehicle, hstate, howner, htrack.state, htrack.owner]
  by_cases ho : (s.vehicle v).owner = s.bayOwner at_
  · rw [if_pos ho, if_neg (by rw [ho]; simp)]
  · rw [if_neg ho, if_pos (.inr (Ne.symm ho))]

/-- What POSITION does with the vehicle it names. -/
def positionGo (l : LinkId) (v : VehicleId) (b : BlockId) (s : State) : State × Answer :=
  if !s.mayReport l v b then (s, .plain .notYours)
  else if (s.vehicle v).state = .offline ∨ (s.vehicle v).state = .stalled then (s, .plain .state)
  else if !(s.vehicle v).holds.contains b then (s, .plain .notHeld)
  else s.reportPosition v b

theorem positionBody_eq {l : LinkId} {vehicle : Byte} {block : Half} (hv : vehicle? vehicle = some v)
    (hb : block? block = some b) (hu : s.used b = true) : positionBody l vehicle block s =
      s.withVehicle v (fun _ => Enc.num 0 ++ Enc.opt2 Enc.block none) (positionGo l v b) := by
  rw [positionBody, hv, hb, inRange_some, inRange_some, hu]; rfl

/-- Settles O26: POSITION whole. -/
theorem position : Obligations.Position := by
  unfold Obligations.Position
  have answers {h : Hdr} {vehicle : Byte} {block : Half} {s t : State} {a : Answer} (hready : s.ready h .bay)
      (e : positionBody h.link vehicle block s = (t, a)) :
      exec (.position h vehicle block) s = .next (t.answered h .position a.code a.fields) :=
    request_hunts (takes_of_ready hready rfl rfl) (positionBody_hunts _ _ _) e
  refine ⟨fun h vehicle block s v b hready hv hb hu hf => answers hready
    ((positionBody_eq hv hb hu).trans (withVehicle_damaged hf _ _)),
    fun h vehicle block s v b hready hv hb hu hf hl hoff hst => ⟨fun hnot => ?_, fun hheld => ?_⟩⟩
  all_goals
    have hbody := (positionBody_eq (l := h.link) hv hb hu).trans (withVehicle_clean hf _ _)
    rw [positionGo, mayReport_of hl, if_neg (by decide), if_neg (not_or.mpr ⟨hoff, hst⟩)] at hbody
  · have hc : (s.vehicle v).holds.contains b = false := by simpa using hnot
    rw [hc] at hbody
    exact answers hready (a := .plain .notHeld) hbody
  · have hc : (s.vehicle v).holds.contains b = true := by simpa using hheld
    rw [hc, if_neg (by decide)] at hbody
    have hlead := leadsTo_behind hheld
    have hnot := not_mem_behind b (s.vehicle v).holds
    refine ⟨fun hq => ?_, fun hclean => ?_, fun pre d post hsplit hq hd hdf hvf => ?_⟩
    · have hrel := releaseUntil_quiet v ((s.vehicle v).behind b) ((quiet_iff _).mp hq)
      rw [reportPosition_eq (.freed s v _) (leadsTo_freed hnot hlead).head hrel] at hbody
      exact answers hready hbody
    · have hrel := (releaseUntil_clean v ((s.vehicle v).behind b) hclean).1
      have hhead := (leadsTo_releasedInTurn _ hclean hnot hlead).head
      rw [reportPosition_eq (.releasedInTurn v _ hclean) hhead hrel] at hbody
      exact answers hready hbody
    · have hfd : ((s.freed v pre).block d).flips.length = 2 := by rw [freed_flips]; exact hdf
      have hrel := releaseUntil_stops v pre post ((quiet_iff _).mp hq) hfd
      have hbehind : (s.vehicle v).behind b = pre ++ d :: post := hsplit
      obtain ⟨htrack, hholds⟩ := readBlock_damaged_track hfd fun w => by rw [freed_vehicle_flips]; exact hvf w
      have hlead : LeadsTo d pre (s.vehicle v).holds := by
        obtain ⟨rest, e⟩ := behind_split hheld
        exact ⟨pre, post ++ b :: rest, by rw [e, hsplit]; simp, fun x hx => hx⟩
      have hhead : ((read (.block d) (s.freed v pre)).1.vehicle v).holds.head? = some d := by
        rw [hholds]; exact (leadsTo_freed hd hlead).head
      rw [reportPosition_eq (rel := ⟨pre.length, some d, true⟩) ((TrackOnly.freed s v pre).trans htrack) hhead
        (by rw [hbehind]; exact hrel)] at hbody
      exact answers hready hbody

end Sys2Proof.Machine
end

section
/-! RECOVER (R76, R77). -/

namespace Sys2Proof.Machine

variable {s t : State} {v : VehicleId} {b : BlockId}

theorem recoverable_iff (r : VehicleRec) :
    r.recoverable = true ↔ r.state = .stalled ∧ (r.cause = some .lost ∨ r.cause = some .fault) := by
  simp [VehicleRec.recoverable]

/-- R77: the record of a vehicle that leaves STALLED at a block, before it enters its saved state. -/
def State.unstalled (s t : State) (v : VehicleId) (b : BlockId) : VehicleRec :=
  { t.vehicle v with owner := s.bayOwner b, cause := none, saved := none }

/-- R77: the end of an accepted RECOVER. -/
theorem recoverVehicle_eq {n : Nat} {u : State} {r : VehicleRec} (ho : s.orderClean v) (hst : (s.vehicle v).state = .stalled)
    (htrack : TrackOnly s t)
    (hrel : State.releaseUntil s v ((s.vehicle v).behind b) = (t, ⟨n, none, false⟩))
    (hun : (t.setOwner v).unstall v = (u, false)) (hr : u.vehicle v = r) (hout : r.state ≠ .stalled)
    (htiming : u.timing = s.timing) : s.recoverVehicle v b =
      ((u.setVehicle v (r.restarted s.timing.silence)).noteVehicle v .stalled,
        ⟨.ok, [r.state.code] ++ Enc.num n ++ [0xFF, 0xFF]⟩) := by
  have hnote : (u.restartSilence v).noteVehicleIfChanged v (t.vehicle v) =
      (u.setVehicle v (r.restarted s.timing.silence)).noteVehicle v .stalled := by
    rw [restartSilence_eq, hr, htiming, State.noteVehicleIfChanged, setVehicle_same, restarted_state, htrack.state, hst]
    exact if_pos (.inl hout)
  unfold State.recoverVehicle
  rw [readOrderOf_clean ho]
  dsimp only
  rw [hrel]
  dsimp only
  rw [if_neg (by decide), hun]
  rw [if_neg (by decide), hnote]
  unfold State.recoverFields
  rw [noteVehicle_at_vehicle, setVehicle_same, restarted_state]
  rfl

section
variable (htrack : TrackOnly s t) (hhead : (t.vehicle v).holds.head? = some b)
include htrack hhead

theorem unstall_start : ((t.setOwner v).updVehicle v fun r => { r with cause := none, saved := none }) =
    t.setVehicle v (s.unstalled t v b) := by
  rw [setOwner_head hhead, State.updVehicle, setVehicle_same, setVehicle_setVehicle, htrack.bayOwner]
  rfl

theorem setOwner_vehicle : (t.setOwner v).vehicle v = { t.vehicle v with owner := s.bayOwner b } := by
  rw [setOwner_head hhead, setVehicle_same, htrack.bayOwner]

theorem unstall_idle (hsaved : (s.vehicle v).saved = some .idle) (hseq : s.idleSeq ≠ counterTop) :
    (t.setOwner v).unstall v = ((t.setVehicle v ((s.unstalled t v b).idled (s.idleSeq + 1))).afterIdle
      (s.vehicle v).drain, false) := by
  have hseq' : (t.setVehicle v (s.unstalled t v b)).idleSeq ≠ counterTop := by
    rw [setVehicle_idleSeq, htrack.idleSeq]; exact hseq
  have e := enterIdle_ready read v hseq'
  rw [setVehicle_same, setVehicle_setVehicle, setVehicle_idleSeq, htrack.idleSeq] at e
  have hdrain : (s.unstalled t v b).drain = (s.vehicle v).drain := htrack.drain v
  have hsaved' : ((t.setOwner v).vehicle v).saved = some .idle := by
    rw [setOwner_vehicle htrack hhead]; exact (htrack.saved v).trans hsaved
  unfold State.unstall
  dsimp only
  rw [unstall_start htrack hhead, hsaved']
  dsimp only
  rw [e, hdrain]

theorem unstall_loaded (hsaved : (s.vehicle v).saved = some .loadedIdle) : (t.setOwner v).unstall v =
    ((t.setVehicle v ((s.unstalled t v b).loaded (s.vehicle v).carrier)).setTrigger, false) := by
  have hsaved' : ((t.setOwner v).vehicle v).saved = some .loadedIdle := by
    rw [setOwner_vehicle htrack hhead]; exact (htrack.saved v).trans hsaved
  have hcarrier : ((t.setOwner v).vehicle v).carrier = (s.vehicle v).carrier := by
    rw [setOwner_vehicle htrack hhead]; exact htrack.carrier v
  unfold State.unstall
  dsimp only
  rw [unstall_start htrack hhead, hsaved', hcarrier]
  dsimp only
  rw [enterLoadedIdle_eq, setVehicle_same, setVehicle_setVehicle]

theorem unstall_withdrawn (hsaved : (s.vehicle v).saved = some .withdrawn) : (t.setOwner v).unstall v =
    (t.setVehicle v { s.unstalled t v b with state := .withdrawn }, false) := by
  have hsaved' : ((t.setOwner v).vehicle v).saved = some .withdrawn := by
    rw [setOwner_vehicle htrack hhead]; exact (htrack.saved v).trans hsaved
  unfold State.unstall
  dsimp only
  rw [unstall_start htrack hhead, hsaved']
  dsimp only
  rw [State.updVehicle, setVehicle_same, setVehicle_setVehicle]

theorem unstall_toDest {o : Slot} {r : OrderRec} (hsaved : (s.vehicle v).saved = some .toDest)
    (ho : (s.vehicle v).order = some o) (hr : s.order o = some r) : (t.setOwner v).unstall v =
      (((t.setVehicle v { s.unstalled t v b with state := .toDest }).setOrder o
        (some { r with suspended := false })).noteOrder o { r with suspended := false } .resumed none, false) := by
  have hsaved' : ((t.setOwner v).vehicle v).saved = some .toDest := by
    rw [setOwner_vehicle htrack hhead]; exact (htrack.saved v).trans hsaved
  have ho' : ((t.setOwner v).vehicle v).order = some o := by
    rw [setOwner_vehicle htrack hhead]; exact (htrack.order v).trans ho
  have hr' : (t.setVehicle v { s.unstalled t v b with state := .toDest }).order o = some r := by
    rw [setVehicle_at_order, htrack.at_order]; exact hr
  unfold State.unstall
  dsimp only
  rw [unstall_start htrack hhead, hsaved', ho']
  dsimp only
  rw [State.updVehicle, setVehicle_same, setVehicle_setVehicle, State.unsuspend, hr']

end

/-- What RECOVER does with the vehicle it names. -/
def recoverGo (l : LinkId) (v : VehicleId) (b : BlockId) (s : State) : State × Answer :=
  if !s.mayReport l v b then (s, .plain .notYours)
  else if !(s.vehicle v).recoverable then (s, .plain .state)
  else if !(s.vehicle v).holds.contains b then (s, .plain .notHeld)
  else s.recoverVehicle v b

theorem recoverBody_eq {l : LinkId} {vehicle : Byte} {block : Half} (hv : vehicle? vehicle = some v)
    (hb : block? block = some b) (hu : s.used b = true) : recoverBody l vehicle block s =
      s.withVehicle v (fun s => s.recoverFields v 0 none) (recoverGo l v b) := by
  rw [recoverBody, hv, hb, inRange_some, inRange_some, hu]; rfl

theorem afterIdle_setVehicle (s : State) (w : Bool) (v : VehicleId) (r : VehicleRec) :
    (s.afterIdle w).setVehicle v r = (s.setVehicle v r).afterIdle w := by
  unfold State.afterIdle; split <;> rfl

theorem afterIdle_timing (s : State) (w : Bool) : (s.afterIdle w).timing = s.timing := by
  unfold State.afterIdle; split <;> rfl

theorem idled_state (n : Word) (r : VehicleRec) : (r.idled n).state = if r.drain then .withdrawn else .idle := by
  unfold VehicleRec.idled; split <;> rfl

/-- R77: the four ways that RECOVER returns a vehicle to its saved state, its releases having left `t`. -/
theorem recoverVehicle_saved {n : Nat} (hst : (s.vehicle v).state = .stalled) (htrack : TrackOnly s t)
    (hhead : (t.vehicle v).holds.head? = some b)
    (hrel : State.releaseUntil s v ((s.vehicle v).behind b) = (t, ⟨n, none, false⟩)) :
    let put (r : VehicleRec) : State := t.setVehicle v (r.restarted s.timing.silence)
    let done (u : State) (state : Byte) : Prop :=
      s.recoverVehicle v b = (u.noteVehicle v .stalled, ⟨.ok, [state] ++ Enc.num n ++ [0xFF, 0xFF]⟩)
    ((s.vehicle v).order = none → (s.vehicle v).saved = some .idle → s.idleSeq ≠ counterTop →
      done ((put ((s.unstalled t v b).idled (s.idleSeq + 1))).afterIdle (s.vehicle v).drain)
        (if (s.vehicle v).drain then 0x06 else 0x01)) ∧
    ((s.vehicle v).order = none → (s.vehicle v).saved = some .loadedIdle →
      done (put ((s.unstalled t v b).loaded (s.vehicle v).carrier)).setTrigger 0x05) ∧
    ((s.vehicle v).order = none → (s.vehicle v).saved = some .withdrawn →
      done (put { s.unstalled t v b with state := .withdrawn }) 0x06) ∧
    (∀ o r, (s.vehicle v).order = some o → s.order o = some r → r.flips = [] → (s.vehicle v).saved = some .toDest →
      done (((put { s.unstalled t v b with state := .toDest }).setOrder o (some { r with suspended := false })).noteOrder o
        { r with suspended := false } .resumed none) 0x04) := by
  have free (hnone : (s.vehicle v).order = none) : s.orderClean v := fun o r ho => by rw [hnone] at ho; cases ho
  refine ⟨fun ho hsaved hseq => ?_, fun ho hsaved => ?_, fun ho hsaved => ?_, fun o r ho hr hf hsaved => ?_⟩
  · have hdrain : (s.unstalled t v b).drain = (s.vehicle v).drain := htrack.drain v
    refine (recoverVehicle_eq (r := (s.unstalled t v b).idled (s.idleSeq + 1)) (free ho) hst htrack hrel
      (unstall_idle htrack hhead hsaved hseq) ?_ ?_ ?_).trans ?_
    · rw [afterIdle_at_vehicle, setVehicle_same]
    · rw [idled_state]; split <;> decide
    · rw [afterIdle_timing]; exact htrack.timing
    · rw [afterIdle_setVehicle, setVehicle_setVehicle, idled_state, hdrain]
      cases (s.vehicle v).drain <;> rfl
  · refine (recoverVehicle_eq (r := (s.unstalled t v b).loaded (s.vehicle v).carrier) (free ho) hst htrack hrel
      (unstall_loaded htrack hhead hsaved) ?_ ?_ ?_).trans ?_
    · rw [setTrigger_at_vehicle, setVehicle_same]
    · exact fun h => VState.noConfusion h
    · exact htrack.timing
    · exact congrArg (fun u : State => (u.setTrigger.noteVehicle v .stalled, _)) (setVehicle_setVehicle ..)
  · refine (recoverVehicle_eq (r := { s.unstalled t v b with state := .withdrawn }) (free ho) hst htrack hrel
      (unstall_withdrawn htrack hhead hsaved) ?_ ?_ ?_).trans ?_
    · rw [setVehicle_same]
    · exact fun h => VState.noConfusion h
    · exact htrack.timing
    · rw [setVehicle_setVehicle]; rfl
  · have hclean : s.orderClean v := fun o' r' ho' hr' => by
      rw [ho] at ho'
      obtain rfl := Option.some.inj ho'
      rw [hr] at hr'
      exact Option.some.inj hr' ▸ hf
    refine (recoverVehicle_eq (r := { s.unstalled t v b with state := .toDest }) hclean hst htrack hrel
      (unstall_toDest htrack hhead hsaved ho hr) ?_ ?_ ?_).trans ?_
    · rw [noteOrder_at_vehicle, setOrder_at_vehicle, setVehicle_same]
    · exact fun h => VState.noConfusion h
    · exact htrack.timing
    · exact congrArg (fun u : State => (((u.setOrder o (some { r with suspended := false })).noteOrder o
        { r with suspended := false } .resumed none).noteVehicle v .stalled, _)) (setVehicle_setVehicle ..)

/-- Settles O31: RECOVER to each saved state. -/
theorem recover : Obligations.Recover := by
  unfold Obligations.Recover
  have answers {h : Hdr} {vehicle : Byte} {block : Half} {s t : State} {a : Answer} (hready : s.ready h .bay)
      (e : recoverBody h.link vehicle block s = (t, a)) :
      exec (.recover h vehicle block) s = .next (t.answered h .recover a.code a.fields) :=
    request_hunts (takes_of_ready hready rfl rfl) (recoverBody_hunts _ _ _) e
  refine ⟨fun h vehicle block s v b hready hv hb hu hf => answers hready
    ((recoverBody_eq hv hb hu).trans (withVehicle_damaged hf _ _)),
    fun h vehicle block s v b hready hv hb hu hf hl => ⟨fun hno => ?_, fun hst hcause => ⟨fun hnot => ?_, fun hheld => ?_⟩⟩⟩
  all_goals
    have hbody := (recoverBody_eq (l := h.link) hv hb hu).trans (withVehicle_clean hf _ _)
    rw [recoverGo, mayReport_of hl, if_neg (by decide)] at hbody
  · have hrec : (s.vehicle v).recoverable = false := Bool.eq_false_iff.mpr fun hr => by
      obtain ⟨hst, hcause⟩ := (recoverable_iff _).mp hr
      rcases hno with hno | hno
      · exact hno hst
      · rw [hno] at hcause
        exact hcause.elim (by decide) (by decide)
    rw [hrec] at hbody
    exact answers hready (a := .plain .state) hbody
  all_goals rw [(recoverable_iff _).mpr ⟨hst, hcause⟩, if_neg (by decide)] at hbody
  · have hc : (s.vehicle v).holds.contains b = false := by simpa using hnot
    rw [hc] at hbody
    exact answers hready (a := .plain .notHeld) hbody
  · have hc : (s.vehicle v).holds.contains b = true := by simpa using hheld
    rw [hc, if_neg (by decide)] at hbody
    have hlead := leadsTo_behind hheld
    have hnot := not_mem_behind b (s.vehicle v).holds
    have done {u : State} {a : Answer} (e : s.recoverVehicle v b = (u, a)) :=
      answers hready (hbody.trans e)
    refine ⟨fun hq => ?_, fun hclean => ?_⟩
    · obtain ⟨h1, h2, h3, h4⟩ := recoverVehicle_saved hst (.freed s v _) (leadsTo_freed hnot hlead).head
        (releaseUntil_quiet v ((s.vehicle v).behind b) ((quiet_iff _).mp hq))
      exact ⟨fun ho hs hseq => done (h1 ho hs hseq), fun ho hs => done (h2 ho hs), fun ho hs => done (h3 ho hs),
        fun o r ho hr hf hs => done (h4 o r ho hr hf hs)⟩
    · obtain ⟨h1, h2, h3, h4⟩ := recoverVehicle_saved hst (.releasedInTurn v _ hclean)
        (leadsTo_releasedInTurn _ hclean hnot hlead).head
        (releaseUntil_clean v ((s.vehicle v).behind b) hclean).1
      exact ⟨fun ho hs hseq => done (h1 ho hs hseq), fun ho hs => done (h2 ho hs), fun ho hs => done (h3 ho hs),
        fun o r ho hr hf hs => done (h4 o r ho hr hf hs)⟩

end Sys2Proof.Machine
end

section
/-! RELEASE_AHEAD (R34, R41). -/

namespace Sys2Proof.Machine

variable {s t : State} {v : VehicleId}

/-- R34: an accepted RELEASE_AHEAD, its releases having left `t`. -/
theorem releaseAhead_eq {n : Nat} {rel : Released} (hw : s.waitClean v = true) (htrack : TrackOnly s t)
    (hrel : State.releaseUntil (s.waitEnded v) v ((s.vehicle v).holds.reverse.take n) = (t, rel)) : s.releaseAhead v n =
      (t.setVehicle v (VehicleRec.restarted s.timing.silence (t.vehicle v)),
        ⟨okOr rel.bad, Enc.num rel.count ++ Enc.opt2 Enc.block (t.vehicle v).holds.getLast?
          ++ Enc.opt2 Enc.block (s.vehicle v).waitingOn ++ Enc.opt2 Enc.block rel.damaged⟩) := by
  have hholds : ((s.waitEnded v).vehicle v).holds = (s.vehicle v).holds := by rw [waitEnded_vehicle]
  unfold State.releaseAhead
  rw [endWait_clean hw]
  dsimp only
  rw [hholds, hrel]
  dsimp only
  rw [restartSilence_eq, htrack.timing, State.releaseAheadFields, setVehicle_same, restarted_holds]
  rfl

theorem waitEnded_vehicle_flips (w : VehicleId) : ((s.waitEnded v).vehicle w).flips = (s.vehicle w).flips := by
  by_cases h : w = v
  · rw [h, waitEnded_vehicle]
  · rw [waitEnded_other h]

/-- What RELEASE_AHEAD does with the vehicle it names. -/
def releaseAheadGo (v : VehicleId) (n : Nat) (s : State) : State × Answer :=
  if (s.vehicle v).state = .offline ∨ (s.vehicle v).state = .stalled then (s, .plain .state)
  else if (s.vehicle v).holds.length ≤ n then (s, .plain .range)
  else s.releaseAhead v n

theorem releaseAheadBody_eq {l : LinkId} {vehicle count : Byte} (hv : vehicle? vehicle = some v) (hn : count.toNat ≤ 5) :
    releaseAheadBody l vehicle count s =
      s.withOwned l v (fun s => s.releaseAheadFields v 0 none none) (releaseAheadGo v count.toNat) := by
  rw [releaseAheadBody, hv, inRange_some, if_neg (Nat.not_lt.mpr hn)]; rfl

/-- Settles O27: RELEASE_AHEAD whole. -/
theorem releaseAhead : Obligations.ReleaseAhead := by
  unfold Obligations.ReleaseAhead
  have answers {h : Hdr} {vehicle count : Byte} {s t : State} {a : Answer} (hready : s.ready h .bay)
      (e : releaseAheadBody h.link vehicle count s = (t, a)) :
      exec (.releaseAhead h vehicle count) s = .next (t.answered h .releaseAhead a.code a.fields) :=
    request_hunts (takes_of_ready hready rfl rfl) (releaseAheadBody_hunts _ _ _) e
  refine ⟨fun h vehicle count s v hready hv hn hf => ?_,
    fun h vehicle count s v hready hv hf hl hoff hst hn => ⟨fun hlen => ?_, fun hlen => ?_⟩⟩
  · refine (answers hready ((releaseAheadBody_eq hv hn).trans (withOwned_eq_damaged hf _ _))).trans ?_
    unfold State.answeredDamaged State.releaseAheadFields
    rw [List.append_assoc, List.append_assoc]
    simp only [List.append_assoc]
    rfl
  all_goals
    have hbody := (releaseAheadBody_eq hv hn).trans (withOwned_eq_go hf hl _ _)
    rw [releaseAheadGo, if_neg (not_or.mpr ⟨hoff, hst⟩)] at hbody
  · exact answers hready (a := .plain .range) (hbody.trans (if_pos hlen))
  · rw [if_neg (Nat.not_le.mpr hlen)] at hbody
    have hahead : ((s.vehicle v).holds.reverse.take count.toNat).length = count.toNat := by
      rw [List.length_take, List.length_reverse]; omega
    refine ⟨fun hq hw => ?_, fun hclean => ?_, fun pre d post hsplit hq hw hd hdf hvf => ?_⟩
    · have hrel := releaseUntil_quiet (s := s.waitEnded v) v ((s.vehicle v).holds.reverse.take count.toNat) fun b hb =>
        quietAt_waitEnded ((quiet_iff _).mp hq b hb)
      rw [releaseAhead_eq hw ((TrackOnly.waitEnded s v).trans (.freed _ v _)) hrel, hahead] at hbody
      exact answers hready hbody
    · have hend := clean_waitEnded (v := v) hclean
      have hrel := (releaseUntil_clean v ((s.vehicle v).holds.reverse.take count.toNat) hend).1
      rw [releaseAhead_eq (waitClean_of_clean hclean) ((TrackOnly.waitEnded s v).trans (.releasedInTurn v _ hend)) hrel,
        hahead] at hbody
      exact answers hready hbody
    · have hfd : (((s.waitEnded v).freed v pre).block d).flips.length = 2 := by
        rw [freed_flips, (waitEnded_at_block d).1]; exact hdf
      have hrel := releaseUntil_stops (s := s.waitEnded v) v pre post
        (fun b hb => quietAt_waitEnded ((quiet_iff _).mp hq b hb)) hfd
      obtain ⟨htrack, -⟩ := readBlock_damaged_track hfd fun w => by
        rw [freed_vehicle_flips, waitEnded_vehicle_flips]; exact hvf w
      rw [releaseAhead_eq (rel := ⟨pre.length, some d, true⟩) hw
        (((TrackOnly.waitEnded s v).trans (.freed _ v pre)).trans htrack) (by rw [hsplit]; exact hrel)] at hbody
      have hdone := answers hready hbody
      exact hdone

end Sys2Proof.Machine
end

section
/-! JOIN (R38, R65, R66). -/

namespace Sys2Proof.Machine

variable {s : State} {v : VehicleId} {b : BlockId} {c : Carrier} {l : LinkId}

/-! ## The carrier of a joining vehicle (R65) -/

theorem otherCarrying_iff : s.otherCarrying v c = true ↔ ∃ w, w ≠ v ∧ (s.vehicle w).carrier = c := by
  simp [State.otherCarrying]

theorem workedNaming_iff : s.workedNaming c = true ↔ ∃ o r, s.order o = some r ∧ r.state ≠ .queued ∧ r.carrier = c := by
  simp only [State.workedNaming, List.any_eq_true, mem_liveSlots]
  constructor
  · rintro ⟨o, hlive, ho⟩
    cases hr : s.order o with
    | none => rw [hr] at ho; cases ho
    | some r => rw [hr] at ho; exact ⟨o, r, hr, by simpa using ho⟩
  · rintro ⟨o, r, hr, ho⟩
    exact ⟨o, by rw [hr]; rfl, by rw [hr]; simpa using ho⟩

theorem readOrdersUntilBad_clean (h : s.clean = true) : readUntilBad read s.orderRefs s = (s, false) :=
  readUntilBad_clean s _ fun r _ => clean_cleanAt h r

theorem joinCarrier_id {id : CarrierField} (h : s.clean = true) (damaged : State → List Byte)
    (go : State → State × Answer) : s.joinCarrier v (.id id) damaged go =
      if s.otherCarrying v (.id id) then (s, .plain .duplicate)
      else if s.workedNaming (.id id) then (s, .plain .duplicate)
      else go s := by
  unfold State.joinCarrier
  dsimp only
  rw [readVehiclesUntilBad_clean (clean_vehicle h)]
  dsimp only
  rw [if_neg Bool.false_ne_true, readOrdersUntilBad_clean h]
  rfl

/-! ## An accepted JOIN (R66) -/

/-- R66 steps 1 and 2: the record of a vehicle that joins. -/
def VehicleRec.joined (r : VehicleRec) (l : LinkId) (b : BlockId) : VehicleRec :=
  { r with
    holds := [b], waitingOn := none, owner := some l, cause := none, saved := none, drain := false, order := none
    timedOut := none }

theorem joinRail_eq : s.joinRail l v b =
    (s.setBlock b { s.block b with holder := .vehicle v }).setVehicle v ((s.vehicle v).joined l b) := rfl

/-- R66: the end of a JOIN that has put the vehicle in its state. -/
theorem joinVehicle_eq {t u : State} {bound : Option Slot} {r : VehicleRec} (hstate : (s.joinRail l v b).joinState v c = (t, false))
    (hbind : t.bindCarrier v c = (u, bound)) (hr : u.vehicle v = r) (htiming : u.timing = s.timing) :
    s.joinVehicle l v b c =
      ((u.setVehicle v (r.restarted s.timing.silence)).setTrigger.noteVehicle v .offline,
        ⟨.ok, [r.state.code] ++ Enc.opt2 Enc.slot bound⟩) := by
  unfold State.joinVehicle
  rw [hstate]
  dsimp only
  rw [hbind]
  dsimp only
  rw [restartSilence_eq, hr, htiming, State.joinFields, noteVehicle_at_vehicle, setTrigger_at_vehicle, setVehicle_same,
    restarted_state]
  rfl

theorem joinState_none (hseq : s.idleSeq ≠ counterTop) : (s.joinRail l v b).joinState v .none =
    ({ (s.setBlock b { s.block b with holder := .vehicle v }).setVehicle v { (s.vehicle v).joined l b with
        state := .idle, idleSeq := s.idleSeq + 1, carrier := .none } with
      idleSeq := s.idleSeq + 1, trigger := true }, false) := by
  have hseq' : (s.joinRail l v b).idleSeq ≠ counterTop := hseq
  have e := enterIdle_ready read v hseq'
  rw [joinRail_eq, setVehicle_same, setVehicle_setVehicle] at e
  rw [State.joinState, if_pos rfl, joinRail_eq, e]
  rfl

theorem joinState_carrier (hc : c ≠ .none) : (s.joinRail l v b).joinState v c =
    (((s.setBlock b { s.block b with holder := .vehicle v }).setVehicle v
      { (s.vehicle v).joined l b with state := .loadedIdle, carrier := c }).setTrigger, false) := by
  rw [State.joinState, if_neg hc, enterLoadedIdle_eq, joinRail_eq, setVehicle_same, setVehicle_setVehicle]
  rfl

theorem setVehicle_over_idle (n : Word) (r r' : VehicleRec) :
    { s.setVehicle v r with idleSeq := n, trigger := true }.setVehicle v r' =
      { s.setVehicle v r' with idleSeq := n, trigger := true } := by
  rw [← setVehicle_setVehicle (s := s) (r := r) (r' := r')]; rfl

theorem setVehicle_over_trigger (r r' : VehicleRec) :
    (s.setVehicle v r).setTrigger.setVehicle v r' = (s.setVehicle v r').setTrigger := by
  rw [← setVehicle_setVehicle (s := s) (r := r) (r' := r')]; rfl

theorem setVehicle_over_bind (o : Slot) (r r' : VehicleRec) :
    ((s.setVehicle v r).setTrigger.bind o v).setVehicle v r' = ((s.bind o v).setVehicle v r').setTrigger := by
  rw [← setVehicle_setVehicle (s := s.bind o v) (r := r) (r' := r')]; rfl

theorem bindCarrier_id_none {id : CarrierField} {t : State} (h : t.queuedNaming (.id id) = none) :
    t.bindCarrier v (.id id) = (t, none) := by
  rw [State.bindCarrier, h]

theorem bindCarrier_id_some {id : CarrierField} {t : State} {o : Slot} (h : t.queuedNaming (.id id) = some o) :
    t.bindCarrier v (.id id) = (t.bind o v, some o) := by
  rw [State.bindCarrier, h]

/-- What JOIN does with the vehicle it names. -/
def joinGo (l : LinkId) (v : VehicleId) (b : BlockId) (c : Carrier) (s : State) : State × Answer :=
  if (s.vehicle v).state ≠ .offline then (s, .plain .state)
  else
    let (s, bad) := s.readBlock b
    if bad then (s, ⟨.integrity, s.joinFields v none⟩)
    else if (s.block b).holder ≠ .none ∨ (s.block b).frozen then (s, .plain .held)
    else s.joinCarrier v c (·.joinFields v none) fun s => s.joinVehicle l v b c

theorem joinBody_eq {vehicle : Byte} {block : Half} {carrier : CarrierField} (hv : vehicle? vehicle = some v)
    (hb : block? block = some b) (hc : carrier? carrier = some c) : joinBody l vehicle block carrier s =
      if !s.used b ∨ s.bayOwner b ≠ some l then (s, .plain .range)
      else s.withVehicle v (·.joinFields v none) (joinGo l v b c) := by
  rw [joinBody, hv, hb, hc]; rfl

theorem joinBody_fits {vehicle : Byte} {block : Half} {carrier : CarrierField} (hv : vehicle? vehicle = some v)
    (hb : block? block = some b) (hc : carrier? carrier = some c) (hu : s.used b = true) (hl : s.bayOwner b = some l) :
    joinBody l vehicle block carrier s = s.withVehicle v (·.joinFields v none) (joinGo l v b c) := by
  rw [joinBody_eq hv hb hc, if_neg]
  rintro (h | h)
  · rw [hu] at h; exact absurd h (by decide)
  · exact h hl

theorem joinGo_offline (hst : (s.vehicle v).state = .offline) (hf : (s.block b).flips = []) : joinGo l v b c s =
    if (s.block b).holder ≠ .none ∨ (s.block b).frozen then (s, .plain .held)
    else s.joinCarrier v c (·.joinFields v none) fun s => s.joinVehicle l v b c := by
  rw [joinGo, if_neg (not_not.mpr hst), readBlock_clean hf]; rfl

theorem joinGo_free (hst : (s.vehicle v).state = .offline) (hf : (s.block b).flips = [])
    (hholder : (s.block b).holder = .none) (hfrozen : (s.block b).frozen = false) : joinGo l v b c s =
      s.joinCarrier v c (·.joinFields v none) fun s => s.joinVehicle l v b c := by
  rw [joinGo_offline hst hf, if_neg]
  rw [hfrozen]
  exact fun h => h.elim (fun h => h hholder) Bool.false_ne_true

/-- Settles O24: JOIN whole. -/
theorem join : Obligations.Join := by
  unfold Obligations.Join
  have answers {h : Hdr} {vehicle : Byte} {block : Half} {carrier : CarrierField} {s t : State} {a : Answer}
      (hready : s.ready h .bay) (hm : s.mode ≠ .setup) (e : joinBody h.link vehicle block carrier s = (t, a)) :
      exec (.join h vehicle block carrier) s = .next (t.answered h .join a.code a.fields) :=
    request_hunts (takes_of_ready hready rfl (by cases hs : s.mode <;> first | rfl | exact absurd hs hm))
      (joinBody_hunts _ _ _ _) e
  refine ⟨fun h vehicle block carrier s hready hm => ⟨fun hout => ?_, fun v b c hv hb hc => ⟨fun hno => ?_,
    fun hu hl => ⟨fun hf => ?_, fun hf hst hbf => ?_⟩, fun hu hl hf => ⟨fun hst => ?_,
    fun hst hholder hfrozen hclean hid hdup => ?_⟩⟩⟩,
    fun h vehicle block carrier s v b c hready hm hv hb hc hu hl hf hst hbf => ⟨fun hheld => ?_, fun hholder hfrozen =>
      ⟨fun hnone hseq => ?_, fun hunk => ?_, fun id bound hid hclean hother hworked hbound => ?_⟩⟩⟩
  · refine answers hready hm (a := .plain .range) ?_
    unfold joinBody
    rcases hout with h1 | h1 | h1
    · rw [h1, inRange_none]
    · rw [h1]; cases vehicle? vehicle <;> rfl
    · rw [h1]; cases vehicle? vehicle <;> cases block? block <;> rfl
  · refine answers hready hm (a := .plain .range) ((joinBody_eq hv hb hc).trans (if_pos ?_))
    exact hno.imp_left fun h => by rw [h]; rfl
  · exact answers hready hm ((joinBody_fits hv hb hc hu hl).trans (withVehicle_damaged hf _ _))
  · refine answers hready hm (t := (read (.block b) s).1) (a := ⟨.integrity, _⟩)
      ((joinBody_fits hv hb hc hu hl).trans ((withVehicle_clean hf _ _).trans ?_))
    have hbad := readBlock_damaged hbf
    rw [joinGo, if_neg (not_not.mpr hst)]
    exact if_pos hbad
  · exact answers hready hm (a := .plain .state)
      ((joinBody_fits hv hb hc hu hl).trans ((withVehicle_clean hf _ _).trans (if_pos hst)))
  · obtain ⟨id, rfl⟩ := hid
    refine answers hready hm (a := .plain .duplicate)
      ((joinBody_fits hv hb hc hu hl).trans ((withVehicle_clean hf _ _).trans ?_))
    rw [joinGo_free hst (clean_block hclean b) hholder hfrozen, joinCarrier_id hclean]
    rcases hdup with hd | hd
    · exact if_pos (otherCarrying_iff.mpr hd)
    · rw [workedNaming_iff.mpr hd]; split <;> rfl
  all_goals
    have hbody := (joinBody_fits hv hb hc hu hl).trans (withVehicle_clean hf _ _)
  · rw [joinGo_offline hst hbf, if_pos hheld] at hbody
    exact answers hready hm (a := .plain .held) hbody
  all_goals rw [joinGo_free hst hbf hholder hfrozen] at hbody
  · subst hnone
    have hjoin := joinVehicle_eq (bound := none) (joinState_none (l := h.link) (v := v) (b := b) hseq) rfl
      (setVehicle_same _ _ _) rfl
    rw [setVehicle_over_idle] at hjoin
    exact answers hready hm (hbody.trans hjoin)
  · subst hunk
    have hjoin := joinVehicle_eq (bound := none) (joinState_carrier (s := s) (l := h.link) (v := v) (b := b)
      (c := .unknown) nofun) rfl (setVehicle_same _ _ _) rfl
    rw [setVehicle_over_trigger] at hjoin
    exact answers hready hm (hbody.trans hjoin)
  · subst hid
    rw [joinCarrier_id hclean, if_neg, if_neg] at hbody
    · have hstate := joinState_carrier (s := s) (l := h.link) (v := v) (b := b) (c := .id id) nofun
      cases bound with
      | none =>
        have hjoin := joinVehicle_eq (bound := none) hstate (bindCarrier_id_none hbound) (setVehicle_same _ _ _) rfl
        rw [setVehicle_over_trigger] at hjoin
        exact answers hready hm (hbody.trans hjoin)
      | some o =>
        have hjoin := joinVehicle_eq (bound := some o) hstate (bindCarrier_id_some hbound) (setVehicle_same _ _ _) rfl
        rw [setVehicle_over_bind] at hjoin
        exact answers hready hm (hbody.trans hjoin)
    · exact fun hd => workedNaming_iff.mp hd |>.elim fun o ⟨r, hr, hst, hcar⟩ => hworked o r hr hst hcar
    · exact fun hd => otherCarrying_iff.mp hd |>.elim fun w ⟨hw, hcar⟩ => hother w hw hcar

end Sys2Proof.Machine
end

section
/-! The answers to an offer: ACCEPT and DECLINE (R116 to R120), and the end of its countdown (R121). -/

namespace Sys2Proof.Machine

variable {s t : State} {v : VehicleId} {o : Slot} {r : OrderRec} {l : LinkId}

/-! ## An accepted request of the handshake (R68) -/

@[simp] theorem restarted_cause (n : Byte) (r : VehicleRec) : (r.restarted n).cause = r.cause := by
  unfold VehicleRec.restarted; split <;> rfl

theorem accepted_eq {n : Byte} (h : t.timing.silence = n) (code : ResultCode) (fields : State → List Byte) :
    t.accepted v code fields =
      (t.setVehicle v ((t.vehicle v).restarted n), ⟨code, fields (t.setVehicle v ((t.vehicle v).restarted n))⟩) := by
  rw [State.accepted, restartSilence_eq, h]

/-- A VEHICLE_STATE notice does not carry the countdown, so it may be written before or after the countdown restarts. -/
theorem noteVehicle_restarted (t : State) (v : VehicleId) (was : VState) (n : Byte) :
    (t.noteVehicle v was).setVehicle v ((t.vehicle v).restarted n) =
      (t.setVehicle v ((t.vehicle v).restarted n)).noteVehicle v was := by
  unfold State.noteVehicle
  dsimp only
  rw [setVehicle_same, restarted_state, restarted_cause, restarted_owner, VehicleRec.position, VehicleRec.position,
    restarted_holds]
  rfl

/-- The answer of a request whose last effect is a VEHICLE_STATE notice. -/
theorem accepted_noteVehicle {n : Byte} {was : VState} (h : t.timing.silence = n) (code : ResultCode)
    (fields : State → List Byte) : (t.noteVehicle v was).accepted v code fields =
      ((t.setVehicle v ((t.vehicle v).restarted n)).noteVehicle v was,
        ⟨code, fields ((t.setVehicle v ((t.vehicle v).restarted n)).noteVehicle v was)⟩) := by
  rw [accepted_eq (t := t.noteVehicle v was) (n := n) h, noteVehicle_at_vehicle, noteVehicle_restarted]

/-! ## The order of the vehicle (R130) -/

theorem withOrderOf_clean (hr : s.order o = some r) (hf : r.flips = []) (damaged : State → List Byte)
    (go : OrderRec → State → State × Answer) : s.withOrderOf v o damaged go = go r s := by
  unfold State.withOrderOf
  rw [readOrder_clean hr hf]
  dsimp only
  rw [hr]
  rfl

/-- A damaged order: the repair is all that the request does, but it counts as accepted. -/
theorem withOrderOf_damaged (hr : s.order o = some r) (hf : r.flips.length = 2) (damaged : State → List Byte)
    (go : OrderRec → State → State × Answer) : s.withOrderOf v o damaged go =
      let t := (read (.order o) s).1
      let u := t.setVehicle v ((t.vehicle v).restarted s.timing.silence)
      (u, ⟨.integrity, damaged u⟩) := by
  have hbad := readOrder_damaged hr hf
  have htiming : (s.readOrder o).1.timing = s.timing := ((Keeps.refl s).readOrder o).timing
  unfold State.withOrderOf
  refine (if_pos hbad).trans (accepted_eq ?_ _ _)
  exact congrArg Timing.silence htiming

/-! ## The offer that an answer names (R116) -/

/-- The vehicle has the offer of order `o`. -/
def State.offered (s : State) (v : VehicleId) (o : Slot) : Prop :=
  (s.vehicle v).state = .offered ∧ (s.vehicle v).order = some o

/-- What ACCEPT and DECLINE do with the vehicle they name. -/
def offerGo (v : VehicleId) (o : Slot) (go : OrderRec → State → State × Answer) (s : State) : State × Answer :=
  if (s.vehicle v).state = .offered ∧ (s.vehicle v).order = some o then s.withOrderOf v o (·.stateField v) go
  else if (s.vehicle v).state ≠ .stalled ∧ (s.vehicle v).timedOut = some o then s.accepted v .tooLate (·.stateField v)
  else (s, .plain .state)

theorem withOffer_go (h : (s.vehicle v).flips = []) (ho : (s.vehicle v).owner = some l)
    (go : OrderRec → State → State × Answer) : s.withOffer l v o go = offerGo v o go s :=
  withOwned_eq_go h ho _ _

theorem withOffer_damaged (h : (s.vehicle v).flips.length = 2) (go : OrderRec → State → State × Answer) :
    s.withOffer l v o go = ((read (.vehicle v) s).1, ⟨.integrity, (read (.vehicle v) s).1.stateField v⟩) :=
  withOwned_eq_damaged h _ _

theorem offerGo_tooLate (hst : (s.vehicle v).state ≠ .stalled) (ht : (s.vehicle v).timedOut = some o)
    (hno : ¬((s.vehicle v).state = .offered ∧ (s.vehicle v).order = some o)) (go : OrderRec → State → State × Answer) :
    offerGo v o go s = (s.setVehicle v ((s.vehicle v).restarted s.timing.silence),
      ⟨.tooLate, [(s.vehicle v).state.code]⟩) := by
  rw [offerGo, if_neg hno, if_pos ⟨hst, ht⟩, accepted_eq rfl, State.stateField, setVehicle_same, restarted_state]

theorem offerGo_none (h : (s.vehicle v).state = .stalled ∨ ((s.vehicle v).timedOut ≠ some o ∧
    ¬((s.vehicle v).state = .offered ∧ (s.vehicle v).order = some o))) (go : OrderRec → State → State × Answer) :
    offerGo v o go s = (s, .plain .state) := by
  rcases h with hst | ⟨ht, hno⟩
  · rw [offerGo, if_neg (by rw [hst]; exact fun h => nomatch h.1), if_neg fun h => h.1 hst]
  · rw [offerGo, if_neg hno, if_neg fun h => ht h.2]

/-! ## ACCEPT and DECLINE -/

/-- What ACCEPT does with the order offered. -/
def acceptGo (v : VehicleId) (o : Slot) (e : Echo) (r : OrderRec) (s : State) : State × Answer :=
  if (s.offerEcho r).differing e = 0 then (s.takeOffer v o r).accepted v .ok (·.stateField v)
  else
    let (t, bad) := s.withdrawOffer v o .mismatch
    if bad then t.accepted v .integrity (·.stateField v)
    else
      t.accepted v .mismatch fun _ =>
        Enc.opt2 Enc.block (s.offerEcho r).source ++ Enc.opt2 Enc.block (s.offerEcho r).dest
          ++ Enc.carrier (s.offerEcho r).carrier ++ [(s.offerEcho r).differing e]

/-- What DECLINE does with the order offered. -/
def declineGo (v : VehicleId) (o : Slot) (_ : OrderRec) (s : State) : State × Answer :=
  (s.withdrawOffer v o .declined).1.accepted v (okOr (s.withdrawOffer v o .declined).2) (·.stateField v)

theorem acceptBody_eq {vehicle : Byte} {slot source dest : Half} {carrier : CarrierField} {src : Option BlockId}
    {d : BlockId} {c : Carrier} (hv : vehicle? vehicle = some v) (ho : slot? slot = some o)
    (hsrc : blockOrNone? source = some src) (hd : block? dest = some d) (hc : carrier? carrier = some c) :
    acceptBody l vehicle slot source dest carrier s = s.withOffer l v o (acceptGo v o ⟨src, some d, c⟩) := by
  rw [acceptBody, hv, ho, hsrc, hd, hc]; rfl

theorem declineBody_eq {vehicle : Byte} {slot : Half} (hv : vehicle? vehicle = some v) (ho : slot? slot = some o) :
    declineBody l vehicle slot s = s.withOffer l v o (declineGo v o) := by
  rw [declineBody, hv, ho]; rfl

theorem mask_eq_zero_iff (p q w : Bool) :
    bit p 1 ||| bit q 2 ||| bit w 4 = 0 ↔ p = false ∧ q = false ∧ w = false := by revert p q w; decide

theorem mask_eq_sum (p q w : Bool) : bit p 1 ||| bit q 2 ||| bit w 4 = bit p 1 + bit q 2 + bit w 4 := by
  revert p q w; decide

theorem differing_eq_zero_iff (a b : Echo) :
    a.differing b = 0 ↔ b.source = a.source ∧ b.dest = a.dest ∧ b.carrier = a.carrier := by
  rw [Echo.differing, mask_eq_zero_iff, decide_eq_false_iff_not, decide_eq_false_iff_not, decide_eq_false_iff_not,
    not_not, not_not, not_not]
  exact and_congr eq_comm (and_congr eq_comm eq_comm)

theorem differing_bit {α : Type} [DecidableEq α] (x y : α) (n : Byte) :
    bit (decide (x ≠ y)) n = if y = x then 0 else n := by
  by_cases h : y = x
  · simp [bit, h]
  · simp [bit, h, Ne.symm h]

theorem differing_eq_sum (a b : Echo) : a.differing b =
    (if b.source = a.source then 0 else 1) + (if b.dest = a.dest then 0 else 2)
      + (if b.carrier = a.carrier then 0 else 4) := by
  rw [Echo.differing, mask_eq_sum, differing_bit, differing_bit, differing_bit]

theorem withdrawOffer_silence (v : VehicleId) (o : Slot) (c : OrderCause) :
    (s.withdrawOffer v o c).1.timing.silence = s.timing.silence :=
  congrArg Timing.silence ((Keeps.refl s).withdrawOffer v o c).timing

theorem noteOrder_setVehicle (x : VehicleRec) (k : OrderKind) (c : Option OrderCause) :
    (s.noteOrder o r k c).setVehicle v x = (s.setVehicle v x).noteOrder o r k c := rfl

/-- R117: the offer is taken, the order's state and the vehicle's chosen by whether the order has a source. -/
theorem takeOffer_eq : s.takeOffer v o r =
    let r' : OrderRec := { r with state := if r.source = none then .carrying else .toSource }
    let st : VState := if r.source = none then .toDest else .toSource
    (((s.setOrder o (some r')).setVehicle v { s.vehicle v with offer := none, state := st }).noteOrder o r'
      .assigned none).noteVehicle v .offered := by
  unfold State.takeOffer
  cases r.source <;> rfl

theorem acceptGo_same {e : Echo} (h : e.source = r.source.bind (fun p => (s.port p).block) ∧
    e.dest = (s.port r.destInUse).block ∧ e.carrier = r.carrier) : acceptGo v o e r s =
      let r' : OrderRec := { r with state := if r.source = none then .carrying else .toSource }
      let st : VState := if r.source = none then .toDest else .toSource
      ((((s.setOrder o (some r')).setVehicle v
        (VehicleRec.restarted s.timing.silence { s.vehicle v with offer := none, state := st })).noteOrder o r'
          .assigned none).noteVehicle v .offered, ⟨.ok, [st.code]⟩) := by
  have hmask : (s.offerEcho r).differing e = 0 := (differing_eq_zero_iff _ _).mpr h
  rw [acceptGo, if_pos hmask, takeOffer_eq, accepted_noteVehicle (n := s.timing.silence)]
  · rw [noteOrder_at_vehicle, setVehicle_same, noteOrder_setVehicle, setVehicle_setVehicle, State.stateField,
      noteVehicle_at_vehicle, noteOrder_at_vehicle, setVehicle_same, restarted_state]
  · rfl

theorem acceptGo_other {e : Echo} (h : ¬(e.source = r.source.bind (fun p => (s.port p).block) ∧
    e.dest = (s.port r.destInUse).block ∧ e.carrier = r.carrier)) : acceptGo v o e r s =
      let t := (s.withdrawOffer v o .mismatch).1
      let u := t.setVehicle v (VehicleRec.restarted s.timing.silence (t.vehicle v))
      if (s.withdrawOffer v o .mismatch).2 then (u, ⟨.integrity, u.stateField v⟩)
      else (u, ⟨.mismatch, Enc.opt2 Enc.block (s.offerEcho r).source ++ Enc.opt2 Enc.block (s.offerEcho r).dest
          ++ Enc.carrier (s.offerEcho r).carrier ++ [(s.offerEcho r).differing e]⟩) := by
  have hmask : (s.offerEcho r).differing e ≠ 0 := fun hz => h ((differing_eq_zero_iff _ _).mp hz)
  rw [acceptGo, if_neg hmask]
  dsimp only
  rw [accepted_eq (withdrawOffer_silence v o .mismatch), accepted_eq (withdrawOffer_silence v o .mismatch)]

theorem declineGo_eq : declineGo v o r s =
    let t := (s.withdrawOffer v o .declined).1
    let u := t.setVehicle v (VehicleRec.restarted s.timing.silence (t.vehicle v))
    (u, ⟨okOr (s.withdrawOffer v o .declined).2, u.stateField v⟩) := by
  rw [declineGo, accepted_eq (withdrawOffer_silence v o .declined)]

theorem exec_offerExpiry (v : VehicleId) (s : State) : exec (.offerExpiry v) s = execOfferExpiry v s := rfl

theorem offerExpiry_idle (h : ¬((s.vehicle v).offer = some 0 ∧ (s.vehicle v).state = .offered)) :
    exec (.offerExpiry v) s = .next s := by
  rw [exec_offerExpiry, execOfferExpiry, Bool.eq_false_iff.mpr (mt (offerExpired_iff _).mp h)]
  rfl

theorem offerExpiry_damaged (hoff : (s.vehicle v).offer = some 0) (hst : (s.vehicle v).state = .offered)
    (hf : (s.vehicle v).flips.length = 2) : exec (.offerExpiry v) s = .next (read (.vehicle v) s).1.endEvent := by
  have hbad := readVehicle_damaged hf
  rw [exec_offerExpiry, execOfferExpiry, (offerExpired_iff _).mpr ⟨hoff, hst⟩]
  dsimp only
  rw [hbad]
  rfl

theorem offerExpiry_order (hoff : (s.vehicle v).offer = some 0) (hst : (s.vehicle v).state = .offered)
    (hf : (s.vehicle v).flips = []) (ho : (s.vehicle v).order = some o) : exec (.offerExpiry v) s =
      .next (if (s.readOrder o).2 then (s.readOrder o).1 else ((s.readOrder o).1.withdrawOffer v o .timeout).1).endEvent := by
  rw [exec_offerExpiry, execOfferExpiry, (offerExpired_iff _).mpr ⟨hoff, hst⟩, readVehicle_clean hf]
  dsimp only
  rw [ho]
  rfl

/-- Settles O36: the answers to an offer. -/
theorem answersToAnOffer : Obligations.AnswersToAnOffer := by
  unfold Obligations.AnswersToAnOffer
  have accepts {h : Hdr} {vehicle : Byte} {slot source dest : Half} {carrier : CarrierField} {s t : State} {a : Answer}
      (hready : s.ready h .bay) (e : acceptBody h.link vehicle slot source dest carrier s = (t, a)) :
      exec (.accept h vehicle slot source dest carrier) s = .next (t.answered h .accept a.code a.fields) :=
    request_hunts (takes_of_ready hready rfl rfl) (acceptBody_hunts _ _ _ _ _ _) e
  have declines {h : Hdr} {vehicle : Byte} {slot : Half} {s t : State} {a : Answer} (hready : s.ready h .bay)
      (e : declineBody h.link vehicle slot s = (t, a)) :
      exec (.decline h vehicle slot) s = .next (t.answered h .decline a.code a.fields) :=
    request_hunts (takes_of_ready hready rfl rfl) (declineBody_hunts _ _ _) e
  refine ⟨fun h vehicle slot source dest carrier s v o src d c hready hv ho hsrc hd hc => ⟨fun hf => ?_,
      fun r hf hl hst hvo hr hrf => ?_⟩,
    fun h vehicle slot source dest carrier s v o r src d c hready hv ho hsrc hd hc hf hl hst hvo hr hrf => ?_,
    fun h vehicle slot source dest carrier s v o src d c hready hv ho hsrc hd hc hf hl =>
      ⟨fun hst ht hno => ?_, fun hno => ?_⟩,
    fun s v hno => offerExpiry_idle fun h => hno h.1⟩
  all_goals
    have hacc := acceptBody_eq (l := h.link) (s := s) hv ho hsrc hd hc
    have hdec := declineBody_eq (l := h.link) (s := s) hv ho
  · rw [withOffer_damaged hf] at hacc hdec
    exact ⟨accepts hready hacc, declines hready hdec, fun hoff hst => offerExpiry_damaged hoff hst hf⟩
  all_goals rw [withOffer_go hf hl] at hacc hdec
  · rw [offerGo, if_pos ⟨hst, hvo⟩, withOrderOf_damaged hr hrf] at hacc hdec
    refine ⟨accepts hready hacc, declines hready hdec, fun hoff => ?_⟩
    rw [offerExpiry_order hoff hst hf hvo, if_pos (readOrder_damaged hr hrf)]
    rfl
  · rw [offerGo, if_pos ⟨hst, hvo⟩, withOrderOf_clean hr hrf] at hacc hdec
    rw [declineGo_eq] at hdec
    refine ⟨fun hsame => ?_, fun hother => ⟨fun hgood => ?_, fun hbad => ?_⟩, ?_, fun hoff => ?_⟩
    · exact accepts hready (hacc.trans (acceptGo_same hsame))
    · rw [acceptGo_other hother, hgood, differing_eq_sum] at hacc
      exact accepts hready hacc
    · rw [acceptGo_other hother, hbad] at hacc
      exact accepts hready hacc
    · exact declines hready hdec
    · rw [offerExpiry_order hoff hst hf hvo, readOrder_clean hr hrf]
      rfl
  · rw [offerGo_tooLate hst ht hno] at hacc hdec
    exact ⟨accepts hready hacc, declines hready hdec⟩
  · rw [offerGo_none hno] at hacc hdec
    exact ⟨accepts hready (a := .plain .state) hacc, declines hready (a := .plain .state) hdec⟩

end Sys2Proof.Machine
end

section
/-! PICK_DONE (R122 to R125). -/

namespace Sys2Proof.Machine

variable {s t : State} {v : VehicleId} {o : Slot} {r : OrderRec} {l : LinkId} {c : Carrier} {must : VState}

@[simp] theorem restarted_carrier (n : Byte) (r : VehicleRec) : (r.restarted n).carrier = r.carrier := by
  unfold VehicleRec.restarted; split <;> rfl

/-! ## The work that a report names (R122, R126, R130) -/

/-- The vehicle has an order, in the state that the report needs. -/
theorem withWork_go (hf : (s.vehicle v).flips = []) (hl : (s.vehicle v).owner = some l) (hst : (s.vehicle v).state = must)
    (hvo : (s.vehicle v).order = some o) (damaged : State → List Byte)
    (go : Slot → OrderRec → State → State × Answer) :
    s.withWork l v must damaged go = s.withOrderOf v o damaged (go o) := by
  unfold State.withWork
  rw [withOwned_eq_go hf hl, hvo]
  exact if_pos hst

theorem withWork_damaged (hf : (s.vehicle v).flips.length = 2) (damaged : State → List Byte)
    (go : Slot → OrderRec → State → State × Answer) : s.withWork l v must damaged go =
      ((read (.vehicle v) s).1, ⟨.integrity, damaged (read (.vehicle v) s).1⟩) :=
  withOwned_eq_damaged hf _ _

theorem withWork_clean (hf : (s.vehicle v).flips = []) (hl : (s.vehicle v).owner = some l)
    (hst : (s.vehicle v).state = must) (hvo : (s.vehicle v).order = some o) (hr : s.order o = some r) (hrf : r.flips = [])
    (damaged : State → List Byte) (go : Slot → OrderRec → State → State × Answer) :
    s.withWork l v must damaged go = go o r s :=
  (withWork_go hf hl hst hvo _ _).trans (withOrderOf_clean hr hrf _ _)

theorem withWork_order_damaged (hf : (s.vehicle v).flips = []) (hl : (s.vehicle v).owner = some l)
    (hst : (s.vehicle v).state = must) (hvo : (s.vehicle v).order = some o) (hr : s.order o = some r)
    (hrf : r.flips.length = 2) (damaged : State → List Byte) (go : Slot → OrderRec → State → State × Answer) :
    s.withWork l v must damaged go =
      let t := (read (.order o) s).1
      let u := t.setVehicle v ((t.vehicle v).restarted s.timing.silence)
      (u, ⟨.integrity, damaged u⟩) :=
  (withWork_go hf hl hst hvo _ _).trans (withOrderOf_damaged hr hrf _ _)

theorem standsAt_iff {p : Option PortId} {b : BlockId} (hp : s.portBlock? p = some b) :
    s.standsAt v p = true ↔ (s.vehicle v).holds.head? = some b := by
  rw [State.standsAt, hp, VehicleRec.position, Bool.and_eq_true, decide_eq_true_iff]
  exact ⟨fun h => h.2, fun h => ⟨by rw [h]; rfl, h⟩⟩

/-! ## The order that ends -/

/-- R100, R106: order `o`, of fields `r`, told as ended and freed. -/
def State.ended (s : State) (o : Slot) (r : OrderRec) (kind : OrderKind) (cause : Option OrderCause) : State :=
  (s.noteOrder o r kind cause).freeOrder o

theorem endOrder_eq (hr : s.order o = some r) (kind : OrderKind) (cause : Option OrderCause) :
    s.endOrder o kind cause = s.ended o r kind cause := by
  rw [State.endOrder, hr]; rfl

theorem ended_at_order (x : Slot) (kind cause) : (s.ended o r kind cause).order x = if x = o then none else s.order x := by
  unfold State.ended
  exact setOrder_read ..

/-- The slots that name a carrier are the same after the end of an order that names another. -/
theorem ended_workedNaming (hr : s.order o = some r) (hc : c ≠ r.carrier) (kind cause) :
    (s.ended o r kind cause).workedNaming c = s.workedNaming c := by
  rw [Bool.eq_iff_iff, workedNaming_iff, workedNaming_iff]
  constructor
  · rintro ⟨x, r', hx, hst, hcar⟩
    rw [ended_at_order] at hx
    split at hx
    · cases hx
    · exact ⟨x, r', hx, hst, hcar⟩
  · rintro ⟨x, r', hx, hst, hcar⟩
    refine ⟨x, r', ?_, hst, hcar⟩
    rw [ended_at_order, if_neg]
    · exact hx
    · rintro rfl
      rw [hr] at hx
      cases hx
      exact hc hcar.symm

theorem queuedNaming_eq (s : State) (c : Carrier) : s.queuedNaming c = (List.finRange 256).find? fun o =>
    (s.order o).any fun r => r.state = .queued && r.carrier = c := by
  rw [State.queuedNaming, State.liveSlots, List.find?_filter]
  congr 1
  funext o
  cases s.order o with
  | none => rfl
  | some r => simp

theorem ended_queuedNaming (hr : s.order o = some r) (hc : c ≠ r.carrier) (kind cause) :
    (s.ended o r kind cause).queuedNaming c = s.queuedNaming c := by
  rw [queuedNaming_eq, queuedNaming_eq]
  congr 1
  funext x
  rw [ended_at_order]
  by_cases e : x = o
  · subst e
    rw [if_pos rfl, hr]
    simp [Ne.symm hc]
  · rw [if_neg e]

/-! ## The three outcomes -/

theorem pick_accepted {p : PortId} (hp : r.source = some p) : (s.pick v o r).accepted v .ok (·.pickFields v (some .picked) none) =
    ((((((s.releasePort o p).setOrder o (some { r with state := .carrying })).setVehicle v
      (VehicleRec.restarted s.timing.silence { s.vehicle v with state := .toDest, carrier := r.carrier })).noteOrder o
        { r with state := .carrying } .picked none).noteVehicle v .toSource),
      ⟨.ok, [0x00, 0x04] ++ Enc.carrier r.carrier ++ [0xFF, 0xFF]⟩) := by
  have hvehicle : (s.releasePort o p).vehicle v = s.vehicle v := releasePort_at_vehicle ..
  have hpick : s.pick v o r = ((((s.releasePort o p).setOrder o (some { r with state := .carrying })).setVehicle v
      { s.vehicle v with state := .toDest, carrier := r.carrier }).noteOrder o
        { r with state := .carrying } .picked none).noteVehicle v .toSource := by
    unfold State.pick
    rw [hp, ← hvehicle]
    rfl
  rw [hpick, accepted_noteVehicle (n := s.timing.silence)]
  · rw [noteOrder_at_vehicle, setVehicle_same, noteOrder_setVehicle, setVehicle_setVehicle, State.pickFields,
      State.stateField, noteVehicle_at_vehicle, noteOrder_at_vehicle, setVehicle_same, restarted_state, restarted_carrier]
    rfl
  · exact congrArg Timing.silence ((Keeps.refl s).releasePort o p).timing

theorem afterIdle_noteVehicle_accepted {x : VehicleRec} {w : Bool} {was : VState} (code : ResultCode)
    (fields : State → List Byte) : ((((t.setVehicle v x).afterIdle w).noteVehicle v was).accepted v code fields) =
      let u := ((t.setVehicle v (x.restarted t.timing.silence)).afterIdle w).noteVehicle v was
      (u, ⟨code, fields u⟩) := by
  rw [accepted_noteVehicle (n := t.timing.silence), afterIdle_at_vehicle, setVehicle_same, afterIdle_setVehicle,
    setVehicle_setVehicle]
  rw [afterIdle_timing]; rfl

/-- A vehicle whose order ends goes to IDLE, and the request is answered. -/
theorem endIdle_accepted (hr : s.order o = some r) (hseq : s.idleSeq ≠ counterTop) (kind : OrderKind)
    (cause : Option OrderCause) (was : VState) (fields : State → List Byte) :
    let p := (s.endOrder o kind cause).enterIdle read v
    (p.1.noteVehicle v was).accepted v (okOr p.2) fields =
      let u := (((s.ended o r kind cause).setVehicle v
        (((s.vehicle v).idled (s.idleSeq + 1)).restarted s.timing.silence)).afterIdle (s.vehicle v).drain).noteVehicle v was
      (u, ⟨.ok, fields u⟩) := by
  have henter := enterIdle_ready read v (s := s.ended o r kind cause) hseq
  dsimp only
  rw [endOrder_eq hr, henter, afterIdle_noteVehicle_accepted]
  rfl

/-- A vehicle enters LOADED_IDLE, the order that names its carrier is bound to it, and the request is answered. -/
theorem loaded_accepted {was : VState} (bound : Option Slot) (hbound : ∀ id, c = .id id → t.queuedNaming c = bound)
    (hno : (∀ id, c ≠ .id id) → bound = none) (code : ResultCode) (fields : Option Slot → State → List Byte) :
    let p := (t.enterLoadedIdle v c).bindCarrier v c
    (p.1.noteVehicle v was).accepted v code (fields p.2) =
      let b := match bound with
        | some x => t.bind x v
        | none => t
      let u := (b.setVehicle v (((t.vehicle v).loaded c).restarted t.timing.silence)).setTrigger.noteVehicle v was
      (u, ⟨code, fields bound u⟩) := by
  have hpair : (t.enterLoadedIdle v c).bindCarrier v c =
      ((match bound with
        | some x => t.bind x v
        | none => t).enterLoadedIdle v c, bound) := by
    cases c with
    | id i =>
      cases bound with
      | none => exact bindCarrier_id_none (t := t.enterLoadedIdle v (.id i)) (hbound i rfl)
      | some x => exact bindCarrier_id_some (t := t.enterLoadedIdle v (.id i)) (hbound i rfl)
    | none => rw [hno nofun]; rfl
    | unknown => rw [hno nofun]; rfl
  dsimp only
  rw [hpair]
  cases bound <;> dsimp only <;>
    rw [accepted_noteVehicle (n := t.timing.silence), enterLoadedIdle_eq, setTrigger_at_vehicle, setVehicle_same,
      setVehicle_over_trigger] <;> rfl

theorem pickOther_accepted (hr : s.order o = some r) (hc : c ≠ r.carrier) {d : Carrier}
    (hd : s.recordedCarrier v c = d) {bound : Option Slot} (hbound : ∀ id, d = .id id → s.queuedNaming d = bound)
    (hno : (∀ id, d ≠ .id id) → bound = none) (hdr : ∀ id, d = .id id → d = c) :
    let p := s.pickOther v o c
    p.1.accepted v (okOr false) (·.pickFields v (some .carrierMismatch) p.2) =
      let t := s.ended o r .failed (some .carrierMismatch)
      let b := match bound with
        | some x => t.bind x v
        | none => t
      (((b.setVehicle v (((s.vehicle v).loaded d).restarted s.timing.silence)).setTrigger.noteVehicle v .toSource),
        ⟨.ok, [0x02, 0x05] ++ Enc.carrier d ++ Enc.opt2 Enc.slot bound⟩) := by
  have hrec : (s.ended o r .failed (some .carrierMismatch)).recordedCarrier v c = d := by
    rw [State.recordedCarrier, ended_workedNaming hr hc]; exact hd
  have hdone := loaded_accepted (t := s.ended o r .failed (some .carrierMismatch)) (v := v) (c := d) (was := .toSource) bound
    (fun id e => by
      have hq := hbound id e
      rw [hdr id e] at hq ⊢
      rw [ended_queuedNaming hr hc]; exact hq) hno .ok fun x u => u.pickFields v (some .carrierMismatch) x
  dsimp only at hdone ⊢
  rw [State.pickOther, endOrder_eq hr]
  dsimp only
  rw [hrec]
  refine hdone.trans ?_
  rw [State.pickFields, State.stateField, noteVehicle_at_vehicle, setTrigger_at_vehicle, setVehicle_same, restarted_state,
    restarted_carrier]
  rfl

/-- The search of R125 step 2 in a part with no damaged record. -/
theorem readPickSearch_clean (h : s.clean = true) (c : Carrier) : s.readPickSearch c = (s, false) := by
  cases c with
  | id i =>
    unfold State.readPickSearch
    dsimp only
    rw [readAll_clean s vehicleRefs (fun r _ => clean_cleanAt h r)]
    dsimp only
    rw [readAll_clean s s.orderRefs (fun r _ => clean_cleanAt h r)]
    rfl
  | none => rfl
  | unknown => rfl

/-! ## PICK_DONE -/

/-- What PICK_DONE does with the order picked up. -/
def pickGo (v : VehicleId) (c : Carrier) (o : Slot) (r : OrderRec) (s : State) : State × Answer :=
  if !s.standsAt v r.source then (s, .plain .state)
  else if c = r.carrier then (s.pick v o r).accepted v .ok (·.pickFields v (some .picked) none)
  else if c = .none then
    ((s.pickEmpty v o).1).accepted v (okOr (s.pickEmpty v o).2) (·.pickFields v (some .sourceEmpty) none)
  else
    let (s, bad) := s.readPickSearch c
    let (s, bound) := s.pickOther v o c
    s.accepted v (okOr bad) (·.pickFields v (some .carrierMismatch) bound)

theorem pickDoneBody_eq {vehicle : Byte} {carrier : CarrierField} (hv : vehicle? vehicle = some v)
    (hc : carrier? carrier = some c) : pickDoneBody l vehicle carrier s =
      s.withWork l v .toSource (·.pickFields v none none) (pickGo v c) := by
  rw [pickDoneBody, hv, hc]; rfl

theorem pickGo_other (hat : s.standsAt v r.source = true) (hc : c ≠ r.carrier) (hsome : c ≠ .none)
    (hsearch : s.readPickSearch c = (s, false)) : pickGo v c o r s =
      (s.pickOther v o c).1.accepted v (okOr false) (·.pickFields v (some .carrierMismatch) (s.pickOther v o c).2) := by
  rw [pickGo, hat, if_neg (by decide), if_neg hc, if_neg hsome, hsearch]

theorem pickGo_empty (hat : s.standsAt v r.source = true) (hr : s.order o = some r) (hc : c ≠ r.carrier) (hnone : c = .none)
    (hseq : s.idleSeq ≠ counterTop) : pickGo v c o r s =
      ((((s.ended o r .failed (some .sourceEmpty)).setVehicle v
        (((s.vehicle v).idled (s.idleSeq + 1)).restarted s.timing.silence)).afterIdle (s.vehicle v).drain).noteVehicle v
          .toSource,
        ⟨.ok, [0x01, ((s.vehicle v).idled (s.idleSeq + 1)).state.code] ++ Enc.carrier .none ++ [0xFF, 0xFF]⟩) := by
  have hdone := endIdle_accepted (v := v) hr hseq .failed (some .sourceEmpty) .toSource
    fun u => u.pickFields v (some .sourceEmpty) none
  have hcarrier : ((s.vehicle v).idled (s.idleSeq + 1)).carrier = .none := by
    unfold VehicleRec.idled; split <;> rfl
  rw [pickGo, hat, if_neg (by decide), if_neg hc, if_pos hnone]
  refine hdone.trans ?_
  dsimp only
  unfold State.pickFields State.stateField
  rw [noteVehicle_at_vehicle, afterIdle_at_vehicle, setVehicle_same, restarted_state, restarted_carrier, hcarrier]
  rfl

/-- Settles O37: PICK_DONE whole. -/
theorem pickDone : Obligations.PickDone := by
  unfold Obligations.PickDone
  have answers {h : Hdr} {vehicle : Byte} {carrier : CarrierField} {s t : State} {a : Answer} (hready : s.ready h .bay)
      (e : pickDoneBody h.link vehicle carrier s = (t, a)) :
      exec (.pickDone h vehicle carrier) s = .next (t.answered h .pickDone a.code a.fields) :=
    request_hunts (takes_of_ready hready rfl rfl) (pickDoneBody_hunts _ _ _) e
  refine ⟨fun h vehicle carrier s v c hready hv hc => ⟨fun hf => ?_, fun o r hf hl hst hvo hr hrf => ?_⟩,
    fun h vehicle carrier s v c o r p b hready hv hc hf hl hst hvo hr hrf hp hb => ?_⟩
  · refine (answers hready ((pickDoneBody_eq hv hc).trans (withWork_damaged hf _ _))).trans ?_
    rfl
  · refine (answers hready ((pickDoneBody_eq hv hc).trans (withWork_order_damaged hf hl hst hvo hr hrf _ _))).trans ?_
    rfl
  have hbody := (pickDoneBody_eq (l := h.link) hv hc).trans (withWork_clean hf hl hst hvo hr hrf _ _)
  have hplace : s.portBlock? r.source = some b := by rw [hp]; exact hb
  refine ⟨fun hno => ?_, fun hat => ?_⟩
  · rw [pickGo, Bool.eq_false_iff.mpr (mt (standsAt_iff hplace).mp hno)] at hbody
    exact answers hready (a := .plain .state) hbody
  have hstands := (standsAt_iff hplace).mpr hat
  refine ⟨fun hsame => ?_, fun hne hnone hseq => ?_, fun id bound hne hid hclean hother hworked hbound => ?_,
    fun hne hcase => ?_⟩
  · rw [pickGo, hstands, if_neg (by decide), if_pos hsame, pick_accepted hp] at hbody
    rw [hsame]
    exact answers hready hbody
  · exact answers hready (hbody.trans (pickGo_empty hstands hr hne hnone hseq))
  · have hrec : s.recordedCarrier v c = c := if_neg fun h => h.elim
      (fun h => (otherCarrying_iff.mp h).elim fun w ⟨hw, hcar⟩ => hother w hw hcar)
      (fun h => (workedNaming_iff.mp h).elim fun x ⟨r', hx, hq, hcar⟩ => hworked x r' hx hq hcar)
    have hdone := pickOther_accepted (v := v) hr hne hrec (bound := bound) (fun _ _ => hbound)
      (fun hno => absurd hid (hno id)) (fun _ _ => rfl)
    rw [pickGo_other hstands hne (by rw [hid]; nofun) (readPickSearch_clean hclean c)] at hbody
    exact answers hready (hbody.trans hdone)
  · have hsearch : s.readPickSearch c = (s, false) := by
      rcases hcase with hunk | ⟨hclean, -, -⟩
      · rw [hunk]; rfl
      · exact readPickSearch_clean hclean c
    have hsome : c ≠ .none := by
      rcases hcase with hunk | ⟨-, ⟨id, hid⟩, -⟩
      · rw [hunk]; nofun
      · rw [hid]; nofun
    have hrec : s.recordedCarrier v c = .unknown := by
      rcases hcase with hunk | ⟨-, -, hdup⟩
      · rw [hunk]; exact ite_self _
      · exact if_pos (hdup.imp otherCarrying_iff.mpr workedNaming_iff.mpr)
    have hdone := pickOther_accepted (v := v) hr hne hrec (bound := none) nofun (fun _ => rfl) nofun
    rw [pickGo_other hstands hne hsome hsearch] at hbody
    exact answers hready (hbody.trans hdone)

end Sys2Proof.Machine
end

section
/-! DROP_DONE and DROP_FAIL (R126 to R128). -/

namespace Sys2Proof.Machine

variable {s t : State} {v w : VehicleId} {o x : Slot} {r : OrderRec} {l : LinkId}

/-! ## A lost order of a vehicle on the way to its destination (R141) -/

/-- Every vehicle is clean, and vehicle `v` is in a state with an order field. -/
def Stands (v : VehicleId) (st : VState) (x : Option Slot) (s : State) : Prop :=
  (∀ w, (s.vehicle w).flips = []) ∧ (s.vehicle v).state = st ∧ (s.vehicle v).order = x

variable {st : VState} {y : Option Slot}

theorem Stands.setVehicle (h : Stands v st y s) (hw : w ≠ v) {r : VehicleRec} (hr : r.flips = []) :
    Stands v st y (s.setVehicle w r) := by
  obtain ⟨hflips, hstate, horder⟩ := h
  refine ⟨fun u => ?_, ?_, ?_⟩
  · rw [setVehicle_read]; split
    · exact hr
    · exact hflips u
  · rw [setVehicle_other (h := Ne.symm hw)]; exact hstate
  · rw [setVehicle_other (h := Ne.symm hw)]; exact horder

theorem Stands.nextIdleSeq (h : Stands v st y s) : Stands v st y (s.nextIdleSeq nestedRead).1 := by
  have hread : readAll nestedRead vehicleRefs s = (s, false) := readAll_same _ fun r hr => by
    obtain ⟨w, -, rfl⟩ := List.mem_map.mp hr
    exact nestedRead_vehicle (h.1 w)
  obtain ⟨hflips, hstate, horder⟩ := h
  unfold State.nextIdleSeq State.renumberIdle
  rw [hread]
  split
  next e =>
    split at e
    · obtain ⟨rfl, -⟩ := Prod.mk.inj e
      refine ⟨fun w => ?_, ?_, ?_⟩
      · simpa [State.vehicle] using hflips w
      · simpa [State.vehicle] using hstate
      · simpa [State.vehicle] using horder
    · obtain ⟨rfl, -⟩ := Prod.mk.inj e
      exact ⟨hflips, hstate, horder⟩

theorem Stands.enterIdle (h : Stands v st y s) (hw : w ≠ v) : Stands v st y (s.enterIdle nestedRead w).1 := by
  have hnext := h.nextIdleSeq
  unfold State.enterIdle
  split
  · exact h.setVehicle hw (h.1 w)
  · generalize s.nextIdleSeq nestedRead = p at hnext
    obtain ⟨t, n, bad⟩ := p
    exact Stands.setVehicle hnext hw (hnext.1 w)

theorem Stands.orderTaken (h : Stands v st y s) (hw : w ≠ v) : Stands v st y (s.orderTaken w o) := by
  have hset : Stands v st y (s.setVehicle w { s.vehicle w with order := none, offer := none }) := h.setVehicle hw (h.1 w)
  refine ⟨fun u => ?_, ?_, ?_⟩
  · exact (congrArg VehicleRec.flips (notifyOwner_at_vehicle ..)).trans (hset.1 u)
  · exact (congrArg VehicleRec.state (notifyOwner_at_vehicle ..)).trans hset.2.1
  · exact (congrArg VehicleRec.order (notifyOwner_at_vehicle ..)).trans hset.2.2

/-- The move of another vehicle off the lost order leaves the vehicle as it stands. -/
theorem Stands.releaseVehicleOf (h : Stands v st y s) (hw : w ≠ v) :
    Stands v st y (State.releaseVehicleOf nestedRead o w s) := by
  by_cases ho : (s.vehicle w).order = some o
  · have ht : Stands v st y (s.orderTaken w o) := h.orderTaken hw
    have hloaded (c) : Stands v st y ((s.orderTaken w o).enterLoadedIdle w c) := ht.setVehicle hw (ht.1 w)
    rw [releaseVehicleOf_named ho]
    split
    · split
      · exact ht.enterIdle hw
      · exact hloaded _
    · exact ht.enterIdle hw
    · exact hloaded _
    · split
      · exact ht.setVehicle hw (ht.1 w)
      · exact ht
    · exact ht
  · rw [State.releaseVehicleOf, if_neg ho]; exact h

/-- R141 step 4: the vehicle of the lost order keeps its carrier. -/
theorem Stands.releaseVehicleOf_self (h : Stands v .toDest (some o) s) :
    Stands v .loadedIdle none (State.releaseVehicleOf nestedRead o v s) := by
  obtain ⟨hflips, hstate, horder⟩ := h
  rw [releaseVehicleOf_loaded horder (.inl hstate), orderTaken_setVehicle]
  refine ⟨fun u => ?_, ?_, ?_⟩
  · rw [noteVehicle_at_vehicle, setTrigger_at_vehicle, setVehicle_read]
    split
    · exact hflips v
    · rw [notifyOwner_at_vehicle]; exact hflips u
  · rw [noteVehicle_at_vehicle, setTrigger_at_vehicle, setVehicle_same]; rfl
  · rw [noteVehicle_at_vehicle, setTrigger_at_vehicle, setVehicle_same]; rfl

theorem Stands.releaseVehiclesOf_idle : ∀ (vs : List VehicleId) {s : State}, Stands v .loadedIdle none s →
    Stands v .loadedIdle none (State.releaseVehiclesOf nestedRead o vs s)
  | [], _, h => h
  | w :: vs, s, h => by
    rw [State.releaseVehiclesOf, nestedRead_vehicle (h.1 w)]
    refine Stands.releaseVehiclesOf_idle vs ?_
    by_cases hw : w = v
    · subst hw
      rw [State.releaseVehicleOf, if_neg (by rw [h.2.2]; nofun)]; exact h
    · exact h.releaseVehicleOf hw

theorem Stands.releaseVehiclesOf : ∀ (vs : List VehicleId) {s : State}, v ∈ vs → Stands v .toDest (some o) s →
    Stands v .loadedIdle none (State.releaseVehiclesOf nestedRead o vs s)
  | [], _, hmem, _ => absurd hmem List.not_mem_nil
  | w :: vs, s, hmem, h => by
    rw [State.releaseVehiclesOf, nestedRead_vehicle (h.1 w)]
    by_cases hw : w = v
    · subst hw
      exact Stands.releaseVehiclesOf_idle vs h.releaseVehicleOf_self
    · refine Stands.releaseVehiclesOf vs ?_ (h.releaseVehicleOf hw)
      exact (List.mem_cons.mp hmem).resolve_left (Ne.symm hw)

/-- R141: the vehicle whose order was lost on the way to its destination is LOADED_IDLE with no order. -/
theorem readOrder_damaged_loaded (hr : s.order o = some r) (hf : r.flips.length = 2) (hv : ∀ v, (s.vehicle v).flips = [])
    (hst : (s.vehicle v).state = .toDest) (hvo : (s.vehicle v).order = some o) :
    Stands v .loadedIdle none (read (.order o) s).1 := by
  have e := reads_order_damaged (f := .access) hr hf
  rw [repairOrder_eq] at e
  have e' : (read (.order o) s).1 = _ := congrArg Prod.fst e
  rw [e']
  refine Stands.releaseVehiclesOf allVehicles (mem_allVehicles v) ⟨fun w => ?_, ?_, ?_⟩
  · rw [lostOrder_at_vehicle, found_at_vehicle]; exact hv w
  · rw [lostOrder_at_vehicle, found_at_vehicle]; exact hst
  · rw [lostOrder_at_vehicle, found_at_vehicle]; exact hvo

/-! ## DROP_DONE and DROP_FAIL -/

@[simp] theorem restarted_order (n : Byte) (r : VehicleRec) : (r.restarted n).order = r.order := by
  unfold VehicleRec.restarted; split <;> rfl

/-- What DROP_DONE does with the order carried. -/
def dropGo (v : VehicleId) (o : Slot) (r : OrderRec) (s : State) : State × Answer :=
  if !s.standsAt v (some r.destInUse) then (s, .plain .state)
  else (s.deliver v o).1.accepted v (okOr (s.deliver v o).2) (·.stateField v)

/-- What DROP_FAIL does with the order carried. -/
def dropFailGo (v : VehicleId) (o : Slot) (r : OrderRec) (s : State) : State × Answer :=
  match s.turnTarget r with
  | some p => (s.turn v o r p).accepted v .ok (·.dropFailFields (some .rerouted) (some p))
  | none => (s.refuseDrop v o).accepted v .ok (·.dropFailFields (some .refused) none)

theorem dropDoneBody_eq {vehicle : Byte} (hv : vehicle? vehicle = some v) : dropDoneBody l vehicle s =
    s.withWork l v .toDest (·.stateField v) (dropGo v) := by
  rw [dropDoneBody, hv]; rfl

theorem dropFailBody_eq {vehicle : Byte} (hv : vehicle? vehicle = some v) : dropFailBody l vehicle s =
    s.withWork l v .toDest (·.dropFailDamaged v) (dropFailGo v) := by
  rw [dropFailBody, hv]; rfl

/-- The fields of an INTEGRITY answer to DROP_FAIL name the destination that is left. -/
theorem dropFailDamaged_eq (s : State) (v : VehicleId) : s.dropFailDamaged v = [0xFF] ++
    match (s.vehicle v).order.bind s.order with
    | some r =>
      let p := if r.altInUse then r.alt.getD r.dest else r.dest
      Enc.port p ++ Enc.opt2 Enc.block (s.port p).block
    | none => [0xFF, 0xFF, 0xFF] := by
  unfold State.dropFailDamaged State.dropFailFields
  cases (s.vehicle v).order.bind s.order with
  | none => rfl
  | some r => rw [List.append_assoc]; rfl

theorem dropFailFields_rerouted (s : State) (p : PortId) : s.dropFailFields (some .rerouted) (some p) =
    [0x00] ++ Enc.port p ++ Enc.opt2 Enc.block (s.port p).block := rfl

theorem turn_accepted {p : PortId} (hdest : r.altInUse = false) (hfree : p ≠ r.dest) :
    (s.turn v o r p).accepted v .ok (·.dropFailFields (some .rerouted) (some p)) =
      ((((((s.releasePort o r.dest).setPort p { s.port p with reservation := some ⟨o, .drop⟩ }).setOrder o
        (some { r with altInUse := true })).notifyOwner (s.vehicle v).owner
          (.reroute v o .dropFail p (s.port p).block none)).noteOrder o { r with altInUse := true } .rerouted none).setVehicle
            v (VehicleRec.restarted s.timing.silence (s.vehicle v)),
        ⟨.ok, [0x00] ++ Enc.port p ++ Enc.opt2 Enc.block (s.port p).block⟩) := by
  have hport : (s.releasePort o r.dest).port p = s.port p := releasePort_other hfree
  have hturn : s.turn v o r p = ((((s.releasePort o r.dest).setPort p { s.port p with reservation := some ⟨o, .drop⟩ }).setOrder
      o (some { r with altInUse := true })).notifyOwner (s.vehicle v).owner
        (.reroute v o .dropFail p (s.port p).block none)).noteOrder o { r with altInUse := true } .rerouted none := by
    have hdest' : r.destInUse = r.dest := by rw [OrderRec.destInUse, hdest]; rfl
    unfold State.turn State.reserve State.noteReroute
    dsimp only
    rw [hdest', hport, setOrder_at_vehicle, setPort_at_vehicle, releasePort_at_vehicle, State.portBlock, setOrder_at_port,
      setPort_same]
  have htiming : (s.turn v o r p).timing.silence = s.timing.silence :=
    congrArg Timing.silence ((Keeps.refl s).turn v o r p).timing
  have hvehicle : (s.turn v o r p).vehicle v = s.vehicle v := by
    rw [hturn, noteOrder_at_vehicle, notifyOwner_at_vehicle, setOrder_at_vehicle, setPort_at_vehicle,
      releasePort_at_vehicle]
  have hblock : (s.turn v o r p).portBlock p = (s.port p).block := by
    rw [hturn, State.portBlock, noteOrder_at_port, notifyOwner_at_port, setOrder_at_port, setPort_same]
  rw [accepted_eq htiming, hvehicle, dropFailFields_rerouted, setVehicle_at_port]
  rw [State.portBlock] at hblock
  rw [hblock, hturn]

theorem refuseDrop_accepted (hr : s.order o = some r) :
    (s.refuseDrop v o).accepted v .ok (·.dropFailFields (some .refused) none) =
      ((((s.ended o r .failed (some .dropRefused)).setVehicle v
        (((s.vehicle v).loaded (s.vehicle v).carrier).restarted s.timing.silence)).setTrigger.noteVehicle v .toDest),
        ⟨.ok, [0x01, 0xFF, 0xFF, 0xFF]⟩) := by
  have hvehicle : (s.ended o r .failed (some .dropRefused)).vehicle v = s.vehicle v := rfl
  rw [State.refuseDrop, endOrder_eq hr, accepted_noteVehicle (n := s.timing.silence), enterLoadedIdle_eq,
    setTrigger_at_vehicle, setVehicle_same, setVehicle_over_trigger, hvehicle] <;> rfl

theorem deliver_accepted (hr : s.order o = some r) (hseq : s.idleSeq ≠ counterTop) :
    (s.deliver v o).1.accepted v (okOr (s.deliver v o).2) (·.stateField v) =
      ((((s.ended o r .done none).setVehicle v
        (((s.vehicle v).idled (s.idleSeq + 1)).restarted s.timing.silence)).afterIdle (s.vehicle v).drain).noteVehicle v
          .toDest, ⟨.ok, [((s.vehicle v).idled (s.idleSeq + 1)).state.code]⟩) := by
  have hdone := endIdle_accepted (v := v) hr hseq .done none .toDest fun u => u.stateField v
  refine hdone.trans ?_
  dsimp only
  unfold State.stateField
  rw [noteVehicle_at_vehicle, afterIdle_at_vehicle, setVehicle_same, restarted_state]

theorem turnTarget_some {p : PortId} (halt : r.alt = some p) (huse : r.altInUse = false)
    (hdown : (s.port p).down = false) (hres : (s.port p).reservation = none) : s.turnTarget r = some p := by
  rw [State.turnTarget, huse, halt]
  simp [Option.filter, State.usable, hdown, hres]

theorem turnTarget_none (h : r.altInUse = true ∨
    ∀ p, r.alt = some p → (s.port p).down = true ∨ (s.port p).reservation ≠ none) : s.turnTarget r = none := by
  rw [State.turnTarget]
  rcases h with huse | hport
  · rw [huse]; rfl
  · split
    · rfl
    · refine Option.filter_eq_none_iff.mpr fun p hp => ?_
      rcases hport p hp with h | h
      · simp [State.usable, h]
      · simp [State.usable, h]

theorem standsAt_dest_iff {b : BlockId} (hb : (s.port r.destInUse).block = some b) :
    s.standsAt v (some r.destInUse) = true ↔ (s.vehicle v).holds.head? = some b := standsAt_iff hb

/-- Settles O38: DROP_DONE and DROP_FAIL. -/
theorem dropReports : Obligations.DropReports := by
  unfold Obligations.DropReports
  have drops {h : Hdr} {vehicle : Byte} {s t : State} {a : Answer} (hready : s.ready h .bay)
      (e : dropDoneBody h.link vehicle s = (t, a)) :
      exec (.dropDone h vehicle) s = .next (t.answered h .dropDone a.code a.fields) :=
    request_hunts (takes_of_ready hready rfl rfl) (dropDoneBody_hunts _ _) e
  have fails {h : Hdr} {vehicle : Byte} {s t : State} {a : Answer} (hready : s.ready h .bay)
      (e : dropFailBody h.link vehicle s = (t, a)) :
      exec (.dropFail h vehicle) s = .next (t.answered h .dropFail a.code a.fields) :=
    request_hunts (takes_of_ready hready rfl rfl) (dropFailBody_hunts _ _) e
  refine ⟨fun h vehicle s v hready hv => ⟨fun hf => ?_, fun o r hf hl hst hvo hr hrf => ?_⟩,
    fun h vehicle s v o r hready hv hf hl hst hvo hr hrf => ?_⟩
  · have hdrop := (dropDoneBody_eq (l := h.link) hv).trans (withWork_damaged hf _ _)
    have hfail := (dropFailBody_eq (l := h.link) hv).trans (withWork_damaged hf _ _)
    rw [dropFailDamaged_eq] at hfail
    exact ⟨drops hready hdrop, fails hready hfail⟩
  · have hdrop := (dropDoneBody_eq (l := h.link) hv).trans (withWork_order_damaged hf hl hst hvo hr hrf _ _)
    have hfail := (dropFailBody_eq (l := h.link) hv).trans (withWork_order_damaged hf hl hst hvo hr hrf _ _)
    dsimp only at hdrop hfail
    rw [dropFailDamaged_eq] at hfail
    have hd := drops hready hdrop
    have hg := fails hready hfail
    refine ⟨⟨hd, hg⟩, fun hclean => ?_⟩
    obtain ⟨-, hloaded, hnone⟩ := readOrder_damaged_loaded hr hrf hclean hst hvo
    rw [State.stateField, setVehicle_same, restarted_state, hloaded] at hd
    rw [setVehicle_same, restarted_order, hnone] at hg
    exact ⟨hd, hg⟩
  have hdrop := (dropDoneBody_eq (l := h.link) hv).trans (withWork_clean hf hl hst hvo hr hrf _ _)
  have hfail := (dropFailBody_eq (l := h.link) hv).trans (withWork_clean hf hl hst hvo hr hrf _ _)
  refine ⟨fun b hb => ⟨fun hno => ?_, fun hat hseq => ?_⟩, fun p halt huse hdown hres hne => ?_, fun hnone => ?_⟩
  · rw [dropGo, Bool.eq_false_iff.mpr (mt (standsAt_dest_iff hb).mp hno)] at hdrop
    exact drops hready (a := .plain .state) hdrop
  · rw [dropGo, (standsAt_dest_iff hb).mpr hat, if_neg (by decide), deliver_accepted hr hseq] at hdrop
    exact drops hready hdrop
  · rw [dropFailGo, turnTarget_some halt huse hdown hres] at hfail
    exact fails hready (hfail.trans (turn_accepted huse hne))
  · rw [dropFailGo, turnTarget_none hnone] at hfail
    exact fails hready (hfail.trans (refuseDrop_accepted hr))

end Sys2Proof.Machine
end

section
/-! The Dispatch Engine (R110 to R115): the choice for one order, and one decision. -/

namespace Sys2Proof.Machine

variable {s : State} {r : OrderRec} {v w : VehicleId} {p : PortId} {b : BlockId} {d : Byte} {o : Slot}

/-! ## The nearest vehicle (R112) -/

theorem usable_iff : s.usable p = true ↔ (s.port p).down = false ∧ (s.port p).reservation = none := by
  rw [State.usable, Bool.and_eq_true, Bool.not_eq_true', Option.isNone_iff_eq_none]

theorem usable_eq_false (h : ¬s.usable p = true) : s.usable p = false := Bool.eq_false_iff.mpr h

theorem nearer_eq_or (a c : VehicleId × Byte) : s.nearer a c = a ∨ s.nearer a c = c := by
  unfold State.nearer
  split
  · exact .inr rfl
  · split
    · exact .inl rfl
    · split
      · exact .inr rfl
      · exact .inl rfl

/-- Vehicle and distance `m` come before `c`: nearer, or as near with the lower idle sequence. -/
def State.before (s : State) (m c : VehicleId × Byte) : Prop :=
  m.2 < c.2 ∨ (m.2 = c.2 ∧ (s.vehicle m.1).idleSeq < (s.vehicle c.1).idleSeq)

theorem nearer_of_before {m c : VehicleId × Byte} (h : s.before m c) : s.nearer m c = m ∧ s.nearer c m = m := by
  unfold State.nearer
  rcases h with h | ⟨he, hseq⟩
  · exact ⟨by rw [if_neg (BitVec.lt_asymm h), if_pos h], by rw [if_pos h]⟩
  · constructor
    · rw [if_neg (by rw [he]; exact BitVec.lt_irrefl _), if_neg (by rw [he]; exact BitVec.lt_irrefl _),
        if_neg (BitVec.lt_asymm hseq)]
    · rw [if_neg (by rw [he]; exact BitVec.lt_irrefl _), if_neg (by rw [he]; exact BitVec.lt_irrefl _), if_pos hseq]

theorem nearer_self (m : VehicleId × Byte) : s.nearer m m = m := by
  rcases nearer_eq_or (s := s) m m with h | h <;> exact h

/-- The one that comes before all others is what the search ends with. -/
theorem foldl_nearer_best {m : VehicleId × Byte} : ∀ (xs : List (VehicleId × Byte)) (x : VehicleId × Byte), m ∈ x :: xs →
    (∀ c ∈ x :: xs, c = m ∨ s.before m c) → xs.foldl s.nearer x = m
  | [], x, hmem, _ => (List.mem_singleton.mp hmem).symm
  | y :: ys, x, hmem, hbest => by
    have hstep (c) (hc : c ∈ x :: y :: ys) : s.nearer m c = m ∧ s.nearer c m = m := by
      rcases hbest c hc with rfl | h
      · exact ⟨nearer_self c, nearer_self c⟩
      · exact nearer_of_before h
    rw [List.foldl_cons]
    refine foldl_nearer_best ys _ ?_ fun c hc => ?_
    · by_cases hx : m = x
      · rw [← hx, (hstep y (by simp)).1]; exact List.mem_cons_self
      · by_cases hy : m = y
        · rw [← hy, (hstep x (by simp)).2]; exact List.mem_cons_self
        · exact List.mem_cons_of_mem _ (by simpa [hx, hy] using hmem)
    · rcases List.mem_cons.mp hc with rfl | hc
      · rcases nearer_eq_or (s := s) x y with h | h <;> rw [h]
        · exact hbest x (by simp)
        · exact hbest y (by simp)
      · exact hbest c (by simp [hc])

theorem candidate_iff : s.candidate r v = true ↔
    (s.vehicle v).state = .idle ∧ (s.vehicle v).drain = false ∧ r.declinedBy ≠ some v := by
  simp [State.candidate, and_assoc]

theorem eligible_iff {x : VehicleId × Byte} : s.eligible r b v = some x ↔ x.1 = v ∧
    (s.vehicle v).state = .idle ∧ (s.vehicle v).drain = false ∧ r.declinedBy ≠ some v ∧ s.distance v b = some x.2 ∧
      x.2 ≠ 255 ∧ x.2 ≤ reachLimit s.timing r.cls := by
  unfold State.eligible
  by_cases hc : s.candidate r v = true
  · obtain ⟨hidle, hdrain, hdec⟩ := candidate_iff.mp hc
    rw [if_pos hc, Option.map_eq_some_iff]
    constructor
    · rintro ⟨d, hd, rfl⟩
      obtain ⟨hdist, hfit⟩ := Option.filter_eq_some_iff.mp hd
      rw [Bool.and_eq_true, decide_eq_true_iff, decide_eq_true_iff] at hfit
      exact ⟨rfl, hidle, hdrain, hdec, hdist, hfit.1, hfit.2⟩
    · rintro ⟨rfl, -, -, -, hdist, hne, hle⟩
      exact ⟨x.2, Option.filter_eq_some_iff.mpr ⟨hdist, by rw [decide_eq_true hne, decide_eq_true hle]; rfl⟩, rfl⟩
  · rw [if_neg hc]
    exact ⟨nofun, fun ⟨_, hidle, hdrain, hdec, _⟩ => absurd (candidate_iff.mpr ⟨hidle, hdrain, hdec⟩) hc⟩

theorem mem_eligible {x : VehicleId × Byte} : x ∈ allVehicles.filterMap (s.eligible r b) ↔ s.eligible r b x.1 = some x := by
  rw [List.mem_filterMap]
  constructor
  · rintro ⟨u, -, hu⟩
    have hx := (eligible_iff.mp hu).1
    rw [hx]; exact hu
  · exact fun h => ⟨x.1, mem_allVehicles _, h⟩

theorem nearest_none (h : ∀ v d, s.eligible r b v ≠ some (v, d)) : s.nearest r b = none := by
  have hnil : allVehicles.filterMap (s.eligible r b) = [] :=
    List.eq_nil_iff_forall_not_mem.mpr fun x hx => h x.1 x.2 (mem_eligible.mp hx)
  rw [State.nearest, hnil]

theorem nearest_best (hv : s.eligible r b v = some (v, d))
    (hbest : ∀ w e, s.eligible r b w = some (w, e) → w ≠ v → s.before (v, d) (w, e)) : s.nearest r b = some v := by
  have hmem : (v, d) ∈ allVehicles.filterMap (s.eligible r b) := mem_eligible.mpr hv
  have hall : ∀ c ∈ allVehicles.filterMap (s.eligible r b), c = (v, d) ∨ s.before (v, d) c := by
    intro c hc
    have he := mem_eligible.mp hc
    by_cases hw : c.1 = v
    · refine .inl ?_
      rw [hw, hv] at he
      exact (Option.some.inj he).symm
    · exact .inr (hbest c.1 c.2 he hw)
  rw [State.nearest]
  cases hl : allVehicles.filterMap (s.eligible r b) with
  | nil => rw [hl] at hmem; cases hmem
  | cons x xs =>
    rw [hl] at hmem hall
    dsimp only
    rw [foldl_nearer_best xs x hmem hall]

/-! ## The order considered (R111) -/

theorem weigh_clean (h : s.clean = true) (v : VehicleId) : State.weigh r s v = s := by
  unfold State.weigh
  rw [readVehicle_clean (clean_vehicle h v)]
  dsimp only
  split
  · split
    · rw [readBlock_clean (clean_block h _)]
    · rfl
  · rfl

theorem foldl_weigh_clean (h : s.clean = true) : ∀ vs : List VehicleId, vs.foldl (State.weigh r) s = s
  | [] => rfl
  | v :: vs => by rw [List.foldl_cons, weigh_clean h]; exact foldl_weigh_clean h vs

theorem findVehicle_clean (h : s.clean = true) (b : BlockId) : s.findVehicle r b = (s, s.nearest r b) := by
  rw [State.findVehicle, foldl_weigh_clean h]

theorem chooseDest_dest (h : s.usable r.dest = true) : s.chooseDest r = some (r.dest, false) := if_pos h

theorem chooseDest_alt {q : PortId} (h : s.usable r.dest = false) (hq : r.alt = some q) (hu : s.usable q = true) :
    s.chooseDest r = some (q, true) := by
  rw [State.chooseDest, if_neg (by rw [h]; decide), hq]
  simp [Option.filter, hu]

theorem chooseDest_none (h : s.usable r.dest = false) (hq : ∀ q, r.alt = some q → s.usable q = false) :
    s.chooseDest r = none := by
  rw [State.chooseDest, if_neg (by rw [h]; decide), Option.map_eq_none_iff]
  exact Option.filter_eq_none_iff.mpr fun q h => by rw [hq q h]; decide

theorem consider_unusable (hsrc : r.source = some p) (h : s.usable p = false) : s.consider r = (s, none) := by
  rw [State.consider, hsrc]
  dsimp only
  rw [h]

theorem consider_no_dest (hsrc : r.source = some p) (h : s.chooseDest r = none) : s.consider r = (s, none) := by
  rw [State.consider, hsrc]
  dsimp only
  rw [h]
  cases s.usable p <;> rfl

theorem consider_source {q : PortId} {alternate : Bool} (h : s.clean = true) (hsrc : r.source = some p)
    (hu : s.usable p = true) (hd : s.chooseDest r = some (q, alternate)) (hb : (s.port p).block = some b) :
    s.consider r = (s, (s.nearest r b).map fun v => (v, alternate)) := by
  rw [State.consider, hsrc]
  dsimp only
  rw [hu, hd, State.portBlock, hb]
  dsimp only
  rw [findVehicle_clean h]

theorem consider_bound (hsrc : r.source = none) (hbound : r.bound = some v) (hf : (s.vehicle v).flips = []) :
    s.consider r =
      if (s.vehicle v).state = .loadedIdle then (s, (s.chooseDest r).map fun d => (v, d.2)) else (s, none) := by
  rw [State.consider, hsrc, hbound]
  dsimp only
  rw [readVehicle_clean hf]

theorem consider_unbound (hsrc : r.source = none) (hbound : r.bound = none) : s.consider r = (s, none) := by
  rw [State.consider, hsrc, hbound]

/-- With no damaged record the state is the same after an order is considered. -/
theorem consider_clean (h : s.clean = true) (r : OrderRec) : (s.consider r).1 = s := by
  cases hsrc : r.source with
  | none =>
    cases hbound : r.bound with
    | none => rw [consider_unbound hsrc hbound]
    | some v =>
      rw [consider_bound hsrc hbound (clean_vehicle h v)]
      split <;> rfl
  | some p =>
    by_cases hu : s.usable p = true
    · cases hd : s.chooseDest r with
      | none => rw [consider_no_dest hsrc hd]
      | some x =>
        cases hb : (s.port p).block with
        | none =>
          rw [State.consider, hsrc]
          dsimp only
          rw [hu, hd, State.portBlock, hb]
        | some b => rw [consider_source h hsrc hu hd hb]
    · rw [consider_unusable hsrc (usable_eq_false hu)]

/-- Settles O39: the choice of the Dispatch Engine for one order. -/
theorem dispatchChoice : Obligations.DispatchChoice := by
  unfold Obligations.DispatchChoice
  refine ⟨fun s p => usable_iff, fun s r v hsrc hbound hf => ?_, fun s r hsrc hbound => consider_unbound hsrc hbound,
    fun s r p b hclean hsrc hb => ?_⟩
  · have hcons := consider_bound (s := s) hsrc hbound hf
    refine ⟨fun hst => hcons.trans (if_neg hst), fun hst hu => ?_, fun q hst hu hq huq => ?_, fun hst hu hno => ?_⟩
    all_goals refine hcons.trans ((if_pos hst).trans ?_)
    · rw [chooseDest_dest hu]; rfl
    · rw [chooseDest_alt hu hq huq]; rfl
    · rw [chooseDest_none hu hno]; rfl
  · intro dist limit eligible
    have hlimit : reachLimit s.timing r.cls = limit := rfl
    have helig (v : VehicleId) (d : Byte) : s.eligible r b v = some (v, d) ↔ eligible v d := by
      rw [eligible_iff, hlimit]
      exact ⟨fun h => h.2, fun h => ⟨rfl, h⟩⟩
    refine ⟨fun hu => consider_unusable hsrc hu, fun hu hno => consider_no_dest hsrc (chooseDest_none hu hno),
      fun hnone => ?_, fun v d hu hv hbest => ?_⟩
    · by_cases hu : s.usable p = true
      · cases hd : s.chooseDest r with
        | none => exact consider_no_dest hsrc hd
        | some x =>
          obtain ⟨q, alternate⟩ := x
          rw [consider_source hclean hsrc hu hd hb, nearest_none fun v d h => hnone v d ((helig v d).mp h)]
          rfl
      · exact consider_unusable hsrc (usable_eq_false hu)
    · have hnear : s.nearest r b = some v := nearest_best ((helig v d).mpr hv) fun w e h hw =>
        hbest w e ((helig w e).mp h) hw
      refine ⟨fun hd => ?_, fun q hd hq huq => ?_⟩
      · rw [consider_source hclean hsrc hu (chooseDest_dest hd) hb, hnear]; rfl
      · rw [consider_source hclean hsrc hu (chooseDest_alt hd hq huq) hb, hnear]; rfl

end Sys2Proof.Machine
end

section
/-! One decision of the Dispatch Engine (R110, R114, R115). -/

namespace Sys2Proof.Machine

variable {s : State} {r : OrderRec} {v : VehicleId} {o : Slot}

/-- An order that stays in its queue is passed over, and so is a free slot. -/
theorem scan_stays (h : s.clean = true) (os : List Slot) : ∀ pre : List Slot,
    (∀ x ∈ pre, ∀ r, s.order x = some r → (s.consider r).2 = none) → State.scan (pre ++ os) s = State.scan os s
  | [], _ => rfl
  | x :: pre, hstays => by
    have hrest := scan_stays h os pre fun y hy => hstays y (List.mem_cons_of_mem _ hy)
    rw [List.cons_append, State.scan]
    cases hx : s.order x with
    | none => rw [readOrder_free hx]; dsimp only; rw [hx]; exact hrest
    | some r =>
      have hcons : s.consider r = (s, none) :=
        Prod.ext (consider_clean h r) (hstays x List.mem_cons_self r hx)
      rw [readOrder_clean hx (clean_order h hx)]
      dsimp only
      rw [hx]
      dsimp only
      rw [hcons]
      exact hrest

/-- The order that can go is offered. -/
theorem scan_offers (h : s.clean = true) (hr : s.order o = some r) {alternate : Bool}
    (hv : (s.consider r).2 = some (v, alternate)) (os : List Slot) :
    State.scan (o :: os) s = s.offer o r v alternate := by
  have hcons : s.consider r = (s, some (v, alternate)) := Prod.ext (consider_clean h r) hv
  rw [State.scan, readOrder_clean hr (clean_order h hr)]
  dsimp only
  rw [hr]
  dsimp only
  rw [hcons]

theorem exec_dispatchDecision (s : State) : exec .dispatchDecision s = execDispatchDecision s := rfl

theorem exec_dispatchDecision_run (hm : s.mode = .run) (ht : s.trigger = true) : exec .dispatchDecision s =
    .next (State.scan s.queues.scanOrder { s with trigger := false }).endEvent := by
  rw [exec_dispatchDecision, execDispatchDecision, if_neg]
  rintro (h | h)
  · exact h hm
  · rw [ht] at h; cases h

/-- R114: the tables with the order offered, up to the reservations. -/
def State.offerRecords (s : State) (o : Slot) (r : OrderRec) (v : VehicleId) (alternate : Bool) : State :=
  ((s.leaveQueue o).setOrder o (some (r.offeredTo v alternate))).setVehicle v
    ((s.vehicle v).offeredOrder o s.timing.offer)

/-- R114: the tables with the order offered and the reservation of its source. -/
def State.offerSource (s : State) (o : Slot) (r : OrderRec) (v : VehicleId) (alternate : Bool) : State :=
  match r.source with
  | some p => (s.offerRecords o r v alternate).setPort p { s.port p with reservation := some ⟨o, .pick⟩ }
  | none => s.offerRecords o r v alternate

/-- A reservation leaves the block of every port. -/
theorem reserve_portBlock (s : State) (p q : PortId) (k : ResKind) : (s.reserve p o k).portBlock q = s.portBlock q := by
  rw [State.portBlock, State.portBlock, State.reserve, setPort_read]
  split
  next h => rw [h]
  next => rfl

theorem reserve?_portBlock (s : State) (q : PortId) (k : ResKind) :
    ∀ p : Option PortId, (s.reserve? o k p).portBlock q = s.portBlock q
  | some p => reserve_portBlock s p q k
  | none => rfl

theorem reserve?_at_vehicle (s : State) (v : VehicleId) (k : ResKind) :
    ∀ p : Option PortId, (s.reserve? o k p).vehicle v = s.vehicle v
  | some _ => rfl
  | none => rfl

/-- R114: the tables with the order offered, both of its ports reserved. -/
def State.offerPorts (s : State) (o : Slot) (r : OrderRec) (v : VehicleId) (alternate : Bool) : State :=
  ((s.offerRecords o r v alternate).reserve? o .pick r.source).reserve (r.offeredTo v alternate).destInUse o .drop

theorem offerPorts_portBlock (alternate : Bool) (q : PortId) :
    (s.offerPorts o r v alternate).portBlock q = (s.port q).block := by
  rw [State.offerPorts, reserve_portBlock, reserve?_portBlock]; rfl

theorem offerPorts_owner (alternate : Bool) :
    ((s.offerPorts o r v alternate).vehicle v).owner = (s.vehicle v).owner := by
  rw [State.offerPorts, State.reserve, setPort_at_vehicle, reserve?_at_vehicle, State.offerRecords, setVehicle_same]
  rfl

theorem offerPorts_eq (alternate : Bool) : (s.offerPorts o r v alternate).setTrigger =
    let t := { s with trigger := true }.offerSource o r v alternate
    let d := (r.offeredTo v alternate).destInUse
    t.setPort d { t.port d with reservation := some ⟨o, .drop⟩ } := by
  unfold State.offerPorts State.offerSource
  cases r.source <;> rfl

theorem notifyOwner_setTrigger (s : State) (l : Option LinkId) (n : Notice) :
    (s.notifyOwner l n).setTrigger = s.setTrigger.notifyOwner l n := by cases l <;> rfl

theorem offer_eq (alternate : Bool) : s.offer o r v alternate =
    let t := { s with trigger := true }.offerSource o r v alternate
    let d := (r.offeredTo v alternate).destInUse
    ((t.setPort d { t.port d with reservation := some ⟨o, .drop⟩ }).notifyOwner (s.vehicle v).owner
      (.assign v o r.source (r.source.bind fun p => (s.port p).block) d (s.port d).block r.carrier)).noteVehicle v
        (s.vehicle v).state := by
  let u := s.offerPorts o r v alternate
  have hsource : u.portBlock? r.source = r.source.bind fun p => (s.port p).block :=
    congrArg (Option.bind r.source) (funext fun p => offerPorts_portBlock alternate p)
  have hoffer : s.offer o r v alternate = ((u.notifyOwner (u.vehicle v).owner
      (.assign v o r.source (u.portBlock? r.source) (r.offeredTo v alternate).destInUse
        (u.portBlock (r.offeredTo v alternate).destInUse) r.carrier)).noteVehicle v (s.vehicle v).state).setTrigger := rfl
  rw [hoffer, hsource, offerPorts_portBlock, offerPorts_owner]
  dsimp only
  rw [← offerPorts_eq, ← notifyOwner_setTrigger]
  rfl

/-- Settles O40: one decision of the Dispatch Engine. -/
theorem dispatchDecision : Obligations.DispatchDecision := by
  unfold Obligations.DispatchDecision
  refine fun s => ⟨fun h => ?_, fun hm ht hclean => ?_⟩
  · rw [exec_dispatchDecision, execDispatchDecision, if_pos]
    exact h.imp_right fun h => by rw [h]; rfl
  intro s0 scanned stays
  have hs0 : s0.clean = true := hclean
  have htrigger : { s0 with trigger := true } = s := by rw [← ht]
  have hexec := exec_dispatchDecision_run hm ht
  refine ⟨fun hall => ?_, fun pre o post r v alternate hsplit hpre hr hv => ?_⟩
  · have hscan := scan_stays hs0 [] scanned hall
    rw [List.append_nil] at hscan
    rw [hexec]
    exact congrArg (fun t => Host.Outcome.next t.endEvent) hscan
  · have hscan : State.scan scanned s0 = s0.offer o r v alternate := by
      rw [hsplit, scan_stays hs0 _ pre hpre]
      exact scan_offers hs0 hr hv post
    rw [offer_eq, htrigger] at hscan
    have hdone := hexec.trans (congrArg (fun t => Host.Outcome.next t.endEvent) hscan)
    exact hdone

end Sys2Proof.Machine
end

section
/-! STATUS and the queries (R170 to R172). -/

namespace Sys2Proof.Machine

variable {s t : State} {v : VehicleId} {b : BlockId} {o d : Slot} {r : OrderRec} {l : LinkId} {tag : Half}

/-! ## A record with one flipped bit (R133) -/

theorem readVehicle_corrected (h : (s.vehicle v).flips.length = 1) : (s.readVehicle v).2 = false := by
  have hne : (s.vehicle v).flips ≠ [] := fun e => by simp [e] at h
  have hcheck : checkVehicle (s.vehicle v) = .correctable (s.vehicle v) := by simp [checkVehicle, h]
  simp only [State.readVehicle, read_step, State.readWith, hne, hcheck, ↓reduceIte]

theorem readBlock_corrected (h : (s.block b).flips.length = 1) : (s.readBlock b).2 = false := by
  have hne : (s.block b).flips ≠ [] := fun e => by simp [e] at h
  have hcheck : checkBlock (s.block b) = .correctable (s.block b) := by simp [checkBlock, h]
  simp only [State.readBlock, read_step, State.readWith, hne, hcheck, ↓reduceIte]

theorem readOrder_corrected (hr : s.order o = some r) (h : r.flips.length = 1) : (s.readOrder o).2 = false := by
  have hne : r.flips ≠ [] := fun e => by simp [e] at h
  have hcheck : checkOrder r = .correctable r := by simp [checkOrder, h]
  simp only [State.readOrder, read_step, State.readWith, hr, hne, hcheck, ↓reduceIte]

/-! ## All orders and vehicles read (R170) -/

theorem readAll_eq_foldl (rd : Reader) : ∀ (rs : List RecRef) (s : State) (bad : Bool),
    rs.foldl (fun x r => ((rd r x.1).1, x.2 || (rd r x.1).2)) (s, bad) = ((readAll rd rs s).1, bad || (readAll rd rs s).2)
  | [], s, bad => by rw [List.foldl_nil, readAll, Bool.or_false]
  | r :: rs, s, bad => by rw [List.foldl_cons, readAll_eq_foldl rd rs, readAll, Bool.or_assoc]

/-- The answer to STATUS, the orders and the vehicles having been read one after another. -/
theorem statusBody_foldl (l : LinkId) (s : State) : statusBody l s =
    let t := (s.orderRefs ++ vehicleRefs).foldl (fun x r => ((read r x.1).1, x.2 || (read r x.1).2)) (s, false)
    (t.1, ⟨okOr t.2, t.1.statusFields l⟩) := by
  rw [List.foldl_append, readAll_eq_foldl, readAll_eq_foldl, Bool.false_or]
  rfl

theorem statusBody_clean (h : s.clean = true) (l : LinkId) : statusBody l s = (s, ⟨.ok, s.statusFields l⟩) := by
  unfold statusBody
  rw [readAll_clean s _ fun r _ => clean_cleanAt h r]
  dsimp only
  rw [readAll_clean s _ fun r _ => clean_cleanAt h r]
  rfl

/-! ## A damaged order that no search keeps (R141, R172) -/

/-- Every vehicle is clean, and the orders are those of `s`. -/
def SameOrders (s t : State) : Prop := (∀ w, (t.vehicle w).flips = []) ∧ t.orders = s.orders

theorem SameOrders.setVehicle (h : SameOrders s t) (v : VehicleId) {r : VehicleRec} (hr : r.flips = []) :
    SameOrders s (t.setVehicle v r) := by
  refine ⟨fun w => ?_, h.2⟩
  rw [setVehicle_read]; split
  · exact hr
  · exact h.1 w

theorem SameOrders.notifyOwner (h : SameOrders s t) (owner n) : SameOrders s (t.notifyOwner owner n) := by
  refine ⟨fun w => ?_, (notifyOwner_orders ..).trans h.2⟩
  rw [notifyOwner_at_vehicle]; exact h.1 w

theorem SameOrders.nextIdleSeq (h : SameOrders s t) : SameOrders s (t.nextIdleSeq nestedRead).1 := by
  have hread : readAll nestedRead vehicleRefs t = (t, false) := readAll_same _ fun r hr => by
    obtain ⟨w, -, rfl⟩ := List.mem_map.mp hr
    exact nestedRead_vehicle (h.1 w)
  unfold State.nextIdleSeq State.renumberIdle
  rw [hread]
  split
  next e =>
    split at e
    · obtain ⟨rfl, -⟩ := Prod.mk.inj e
      refine ⟨fun w => ?_, h.2⟩
      simpa [State.vehicle] using h.1 w
    · obtain ⟨rfl, -⟩ := Prod.mk.inj e
      exact h

theorem SameOrders.enterIdle (h : SameOrders s t) (v : VehicleId) : SameOrders s (t.enterIdle nestedRead v).1 := by
  have hnext := h.nextIdleSeq
  unfold State.enterIdle
  split
  · exact h.setVehicle v (h.1 v)
  · generalize t.nextIdleSeq nestedRead = p at hnext
    obtain ⟨u, n, bad⟩ := p
    exact SameOrders.setVehicle hnext v (hnext.1 v)

theorem SameOrders.releaseVehicleOf (h : SameOrders s t) (v : VehicleId) :
    SameOrders s (State.releaseVehicleOf nestedRead o v t) := by
  by_cases ho : (t.vehicle v).order = some o
  · have ht : SameOrders s (t.orderTaken v o) := by
      have hset : SameOrders s (t.setVehicle v { t.vehicle v with order := none, offer := none }) :=
        h.setVehicle v (h.1 v)
      exact hset.notifyOwner _ _
    have hloaded (c) : SameOrders s ((t.orderTaken v o).enterLoadedIdle v c) := ht.setVehicle v (ht.1 v)
    rw [releaseVehicleOf_named ho]
    split
    · split
      · exact ht.enterIdle v
      · exact hloaded _
    · exact ht.enterIdle v
    · exact hloaded _
    · split
      · exact ht.setVehicle v (ht.1 v)
      · exact ht
    · exact ht
  · rw [State.releaseVehicleOf, if_neg ho]; exact h

theorem SameOrders.releaseVehiclesOf : ∀ (vs : List VehicleId) {t : State}, SameOrders s t →
    SameOrders s (State.releaseVehiclesOf nestedRead o vs t)
  | [], _, h => h
  | v :: vs, t, h => by
    rw [State.releaseVehiclesOf, nestedRead_vehicle (h.1 v)]
    exact SameOrders.releaseVehiclesOf vs (h.releaseVehicleOf v)

/-- R141: a damaged order, once read, is gone, and no other order has changed. -/
theorem readOrder_damaged_order (hr : s.order d = some r) (hf : r.flips.length = 2)
    (hv : ∀ v, (s.vehicle v).flips = []) (o : Slot) :
    (read (.order d) s).1.order o = if o = d then none else s.order o := by
  have e := reads_order_damaged (f := .access) hr hf
  rw [repairOrder_eq] at e
  have e' : (read (.order d) s).1 = _ := congrArg Prod.fst e
  have hlost : SameOrders ((s.found (.order d) .access).lostOrder d) ((s.found (.order d) .access).lostOrder d) := by
    refine ⟨fun w => ?_, rfl⟩
    rw [lostOrder_at_vehicle, found_at_vehicle]; exact hv w
  have hsame : (read (.order d) s).1.orders = ((s.found (.order d) .access).lostOrder d).orders := by
    rw [e']; exact (SameOrders.releaseVehiclesOf allVehicles hlost).2
  rw [State.order, hsame]
  exact (setOrder_read ..).trans (congrArg (fun y => if o = d then none else y) (found_at_order ..))

/-! ## The search by tag (R172) -/

/-- The order in the slot has the origin and the tag. -/
def State.hasTag (s : State) (l : LinkId) (tag : Half) (o : Slot) : Bool :=
  (s.order o).any fun r => r.origin = l ∧ r.tag = tag

theorem hasTag_eq_false (h : ∀ r, s.order o = some r → ¬(r.origin = l ∧ r.tag = tag)) : s.hasTag l tag o = false := by
  unfold State.hasTag
  cases hr : s.order o with
  | none => rfl
  | some r => exact decide_eq_false (h r hr)

theorem hasTag_eq_true (hr : s.order o = some r) (hl : r.origin = l) (ht : r.tag = tag) : s.hasTag l tag o = true := by
  rw [State.hasTag, hr]; exact decide_eq_true ⟨hl, ht⟩

theorem searchTag_clean : ∀ os : List Slot, (∀ o ∈ os, s.readOrder o = (s, false)) →
    State.searchTag l tag os s = (s, os.find? (s.hasTag l tag))
  | [], _ => rfl
  | o :: os, h => by
    rw [State.searchTag, h o List.mem_cons_self, List.find?_cons]
    by_cases htag : s.hasTag l tag o = true
    · rw [htag]; exact if_pos htag
    · rw [Bool.eq_false_iff.mpr htag]
      exact (if_neg htag).trans (searchTag_clean os fun x hx => h x (List.mem_cons_of_mem _ hx))

theorem searchTag_append (os : List Slot) : ∀ pre : List Slot,
    (∀ o ∈ pre, s.readOrder o = (s, false) ∧ s.hasTag l tag o = false) →
    State.searchTag l tag (pre ++ os) s = State.searchTag l tag os s
  | [], _ => rfl
  | o :: pre, h => by
    obtain ⟨hread, htag⟩ := h o List.mem_cons_self
    rw [List.cons_append, State.searchTag, hread]
    exact (if_neg (Bool.eq_false_iff.mp htag)).trans
      (searchTag_append os pre fun x hx => h x (List.mem_cons_of_mem _ hx))

/-- Of an ascending list, the search finds the lowest that fits. -/
theorem find?_ascending {p : Slot → Bool} : ∀ os : List Slot, os.Pairwise (· < ·) → o ∈ os → p o = true →
    (∀ x ∈ os, x < o → p x = false) → os.find? p = some o
  | x :: os, hasc, hmem, ho, hlt => by
    obtain ⟨hx, hasc'⟩ := List.pairwise_cons.mp hasc
    rw [List.find?_cons]
    by_cases e : o = x
    · rw [← e, ho]
    · have hmem' := (List.mem_cons.mp hmem).resolve_left e
      rw [hlt x List.mem_cons_self (hx o hmem')]
      exact find?_ascending os hasc' hmem' ho fun y hy => hlt y (List.mem_cons_of_mem _ hy)

/-- The live slots are ascending, so a live slot cuts them in those below it and those above it. -/
theorem liveSlots_split (h : (s.order d).isSome = true) : ∃ pre post, s.liveSlots = pre ++ d :: post ∧
    (∀ x ∈ pre, x < d) ∧ (∀ x ∈ post, d < x) ∧ post.Pairwise (· < ·) := by
  obtain ⟨pre, post, hsplit⟩ := List.append_of_mem ((mem_liveSlots s d).mpr h)
  have hasc : s.liveSlots.Pairwise (· < ·) := List.Pairwise.filter _ (List.pairwise_lt_finRange 256)
  rw [hsplit] at hasc
  obtain ⟨-, hpost, hcross⟩ := List.pairwise_append.mp hasc
  obtain ⟨hd, hpost'⟩ := List.pairwise_cons.mp hpost
  exact ⟨pre, post, hsplit, fun x hx => hcross x hx d List.mem_cons_self, hd, hpost'⟩

/-! ## The reports -/

/-- R171: the block of a QUERY_BLOCK is reported with the lowest active fence that covers it. -/
def State.blockReport (s : State) (b : BlockId) (fence : Option FenceId) : List Byte :=
  let r := s.block b
  Enc.block b ++ [r.fixed.kind.code] ++ Enc.bay r.fixed.bay ++ Enc.num r.fixed.succs.length
    ++ Enc.opt2 Enc.block r.fixed.succs[0]? ++ Enc.opt2 Enc.block r.fixed.succs[1]? ++ Enc.opt1 Enc.port r.fixed.port
    ++ Enc.holder r.holder ++ Enc.flag r.frozen ++ Enc.opt1 Enc.fence fence ++ Enc.num r.waiters.length
    ++ r.waiters.flatMap fun w => Enc.vehicle w.vehicle ++ bytes4 w.seq ++ Enc.elapsed (s.msBase - w.entry).toNat

theorem blockFields_eq {f : Option FenceId} (h : s.coveringFence b = f) : s.blockFields b = s.blockReport b f := by
  rw [← h]; rfl

theorem coveringFence_none (h : ∀ f, (s.fence f).covers b = false) : s.coveringFence b = none :=
  find?_finRange_none h

theorem coveringFence_some {f : FenceId} (hf : (s.fence f).covers b = true)
    (hlt : ∀ g, g < f → (s.fence g).covers b = false) : s.coveringFence b = some f :=
  find?_finRange hf hlt

theorem coveringFence_read (s : State) (b : BlockId) (r : RecRef) :
    (read r s).1.coveringFence b = s.coveringFence b := by
  have hfences : (read r s).1.fences = s.fences := (read_keeps r s).fences
  unfold State.coveringFence State.fence
  rw [hfences]

/-- The record of an order as QUERY_ORDER reports it. -/
theorem orderFields_eq (s : State) (o : Slot) : s.orderFields o =
    match s.order o with
    | none => Enc.slot o ++ Enc.flag false
    | some r =>
      Enc.slot o ++ Enc.flag true ++ Enc.link r.origin ++ bytes2 r.tag ++ Enc.carrier r.carrier
        ++ Enc.opt1 Enc.port r.source ++ Enc.port r.dest ++ Enc.opt1 Enc.port r.alt ++ Enc.flag r.altInUse
        ++ [r.cls.code] ++ bytes4 r.submitSeq
        ++ bytes4 (.ofNat 32 (min (s.msBase - r.classEntry).toNat 0xFFFFFFFF)) ++ [r.state.code]
        ++ Enc.flag r.suspended ++ Enc.opt1 Enc.vehicle r.vehicle ++ Enc.opt1 Enc.vehicle r.bound
        ++ Enc.opt1 Enc.vehicle r.declinedBy ++ Enc.opt2 Enc.block (r.source.bind fun p => (s.port p).block)
        ++ Enc.opt2 Enc.block (s.port (if r.altInUse then r.alt.getD r.dest else r.dest)).block
        ++ Enc.opt2 Enc.num2 (if r.state = .queued then (s.queues.get r.cls).idxOf? o else none) := by
  unfold State.orderFields
  cases s.order o with
  | none => rfl
  | some r => simp only [List.append_assoc]; rfl

theorem queryOrderBody_slot {value : Half} (ho : slot? value = some o) : queryOrderBody l 0 value s =
    ((s.readOrder o).1, ⟨okOr (s.readOrder o).2, (s.readOrder o).1.orderFields o⟩) := by
  rw [queryOrderBody, if_pos rfl, ho]; rfl

theorem queryOrderBody_tag_some (h : State.searchTag l tag s.liveSlots s = (t, some o)) :
    queryOrderBody l 1 tag s = (t, ⟨.ok, t.orderFields o⟩) := by
  unfold queryOrderBody
  rw [h, if_neg (by decide)]
  rfl

theorem queryOrderBody_tag_none (h : State.searchTag l tag s.liveSlots s = (t, none)) :
    queryOrderBody l 1 tag s = (t, .plain .unknown) := by
  unfold queryOrderBody
  rw [h, if_neg (by decide)]
  rfl

theorem searchTag_live_clean (h : s.clean = true) : State.searchTag l tag s.liveSlots s =
    (s, s.liveSlots.find? (s.hasTag l tag)) :=
  searchTag_clean _ fun o ho => by
    obtain ⟨r, hr⟩ := Option.isSome_iff_exists.mp ((mem_liveSlots s o).mp ho)
    exact readOrder_clean hr (clean_order h hr)

/-- R172: the search goes on past the one damaged order. -/
theorem searchTag_damaged {lost : OrderRec} (hd : s.order d = some lost) (hf : lost.flips.length = 2)
    (hv : ∀ v, (s.vehicle v).flips = []) (hother : ∀ x r', x ≠ d → s.order x = some r' → r'.flips = [])
    (hpre : ∀ x r', x < d → s.order x = some r' → ¬(r'.origin = l ∧ r'.tag = tag)) :
    ∃ post : List Slot, (∀ x, x ∈ post ↔ d < x ∧ (s.order x).isSome = true) ∧ post.Pairwise (· < ·) ∧
      State.searchTag l tag s.liveSlots s =
        ((read (.order d) s).1, post.find? ((read (.order d) s).1.hasTag l tag)) := by
  obtain ⟨pre, post, hsplit, hlow, hhigh, hasc⟩ := liveSlots_split (s := s) (d := d) (by rw [hd]; rfl)
  have hmem (x : Slot) : (s.order x).isSome = true ↔ x ∈ pre ∨ x = d ∨ x ∈ post := by
    rw [← mem_liveSlots, hsplit]; simp
  have horder := readOrder_damaged_order hd hf hv
  refine ⟨post, fun x => ⟨fun hx => ⟨hhigh x hx, (hmem x).mpr (.inr (.inr hx))⟩, fun ⟨hlt, hx⟩ => ?_⟩, hasc, ?_⟩
  · rcases (hmem x).mp hx with h | rfl | h
    · exact absurd hlt (lt_asymm (hlow x h))
    · exact absurd hlt (lt_irrefl _)
    · exact h
  · rw [hsplit, searchTag_append, State.searchTag]
    · have hgone : (read (.order d) s).1.order d = none := by rw [horder, if_pos rfl]
      have hskip : ((read (.order d) s).1.order d).any (fun r => r.origin = l ∧ r.tag = tag) = false := by rw [hgone]; rfl
      refine (if_neg (Bool.eq_false_iff.mp hskip)).trans (searchTag_clean post fun x hx => ?_)
      have hne : x ≠ d := (hhigh x hx).ne'
      obtain ⟨r', hr'⟩ := Option.isSome_iff_exists.mp ((hmem x).mpr (.inr (.inr hx)))
      exact readOrder_clean ((horder x).trans ((if_neg hne).trans hr')) (hother x r' hne hr')
    · intro x hx
      have hne : x ≠ d := (hlow x hx).ne
      obtain ⟨r', hr'⟩ := Option.isSome_iff_exists.mp ((hmem x).mpr (.inl hx))
      exact ⟨readOrder_clean hr' (hother x r' hne hr'), hasTag_eq_false fun r hr => hpre x r (hlow x hx) hr⟩

theorem queryVehicleBody_eq {vehicle : Byte} (hv : vehicle? vehicle = some v) : queryVehicleBody vehicle s =
    ((s.readVehicle v).1, ⟨okOr (s.readVehicle v).2, (s.readVehicle v).1.vehicleFields v⟩) := by
  rw [queryVehicleBody, hv]; rfl

theorem queryBlockBody_eq {block : Half} (hb : block? block = some b) : queryBlockBody block s =
    ((s.readBlock b).1, ⟨okOr (s.readBlock b).2, (s.readBlock b).1.blockFields b⟩) := by
  rw [queryBlockBody, hb]; rfl

/-- Every kind of R171 and R172 is permitted to every role, in every mode. -/
theorem takes_query {h : Hdr} {kind : ReqKind} (hfree : s.free h)
    (hkind : kind = .status ∨ kind = .queryVehicle ∨ kind = .queryOrder ∨ kind = .queryBlock ∨ kind = .queryPort) :
    s.takes h kind := by
  refine takes_of_free hfree (fun r hr => ?_) ?_
  · rcases hkind with rfl | rfl | rfl | rfl | rfl <;> cases r <;> first | rfl | exact absurd rfl hr
  · rcases hkind with rfl | rfl | rfl | rfl | rfl <;> rfl

/-- Settles O14: what the queries report. -/
theorem queriesReport : Obligations.QueriesReport := by
  unfold Obligations.QueriesReport
  intro h s hfree vehicleReport blockReport orderReport statusReport
  have status {t : State} {a : Answer} (e : statusBody h.link s = (t, a)) :
      exec (.status h) s = .next (t.answered h .status a.code a.fields) :=
    request_hunts (takes_query hfree (by simp)) (statusBody_hunts _) e
  have vehicles {x : Byte} {t : State} {a : Answer} (e : queryVehicleBody x s = (t, a)) :
      exec (.queryVehicle h x) s = .next (t.answered h .queryVehicle a.code a.fields) :=
    request_hunts (takes_query hfree (by simp)) (queryVehicleBody_hunts _) e
  have blocks {x : Half} {t : State} {a : Answer} (e : queryBlockBody x s = (t, a)) :
      exec (.queryBlock h x) s = .next (t.answered h .queryBlock a.code a.fields) :=
    request_hunts (takes_query hfree (by simp)) (queryBlockBody_hunts _) e
  have orders {sel : Byte} {x : Half} {t : State} {a : Answer} (e : queryOrderBody h.link sel x s = (t, a)) :
      exec (.queryOrder h sel x) s = .next (t.answered h .queryOrder a.code a.fields) :=
    request_hunts (takes_query hfree (by simp)) (queryOrderBody_hunts _ _ _) e
  have ports {x : Byte} {t : State} {a : Answer} (e : queryPortBody x s = (t, a)) :
      exec (.queryPort h x) s = .next (t.answered h .queryPort a.code a.fields) :=
    request_hunts (takes_query hfree (by simp)) (queryPortBody_hunts _) e
  have hreport (t : State) (o : Slot) : t.orderFields o = orderReport t o := orderFields_eq t o
  have hblock (t : State) (b : BlockId) (f : Option FenceId) : t.blockReport b f = blockReport t b f := rfl
  refine ⟨fun hclean => status (statusBody_clean hclean _), ?_, fun x v hv => ⟨fun hf => ?_, fun hf => ?_, fun hf => ?_⟩,
    fun x hx => ?_, fun x b hb => ?_, fun x hx => ?_, fun x o ho => ⟨fun hf => ?_, fun r hr => ⟨fun hf => ?_, fun hf => ?_,
      fun hf hv => ?_⟩⟩, fun x hx => ?_, fun tag o r hclean hr hl ht hlow => ?_, fun tag hclean hno => ?_,
    fun tag d lost hd hf hv hother => ⟨fun o r hlt hr hl ht hlow => ?_, fun hno => ?_⟩, fun sel x hsel => ?_,
    fun x p hp => ?_, fun x hx => ?_⟩
  · have hrefs : ((List.finRange 256).filter fun o => (s.order o).isSome).map RecRef.order
        ++ (List.finRange 128).map RecRef.vehicle = s.orderRefs ++ vehicleRefs := by
      rw [vehicleRefs, allVehicles_eq]; rfl
    rw [hrefs]
    exact status (statusBody_foldl h.link s)
  · have hbody := queryVehicleBody_eq (s := s) hv
    rw [readVehicle_clean hf] at hbody
    exact vehicles hbody
  · have hbody := queryVehicleBody_eq (s := s) hv
    rw [readVehicle_corrected hf] at hbody
    exact vehicles hbody
  · have hbody := queryVehicleBody_eq (s := s) hv
    rw [readVehicle_damaged hf] at hbody
    exact vehicles hbody
  · have hout : vehicle? x = none := below_eq_none hx
    exact vehicles (a := .plain .range) (by rw [queryVehicleBody, hout]; rfl)
  · have hcases {f : Option FenceId} (hcover : s.coveringFence b = f) :
        ((s.block b).flips = [] →
          exec (.queryBlock h x) s = .next (s.answered h .queryBlock .ok (blockReport s b f))) ∧
        ((s.block b).flips.length = 1 →
          let t := (read (.block b) s).1
          exec (.queryBlock h x) s = .next (t.answered h .queryBlock .ok (blockReport t b f))) ∧
        ((s.block b).flips.length = 2 →
          exec (.queryBlock h x) s =
            .next (s.answeredDamaged h .queryBlock (.block b) fun t => blockReport t b f)) := by
      have hafter : (s.readBlock b).1.blockFields b = blockReport (s.readBlock b).1 b f :=
        blockFields_eq ((coveringFence_read s b _).trans hcover)
      have hbody := queryBlockBody_eq (s := s) hb
      rw [hafter] at hbody
      refine ⟨fun hf => ?_, fun hf => ?_, fun hf => ?_⟩
      · rw [readBlock_clean hf] at hbody
        exact blocks hbody
      · rw [readBlock_corrected hf] at hbody
        exact blocks hbody
      · rw [readBlock_damaged hf] at hbody
        exact blocks hbody
    exact ⟨fun hno => hcases (coveringFence_none hno), fun f hf hlt => hcases (coveringFence_some hf hlt)⟩
  · have hout : block? x = none := below_eq_none hx
    exact blocks (a := .plain .range) (by rw [queryBlockBody, hout]; rfl)
  · have hread : s.readOrder o = (s, false) := by
      cases hr : s.order o with
      | none => exact readOrder_free hr
      | some r => exact readOrder_clean hr (hf r hr)
    have hbody := queryOrderBody_slot (l := h.link) (s := s) ho
    rw [hread, hreport] at hbody
    exact orders hbody
  · have hbody := queryOrderBody_slot (l := h.link) (s := s) ho
    rw [readOrder_corrected hr hf, hreport] at hbody
    exact orders hbody
  · have hbody := queryOrderBody_slot (l := h.link) (s := s) ho
    rw [readOrder_damaged hr hf, hreport] at hbody
    exact orders hbody
  · have hgone : (read (.order o) s).1.order o = none := readOrder_damaged_gone hr hf hv
    have hfields : (s.readOrder o).1.orderFields o = Enc.slot o ++ Enc.flag false := by
      rw [orderFields_eq, State.readOrder, hgone]
    have hbody := queryOrderBody_slot (l := h.link) (s := s) ho
    rw [readOrder_damaged hr hf, hfields] at hbody
    exact orders hbody
  · have hout : slot? x = none := below_eq_none hx
    exact orders (a := .plain .range) (by rw [queryOrderBody, if_pos rfl, hout]; rfl)
  · have hfind : s.liveSlots.find? (s.hasTag h.link tag) = some o :=
      find?_liveSlots (by rw [hr]; nofun) (hasTag_eq_true hr hl ht) fun x hx _ => hasTag_eq_false fun r' => hlow x r' hx
    have hbody := queryOrderBody_tag_some ((searchTag_live_clean hclean).trans (by rw [hfind]))
    rw [hreport] at hbody
    exact orders hbody
  · have hfind : s.liveSlots.find? (s.hasTag h.link tag) = none :=
      find?_liveSlots_none fun x _ => hasTag_eq_false fun r' => hno x r'
    exact orders (a := .plain .unknown) (queryOrderBody_tag_none ((searchTag_live_clean hclean).trans (by rw [hfind])))
  · obtain ⟨post, hmem, hasc, hsearch⟩ := searchTag_damaged (l := h.link) (tag := tag) hd hf hv hother
      fun x r' hx => hlow x r' (lt_trans hx hlt) hx.ne
    have horder := readOrder_damaged_order hd hf hv
    have hfind : post.find? ((read (.order d) s).1.hasTag h.link tag) = some o := by
      refine find?_ascending post hasc ((hmem o).mpr ⟨hlt, by rw [hr]; rfl⟩)
        (hasTag_eq_true (by rw [horder, if_neg hlt.ne']; exact hr) hl ht) fun x hx hxo => hasTag_eq_false fun r' hr' => ?_
      have hxd : x ≠ d := ((hmem x).mp hx).1.ne'
      rw [horder, if_neg hxd] at hr'
      exact hlow x r' hxo hxd hr'
    have hbody := queryOrderBody_tag_some (hsearch.trans (by rw [hfind]))
    rw [hreport] at hbody
    exact orders hbody
  · obtain ⟨post, hmem, hasc, hsearch⟩ := searchTag_damaged (l := h.link) (tag := tag) hd hf hv hother
      fun x r' hx => hno x r' hx.ne
    have horder := readOrder_damaged_order hd hf hv
    have hfind : post.find? ((read (.order d) s).1.hasTag h.link tag) = none := by
      refine List.find?_eq_none.mpr fun x hx => Bool.eq_false_iff.mp (hasTag_eq_false fun r' hr' => ?_)
      have hxd : x ≠ d := ((hmem x).mp hx).1.ne'
      rw [horder, if_neg hxd] at hr'
      exact hno x r' hxd hr'
    exact orders (a := .plain .unknown) (queryOrderBody_tag_none (hsearch.trans (by rw [hfind])))
  · have h0 : sel ≠ 0 := fun e => by rw [e] at hsel; exact absurd hsel (by decide)
    have h1 : sel ≠ 1 := fun e => by rw [e] at hsel; exact absurd hsel (by decide)
    exact orders (a := .plain .range) (by rw [queryOrderBody, if_neg h0, if_neg h1])
  · exact ports (by rw [queryPortBody, hp])
  · have hout : port? x = none := below_eq_none hx
    exact ports (a := .plain .range) (by rw [queryPortBody, hout]; rfl)

end Sys2Proof.Machine
end

section
/-! SUBMIT_ORDER (R90, R91) and the class queues (R89). -/

namespace Sys2Proof.Machine

variable {s t : State} {v : VehicleId} {o : Slot} {l : LinkId} {tag : Half} {c : Carrier} {src : Option PortId} {d : PortId}
  {a : Option PortId} {q : Cls} {bound : Option VehicleId}

/-! ## A queue in the order of its sequences (R89) -/

theorem insertBySeq_perm (seq : Slot → Word) (o : Slot) : ∀ xs : List Slot, (insertBySeq seq o xs).Perm (o :: xs)
  | [] => .refl _
  | x :: xs => by
    rw [insertBySeq]
    split
    · exact .refl _
    · exact ((insertBySeq_perm seq o xs).cons x).trans (.swap o x xs)

theorem insertBySeq_sorted (seq : Slot → Word) (o : Slot) : ∀ xs : List Slot, xs.Pairwise (fun x y => seq x ≤ seq y) →
    (insertBySeq seq o xs).Pairwise (fun x y => seq x ≤ seq y)
  | [], _ => List.pairwise_singleton _ _
  | x :: xs, h => by
    obtain ⟨hx, hxs⟩ := List.pairwise_cons.mp h
    rw [insertBySeq]
    split
    next hlt =>
      have hle : seq o ≤ seq x := BitVec.le_of_lt hlt
      refine List.pairwise_cons.mpr ⟨fun y hy => ?_, h⟩
      rcases List.mem_cons.mp hy with rfl | hy
      · exact hle
      · exact BitVec.le_trans hle (hx y hy)
    next hge =>
      refine List.pairwise_cons.mpr ⟨fun y hy => ?_, insertBySeq_sorted seq o xs hxs⟩
      rcases List.mem_cons.mp ((insertBySeq_perm seq o xs).mem_iff.mp hy) with rfl | hy
      · exact BitVec.not_lt.mp hge
      · exact hx y hy

theorem insertBySeq_last (seq : Slot → Word) (o : Slot) : ∀ xs : List Slot, (∀ x ∈ xs, seq x ≤ seq o) →
    insertBySeq seq o xs = xs ++ [o]
  | [], _ => rfl
  | x :: xs, h => by
    rw [insertBySeq, if_neg (BitVec.not_lt.mpr (h x List.mem_cons_self)),
      insertBySeq_last seq o xs fun y hy => h y (List.mem_cons_of_mem _ hy)]
    rfl

/-! ## The tests of a submission -/

theorem portsFit_iff : s.portsFit src d a = true ↔
    (∀ p, p = d ∨ src = some p ∨ a = some p → (s.port p).block ≠ none) ∧ src ≠ some d ∧ a ≠ some d ∧
      (src = none ∨ src ≠ a) := by
  simp only [State.portsFit, State.placed, Bool.and_eq_true, Bool.or_eq_true, decide_eq_true_eq, ne_eq,
    Option.isNone_iff_eq_none, Option.all_eq_true, Option.isSome_iff_ne_none]
  constructor
  · rintro ⟨⟨⟨⟨⟨hsrc, hdest⟩, halt⟩, h1⟩, h2⟩, h3⟩
    refine ⟨fun p hp => ?_, h1, h2, h3⟩
    rcases hp with rfl | hp | hp
    · exact hdest
    · exact hsrc p hp
    · exact halt p hp
  · rintro ⟨hp, h1, h2, h3⟩
    exact ⟨⟨⟨⟨⟨fun p h => hp p (.inr (.inl h)), hp d (.inl rfl)⟩, fun p h => hp p (.inr (.inr h))⟩, h1⟩, h2⟩, h3⟩

/-- R90, R91: the vehicle carries the carrier and a new order can be bound to it. -/
def State.bindsTo (s : State) (c : Carrier) (v : VehicleId) : Prop :=
  (s.vehicle v).carrier = c ∧
    ((s.vehicle v).state = .loadedIdle ∨ ((s.vehicle v).state = .stalled ∧ (s.vehicle v).saved = some .loadedIdle))

theorem bindsTo_iff : ((s.vehicle v).carrier = c && (s.vehicle v).bindable) = true ↔ s.bindsTo c v := by
  simp [State.bindsTo, VehicleRec.bindable]

theorem bindTarget_none (h : ∀ v, ¬s.bindsTo c v) : s.bindTarget c = none :=
  List.find?_eq_none.mpr fun v _ => mt bindsTo_iff.mp (h v)

theorem bindTarget_bindsTo (h : s.bindTarget c = some v) : s.bindsTo c v :=
  bindsTo_iff.mp (List.find?_some (p := fun v => (s.vehicle v).carrier = c && (s.vehicle v).bindable) h)

theorem bindTarget_isSome (h : s.bindsTo c v) : ∃ w, s.bindTarget c = some w := by
  cases hw : s.bindTarget c with
  | none => exact absurd (bindsTo_iff.mpr h) (List.find?_eq_none.mp hw v (mem_allVehicles v))
  | some w => exact ⟨w, rfl⟩

/-- The target, when one vehicle alone carries the carrier. -/
theorem bindTarget_eq (hcar : ∀ v, (s.vehicle v).carrier = c ↔ bound = some v)
    (hbind : ∀ v, bound = some v → (s.vehicle v).state = .loadedIdle ∨
      ((s.vehicle v).state = .stalled ∧ (s.vehicle v).saved = some .loadedIdle)) : s.bindTarget c = bound := by
  cases bound with
  | none => exact bindTarget_none fun v h => nomatch (hcar v).mp h.1
  | some v =>
    obtain ⟨w, hw⟩ := bindTarget_isSome (s := s) (c := c) (v := v) ⟨(hcar v).mpr rfl, hbind v rfl⟩
    rw [hw, (hcar w).mp (bindTarget_bindsTo hw).1]

theorem carriedElsewhere_iff : s.carriedElsewhere c = true ↔ (∃ v, (s.vehicle v).carrier = c ∧ ¬s.bindsTo c v) ∨
    ∃ v w, v ≠ w ∧ (s.vehicle v).carrier = c ∧ (s.vehicle w).carrier = c := by
  simp only [State.carriedElsewhere, List.any_eq_true, mem_allVehicles, true_and, Bool.and_eq_true, decide_eq_true_eq]
  constructor
  · rintro ⟨v, hcar, hne⟩
    by_cases hv : s.bindsTo c v
    · obtain ⟨w, hw⟩ := bindTarget_isSome hv
      exact .inr ⟨v, w, fun e => hne (by rw [e, hw]), hcar, (bindTarget_bindsTo hw).1⟩
    · exact .inl ⟨v, hcar, hv⟩
  · rintro (⟨v, hcar, hno⟩ | ⟨v, w, hvw, hv, hw⟩)
    · exact ⟨v, hcar, fun h => hno (bindTarget_bindsTo h)⟩
    · by_cases h : s.bindTarget c = some v
      · exact ⟨w, hw, fun h' => hvw (Option.some.inj (h.symm.trans h'))⟩
      · exact ⟨v, hv, h⟩

theorem liveNaming_iff : s.liveNaming c = true ↔ ∃ x r, s.order x = some r ∧ r.carrier = c := by
  simp only [State.liveNaming, List.any_eq_true, mem_liveSlots]
  constructor
  · rintro ⟨x, hlive, hx⟩
    obtain ⟨r, hr⟩ := Option.isSome_iff_exists.mp hlive
    rw [hr] at hx
    exact ⟨x, r, hr, of_decide_eq_true hx⟩
  · rintro ⟨x, r, hr, hc⟩
    exact ⟨x, by rw [hr]; rfl, by rw [hr]; exact decide_eq_true hc⟩

theorem tagLive_iff : s.tagLive l tag = true ↔ ∃ x r, s.order x = some r ∧ r.origin = l ∧ r.tag = tag := by
  simp only [State.tagLive, List.any_eq_true, mem_liveSlots]
  constructor
  · rintro ⟨x, -, hx⟩
    obtain ⟨r, hr, h⟩ := (Option.any_eq_true _ _).mp hx
    obtain ⟨hl, ht⟩ := of_decide_eq_true h
    exact ⟨x, r, hr, hl, ht⟩
  · rintro ⟨x, r, hr, hl, ht⟩
    exact ⟨x, by rw [hr]; rfl, by rw [hr]; exact decide_eq_true ⟨hl, ht⟩⟩

theorem freeSlot_none (h : ∀ x, s.order x ≠ none) : s.freeSlot = none :=
  find?_finRange_none fun x => Bool.eq_false_iff.mpr fun hx => h x (Option.isNone_iff_eq_none.mp hx)

theorem freeSlot_some (ho : s.order o = none) (hlt : ∀ x, x < o → s.order x ≠ none) : s.freeSlot = some o :=
  find?_finRange (by rw [ho]; rfl) fun x hx => Bool.eq_false_iff.mpr fun h => hlt x hx (Option.isNone_iff_eq_none.mp h)

/-! ## The checks, no record damaged -/

theorem readVehiclesUntil_clean (h : s.clean = true) : readUntilBad read vehicleRefs s = (s, false) :=
  readVehiclesUntilBad_clean (clean_vehicle h)

theorem submitChecks_clean (h : s.clean = true) : s.submitChecks l tag c src d a q =
    if s.liveNaming c then (s, .plain .duplicate)
    else if s.carriedElsewhere c then (s, .plain .duplicate)
    else if s.tagLive l tag then (s, .plain .duplicate)
    else match s.freeSlot with
      | none => (s, .plain .full)
      | some o => s.takeOrder l o tag c src d a q := by
  unfold State.submitChecks
  rw [readAll_orders_clean h]
  dsimp only
  rw [readVehiclesUntil_clean h]
  rfl

/-- The carrier or the tag of a submission is in use (R90 steps 5 and 6). -/
def State.submitTaken (s : State) (l : LinkId) (tag : Half) (c : Carrier) : Prop :=
  (∃ x r, s.order x = some r ∧ (r.carrier = c ∨ (r.origin = l ∧ r.tag = tag))) ∨
    (∃ v, (s.vehicle v).carrier = c ∧ ¬s.bindsTo c v) ∨
    ∃ v w, v ≠ w ∧ (s.vehicle v).carrier = c ∧ (s.vehicle w).carrier = c

theorem submitTaken_iff : s.submitTaken l tag c ↔
    s.liveNaming c = true ∨ s.carriedElsewhere c = true ∨ s.tagLive l tag = true := by
  rw [liveNaming_iff, carriedElsewhere_iff, tagLive_iff, State.submitTaken]
  constructor
  · rintro (⟨x, r, hr, hc | ht⟩ | h)
    · exact .inl ⟨x, r, hr, hc⟩
    · exact .inr (.inr ⟨x, r, hr, ht⟩)
    · exact .inr (.inl h)
  · rintro (⟨x, r, hr, hc⟩ | h | ⟨x, r, hr, ht⟩)
    · exact .inl ⟨x, r, hr, .inl hc⟩
    · exact .inr h
    · exact .inl ⟨x, r, hr, .inr ht⟩

theorem submitChecks_taken (h : s.clean = true) (ht : s.submitTaken l tag c) :
    s.submitChecks l tag c src d a q = (s, .plain .duplicate) := by
  rw [submitChecks_clean h]
  by_cases h1 : s.liveNaming c = true
  · exact if_pos h1
  · rw [if_neg h1]
    by_cases h2 : s.carriedElsewhere c = true
    · exact if_pos h2
    · rw [if_neg h2]
      exact if_pos (((submitTaken_iff.mp ht).resolve_left h1).resolve_left h2)

theorem submitChecks_free (h : s.clean = true) (ht : ¬s.submitTaken l tag c) : s.submitChecks l tag c src d a q =
    match s.freeSlot with
      | none => (s, .plain .full)
      | some o => s.takeOrder l o tag c src d a q := by
  have hno := mt submitTaken_iff.mpr ht
  rw [submitChecks_clean h, if_neg fun h => hno (.inl h), if_neg fun h => hno (.inr (.inl h)),
    if_neg fun h => hno (.inr (.inr h))]

/-- What SUBMIT_ORDER does once its ports fit. -/
def submitGo (l : LinkId) (tag : Half) (c : Carrier) (src : Option PortId) (d : PortId) (a : Option PortId) (q : Cls)
    (s : State) : State × Answer :=
  if src.isSome then s.submitChecks l tag c src d a q
  else
    let (s, bad) := readUntilBad read vehicleRefs s
    if bad then (s, submitDamaged)
    else if (s.bindTarget c).isNone then (s, .plain .state)
    else s.submitChecks l tag c src d a q

theorem submitGo_unbound (h : s.clean = true) (hsrc : src = none) (hno : s.bindTarget c = none) :
    submitGo l tag c src d a q s = (s, .plain .state) := by
  unfold submitGo
  rw [readVehiclesUntil_clean h]
  dsimp only
  rw [hsrc, hno]
  rfl

theorem submitGo_checks (h : s.clean = true) (hbind : src = none → s.bindTarget c ≠ none) :
    submitGo l tag c src d a q s = s.submitChecks l tag c src d a q := by
  unfold submitGo
  rw [readVehiclesUntil_clean h]
  dsimp only
  cases src with
  | some p => rfl
  | none =>
    have hsome : (s.bindTarget c).isNone = false := by
      rw [Option.isNone_eq_false_iff, Option.isSome_iff_ne_none]; exact hbind rfl
    rw [hsome]
    rfl

section
variable {carrier : CarrierField} {source dest alt cls : Byte}

theorem submitOrderBody_eq (hc : carrierId? carrier = some c) (hsrc : portOrNone? source = some src)
    (hd : port? dest = some d) (ha : portOrNone? alt = some a) (hq : cls? cls = some q) :
    submitOrderBody l tag carrier source dest alt cls s =
      if !s.portsFit src d a then (s, .plain .range) else submitGo l tag c src d a q s := by
  rw [submitOrderBody, hc, hsrc, hd, ha, hq]; rfl

end

theorem takeOrder_ready (hseq : s.submitSeq ≠ counterTop) (hbound : s.bindTarget c = bound) :
    s.takeOrder l o tag c src d a q =
      ({ s with submitSeq := s.submitSeq + 1, trigger := true }.queued o
        { origin := l, tag := tag, carrier := c, source := if bound = none then src else none, dest := d, alt := a
          altInUse := false, cls := q, submitSeq := s.submitSeq + 1, classEntry := s.msBase, state := .queued
          suspended := false, vehicle := none, bound := bound, declinedBy := none, flips := [] },
        ⟨.ok, Enc.slot o ++ [q.code] ++ Enc.opt1 Enc.vehicle bound⟩) := by
  have hbound' : { s with submitSeq := s.submitSeq + 1 }.bindTarget c = bound := hbound
  unfold State.takeOrder
  rw [nextSubmitSeq_ready read hseq]
  dsimp only
  rw [hbound', enterQueue_setOrder]
  cases bound <;> rfl

/-! ## The orders read before the checks -/

theorem readAll_order_refs (rd : Reader) : ∀ (os : List Slot) (s : State),
    (readAll rd (os.map .order) s).1 = os.foldl (fun u o => (rd (.order o) u).1) s
  | [], _ => rfl
  | o :: os, s => by rw [List.map_cons, readAll, List.foldl_cons, ← readAll_order_refs rd os]

/-- The checks of a submission begin with every live order read (log entry 41). -/
theorem submitChecks_read (ht : (readAll read s.orderRefs s).1 = t) (h : t.clean = true) :
    s.submitChecks l tag c src d a q = t.submitChecks l tag c src d a q := by
  unfold State.submitChecks
  rw [ht, readAll_orders_clean h]

theorem Keeps.portsFit (h : Keeps s t) (src : Option PortId) (d : PortId) (a : Option PortId) :
    t.portsFit src d a = s.portsFit src d a := by
  have hplaced : t.placed = s.placed := funext fun p => by rw [State.placed, State.placed, h.placed]
  rw [State.portsFit, State.portsFit, hplaced]

theorem Keeps.ready {h : Hdr} {r : Role} (k : Keeps s t) (hready : s.ready h r) : t.ready h r := by
  obtain ⟨hrole, hfits, hslot⟩ := hready
  exact ⟨(k.links h.link).role.trans hrole, hfits, (k.links h.link).slot.trans hslot⟩

/-- Settles O17: SUBMIT_ORDER and the class queues. -/
theorem submitOrder : Obligations.SubmitOrder := by
  unfold Obligations.SubmitOrder
  have answers {h : Hdr} {tag : Half} {carrier : CarrierField} {source dest alt cls : Byte} {s t : State} {a : Answer}
      (hready : s.ready h .scheduler) (hm : s.mode ≠ .setup)
      (e : submitOrderBody h.link tag carrier source dest alt cls s = (t, a)) :
      exec (.submitOrder h tag carrier source dest alt cls) s = .next (t.answered h .submitOrder a.code a.fields) :=
    request_hunts (takes_of_ready hready rfl (by cases hs : s.mode <;> first | rfl | exact absurd hs hm))
      (submitOrderBody_hunts _ _ _ _ _ _ _) e
  refine ⟨fun h tag carrier source dest alt cls s c src d a q o bound hready hm hclean hc hsrc hd ha hq hp h1 h2 h3 hfree
      hbind hcar hstate ho hlow hseq => ?_,
    fun h tag carrier source dest alt cls s hready hm => ⟨fun hout => ?_, fun c src d a q hc hsrc hd ha hq =>
      ⟨fun hbad => ?_, fun hp h1 h2 h3 hclean => ?_, fun hp h1 h2 hsome h3 => ?_⟩⟩,
    fun seq o xs h => ⟨insertBySeq_sorted seq o xs h, insertBySeq_perm seq o xs⟩, insertBySeq_last⟩
  · have hfit := portsFit_iff.mpr ⟨hp, h1, h2, h3⟩
    have hbound : s.bindTarget c = bound := bindTarget_eq hcar hstate
    have htaken : ¬s.submitTaken h.link tag c := by
      rintro (⟨x, r, hr, hx⟩ | ⟨v, hv, hno⟩ | ⟨v, w, hvw, hv, hw⟩)
      · exact hx.elim (hfree x r hr).1 (hfree x r hr).2
      · exact hno ⟨hv, hstate v ((hcar v).mp hv)⟩
      · exact hvw (Option.some.inj (((hcar v).mp hv).symm.trans ((hcar w).mp hw)))
    have hbody := submitOrderBody_eq (l := h.link) (tag := tag) (s := s) hc hsrc hd ha hq
    rw [hfit, submitGo_checks hclean fun e => by rw [hbound]; exact hbind e, submitChecks_free hclean htaken,
      freeSlot_some ho hlow] at hbody
    exact answers hready hm (hbody.trans (takeOrder_ready hseq hbound))
  · refine answers hready hm (a := .plain .range) ?_
    unfold submitOrderBody
    rcases hout with h1 | h1 | h1 | h1 | h1
    · rw [h1, inRange_none]
    · rw [h1]; cases carrierId? carrier <;> rfl
    · rw [h1]; cases carrierId? carrier <;> cases portOrNone? source <;> rfl
    · rw [h1]; cases carrierId? carrier <;> cases portOrNone? source <;> cases port? dest <;> rfl
    · rw [h1]
      cases carrierId? carrier <;> cases portOrNone? source <;> cases port? dest <;> cases portOrNone? alt <;> rfl
  all_goals have hbody := submitOrderBody_eq (l := h.link) (tag := tag) (s := s) hc hsrc hd ha hq
  · have hno : s.portsFit src d a = false := Bool.eq_false_iff.mpr fun hfit => by
      obtain ⟨hp, h1, h2, h3⟩ := portsFit_iff.mp hfit
      rcases hbad with ⟨p, hmem, hnone⟩ | h | h | ⟨hne, heq⟩
      · exact hp p hmem hnone
      · exact h1 h
      · exact h2 h
      · exact h3.elim hne fun h => h heq
    rw [hno] at hbody
    exact answers hready hm (a := .plain .range) hbody
  · intro bindable taken
    rw [portsFit_iff.mpr ⟨hp, h1, h2, h3⟩] at hbody
    have hsome (hb : src = none → ∃ v, bindable v) : src = none → s.bindTarget c ≠ none := fun e => by
      obtain ⟨v, hv⟩ := hb e
      obtain ⟨w, hw⟩ := bindTarget_isSome (s := s) (c := c) hv
      rw [hw]; nofun
    refine ⟨fun hnone hno => ?_, fun hb ht => ?_, fun hb ht hfull => ?_⟩
    · exact answers hready hm (a := .plain .state) (hbody.trans (submitGo_unbound hclean hnone (bindTarget_none hno)))
    · exact answers hready hm (a := .plain .duplicate)
        (hbody.trans ((submitGo_checks hclean (hsome hb)).trans (submitChecks_taken hclean ht)))
    · have hgo := (submitGo_checks (l := h.link) (tag := tag) (d := d) (a := a) (q := q) hclean (hsome hb)).trans
        (submitChecks_free hclean ht)
      rw [freeSlot_none hfull] at hgo
      exact answers hready hm (a := .plain .full) (hbody.trans hgo)
  · intro t hclean
    have hread : (readAll read s.orderRefs s).1 = t := readAll_order_refs read s.liveSlots s
    have hkeep : Keeps s t := hread ▸ (Keeps.refl s).readAll read_keeps _
    have hfit := portsFit_iff.mpr ⟨hp, h1, h2, .inr h3⟩
    have hbody' := submitOrderBody_eq (l := h.link) (tag := tag) (s := t) hc hsrc hd ha hq
    obtain ⟨p, rfl⟩ := Option.ne_none_iff_exists'.mp hsome
    have hgo : submitGo h.link tag c (some p) d a q s = submitGo h.link tag c (some p) d a q t :=
      submitChecks_read hread hclean
    rw [hkeep.portsFit, hfit, ← hgo] at hbody'
    rw [hfit] at hbody
    have hs := answers hready hm hbody
    have ht := answers (hkeep.ready hready) (by rw [hkeep.mode]; exact hm) hbody'
    exact hs.trans ht.symm

end Sys2Proof.Machine
end

section
/-! CLAIM (R23 to R30): the blocks granted, the chain of waits, the walk. -/

namespace Sys2Proof.Machine

variable {s t : State} {v w : VehicleId} {b : BlockId} {l : LinkId} {n : Nat}

/-! ## Blocks granted (R25) -/

theorem granted_at_block (s : State) (v : VehicleId) (bs : List BlockId) (x : BlockId) : (s.granted v bs).block x =
    if x ∈ bs then { s.block x with holder := .vehicle v } else s.block x := Vector.getElem_ofFn x.isLt

theorem granted_vehicle (s : State) (v : VehicleId) (bs : List BlockId) : (s.granted v bs).vehicle v =
    { s.vehicle v with holds := (s.vehicle v).holds ++ bs } := Vector.getElem_set_self ..

theorem granted_other (s : State) (bs : List BlockId) (h : w ≠ v) : (s.granted v bs).vehicle w = s.vehicle w :=
  Vector.getElem_set_ne v.isLt w.isLt fun e => h (Fin.ext e.symm)

theorem TablesOnly.granted (s : State) (v : VehicleId) (bs : List BlockId) : TablesOnly s (s.granted v bs) := by
  unfold State.granted; rfl

theorem granted_timing (s : State) (v : VehicleId) (bs : List BlockId) : (s.granted v bs).timing = s.timing := by
  simp only [State.granted]

theorem granted_waiterSeq (s : State) (v : VehicleId) (bs : List BlockId) : (s.granted v bs).waiterSeq = s.waiterSeq := by
  simp only [State.granted]

theorem granted_msBase (s : State) (v : VehicleId) (bs : List BlockId) : (s.granted v bs).msBase = s.msBase := by
  simp only [State.granted]

theorem granted_fenced (s : State) (v : VehicleId) (bs : List BlockId) (b : BlockId) :
    (s.granted v bs).fenced b = s.fenced b := by
  simp only [State.granted, State.fenced]

theorem granted_vehicle_flips (s : State) (v : VehicleId) (bs : List BlockId) (w : VehicleId) :
    ((s.granted v bs).vehicle w).flips = (s.vehicle w).flips := by
  by_cases h : w = v
  · rw [h, granted_vehicle]
  · rw [granted_other s bs h]

theorem granted_nil (s : State) (v : VehicleId) : s.granted v [] = s := by
  refine tables_ext (.granted s v []) (.refl s) (fun b => ?_) fun w => ?_
  · rw [granted_at_block, if_neg List.not_mem_nil]
  · by_cases h : w = v
    · subst h; rw [granted_vehicle, List.append_nil]
    · rw [granted_other s [] h]

theorem grant_vehicle (s : State) (b : BlockId) (v : VehicleId) :
    (s.grant b v).vehicle v = { s.vehicle v with holds := (s.vehicle v).holds ++ [b] } := setVehicle_same ..

theorem granted_cons (s : State) (v : VehicleId) (b : BlockId) (bs : List BlockId) :
    (s.grant b v).granted v bs = s.granted v (b :: bs) := by
  have hgrant : TablesOnly s (s.grant b v) := (TablesOnly.setBlock s b _).trans (.setVehicle _ v _)
  refine tables_ext (hgrant.trans (.granted _ v bs)) (.granted s v (b :: bs)) (fun x => ?_) fun w => ?_
  · rw [granted_at_block, granted_at_block, State.grant, State.updVehicle, setVehicle_at_block, State.updBlock,
      setBlock_read]
    by_cases hx : x = b
    · subst hx; by_cases hbs : x ∈ bs <;> simp [hbs]
    · by_cases hbs : x ∈ bs <;> simp [hx, hbs]
  · by_cases h : w = v
    · subst h
      rw [granted_vehicle, granted_vehicle, grant_vehicle]
      dsimp only
      rw [List.append_assoc, List.singleton_append]
    · rw [granted_other _ _ h, granted_other _ _ h, State.grant, State.updVehicle, setVehicle_other (h := h)]
      rfl

theorem grantable_cons {bs : List BlockId} : s.grantable (b :: bs) = true ↔ ((s.block b).holder = .none ∧
    (s.block b).frozen = false ∧ s.fenced b = false ∧ (s.block b).flips = []) ∧ s.grantable bs = true := by
  simp [State.grantable, and_assoc]

theorem grantable_holder {bs : List BlockId} (h : s.grantable bs = true) (hb : b ∈ bs) : (s.block b).holder = .none := by
  have hall := List.all_eq_true.mp h b hb
  simp only [Bool.and_eq_true, decide_eq_true_eq] at hall
  exact hall.1.1.1

/-- A grant of one block leaves the others grantable. -/
theorem grantable_grant {bs : List BlockId} (h : s.grantable bs = true) (hb : b ∉ bs) :
    (s.grant b v).grantable bs = true := by
  refine List.all_eq_true.mpr fun x hx => ?_
  have hne : x ≠ b := fun e => hb (e ▸ hx)
  have hblock : (s.grant b v).block x = s.block x := by
    rw [State.grant, State.updVehicle, setVehicle_at_block, State.updBlock, setBlock_other (h := hne)]
  rw [hblock]
  exact List.all_eq_true.mp h x hx

/-! ## The walk (R25 to R27) -/

/-- The walk grants a list of grantable blocks and goes on behind it. -/
theorem walk_grantable (rest : List BlockId) : ∀ (bs : List BlockId) (n : Nat) {s : State}, s.grantable bs = true → bs.Nodup →
    State.walk v (bs ++ rest) n s = State.walk v rest (n + bs.length) (s.granted v bs)
  | [], n, s, _, _ => by rw [granted_nil]; rfl
  | b :: bs, n, s, h, hnodup => by
    obtain ⟨⟨hholder, hfrozen, hfenced, hflips⟩, hrest⟩ := grantable_cons.mp h
    obtain ⟨hb, hnodup'⟩ := List.nodup_cons.mp hnodup
    rw [List.cons_append, State.walk, hfenced, readBlock_clean hflips]
    dsimp only
    rw [hfrozen, if_pos hholder, ← granted_cons]
    have hgo := walk_grantable rest bs (n + 1) (grantable_grant (v := v) hrest hb) hnodup'
    have hlen : n + (b :: bs).length = n + 1 + bs.length := by rw [List.length_cons]; omega
    rw [hlen]
    exact hgo

theorem walk_fenced (h : s.fenced b = true) (post : List BlockId) (n : Nat) :
    State.walk v (b :: post) n s = (s, .partialAt n b .fenced) := by
  rw [State.walk]; exact if_pos h

theorem walk_frozen (h : s.fenced b = false) (hf : ((s.readBlock b).1.block b).frozen = true) (post : List BlockId) (n : Nat) :
    State.walk v (b :: post) n s = ((s.readBlock b).1, .partialAt n b .frozen) := by
  rw [State.walk, h]; exact if_pos hf

theorem walk_held (h : s.fenced b = false) (hflips : (s.block b).flips = []) (hf : (s.block b).frozen = false)
    (hh : (s.block b).holder ≠ .none) (post : List BlockId) (n : Nat) :
    State.walk v (b :: post) n s = s.tryWait v b n := by
  rw [State.walk, h, readBlock_clean hflips]
  dsimp only
  rw [hf]
  exact if_neg hh

/-! ## The wait (R27, R29) -/

theorem tryWait_full (h : 8 ≤ (s.block b).waiters.length) : s.tryWait v b n = (s, .partialAt n b .waitFull) := if_pos h

theorem tryWait_cycle (h : (s.block b).waiters.length < 8) (hc : State.closesCycle v 130 b s = (s, true)) :
    s.tryWait v b n = (s, .partialAt n b .cycle) := by
  rw [State.tryWait, if_neg (Nat.not_le.mpr h), hc]; rfl

theorem tryWait_waits (h : (s.block b).waiters.length < 8) (hc : State.closesCycle v 130 b s = (s, false))
    (hf : (s.block b).frozen = false) (hseq : s.waiterSeq ≠ counterTop) :
    s.tryWait v b n = (s.enterWait v b, ⟨.queued, n, some b, none⟩) := by
  rw [State.tryWait, if_neg (Nat.not_le.mpr h), hc]
  dsimp only
  rw [readyWaiterSeq_ready read hseq, hf]
  rfl

theorem closesCycle_self (hf : (s.block b).flips = []) (hh : (s.block b).holder = .vehicle v) (n : Nat) :
    State.closesCycle v (n + 1) b s = (s, true) := by
  rw [State.closesCycle, readBlock_clean hf]
  dsimp only
  rw [hh]
  exact if_pos rfl

theorem closesCycle_unheld (hf : (s.block b).flips = []) (hh : ∀ w, (s.block b).holder ≠ .vehicle w) (n : Nat) :
    State.closesCycle v (n + 1) b s = (s, false) := by
  rw [State.closesCycle, readBlock_clean hf]
  dsimp only
  cases e : (s.block b).holder with
  | none => rfl
  | unknown => rfl
  | vehicle w => exact absurd e (hh w)

theorem closesCycle_next (hf : (s.block b).flips = []) (hh : (s.block b).holder = .vehicle w) (hw : w ≠ v)
    (hwf : (s.vehicle w).flips = []) (n : Nat) : State.closesCycle v (n + 1) b s =
      match (s.vehicle w).waitingOn with
      | some b' => State.closesCycle v n b' s
      | none => (s, false) := by
  rw [State.closesCycle, readBlock_clean hf]
  dsimp only
  rw [hh]
  dsimp only
  rw [if_neg hw, readVehicle_clean hwf] <;> rfl

/-- A link of a chain of waits: a block with a clean record, and its holder, another vehicle with a clean record. -/
def State.waitLink (s : State) (v : VehicleId) (x : BlockId × VehicleId) : Prop :=
  (s.block x.1).flips = [] ∧ (s.block x.1).holder = .vehicle x.2 ∧ x.2 ≠ v ∧ (s.vehicle x.2).flips = []

/-- R29: the cycle check follows a chain of waits to its last vehicle. -/
theorem closesCycle_chain (n : Nat) (last : BlockId × VehicleId) : ∀ (links : List (BlockId × VehicleId)) (b : BlockId),
    links.head?.map Prod.fst = some b → links.getLast? = some last → (∀ x ∈ links, s.waitLink v x) →
    (∀ y ∈ links.zip links.tail, (s.vehicle y.1.2).waitingOn = some y.2.1) →
    State.closesCycle v (n + links.length) b s =
      match (s.vehicle last.2).waitingOn with
      | some b' => State.closesCycle v n b' s
      | none => (s, false)
  | [x], b, hhead, hlast, hlinks, _ => by
    obtain rfl : x.1 = b := Option.some.inj hhead
    obtain rfl : x = last := Option.some.inj hlast
    obtain ⟨hf, hh, hw, hwf⟩ := hlinks x List.mem_cons_self
    exact closesCycle_next hf hh hw hwf n
  | x :: y :: links, b, hhead, hlast, hlinks, hwaits => by
    obtain rfl : x.1 = b := Option.some.inj hhead
    obtain ⟨hf, hh, hw, hwf⟩ := hlinks x List.mem_cons_self
    have hnext : (s.vehicle x.2).waitingOn = some y.1 := hwaits (x, y) List.mem_cons_self
    have hrest := closesCycle_chain n last (y :: links) y.1 rfl (by rw [← hlast, List.getLast?_cons_cons])
      (fun z hz => hlinks z (List.mem_cons_of_mem _ hz)) fun z hz => hwaits z (List.mem_cons_of_mem _ hz)
    have hstep := closesCycle_next hf hh hw hwf (n + (y :: links).length)
    rw [hnext] at hstep
    exact hstep.trans hrest

end Sys2Proof.Machine
end

section
/-! CLAIM (R23 to R30). -/

namespace Sys2Proof.Machine

variable {s t : State} {v w : VehicleId} {b front : BlockId} {l : LinkId} {bs : List BlockId}

/-! ## Its tests (R24) -/

theorem length_of_mapM_eq_some {α β : Type} {f : α → Option β} : ∀ (xs : List α) {ys : List β}, xs.mapM f = some ys →
    ys.length = xs.length
  | [], _, h => by
    rw [List.mapM_nil] at h
    obtain rfl := Option.some.inj h
    rfl
  | x :: xs, ys, h => by
    rw [List.mapM_cons] at h
    obtain ⟨y, -, h⟩ := Option.bind_eq_some_iff.mp h
    obtain ⟨zs, hzs, h⟩ := Option.bind_eq_some_iff.mp h
    obtain rfl := Option.some.inj h
    rw [List.length_cons, List.length_cons, length_of_mapM_eq_some xs hzs]

theorem chained_iff : ∀ (bs : List BlockId) (front : BlockId), s.chained front bs = true ↔
    ∀ x ∈ (front :: bs).zip bs, x.2 ∈ (s.static x.1).succs
  | [], _ => by simp [State.chained]
  | b :: bs, front => by
    rw [State.chained, Bool.and_eq_true, chained_iff bs b, List.contains_iff_mem, List.zip_cons_cons, List.forall_mem_cons]

theorem goesOn_iff : s.goesOn v bs = true ↔ ∃ front, (s.vehicle v).holds.getLast? = some front ∧
    ∀ x ∈ (front :: bs).zip bs, x.2 ∈ (s.static x.1).succs := by
  unfold State.goesOn
  cases h : (s.vehicle v).holds.getLast? with
  | none => simp
  | some front =>
    rw [chained_iff]
    exact ⟨fun hx => ⟨front, rfl, hx⟩, fun ⟨f, hf, hx⟩ => Option.some.inj hf ▸ hx⟩

theorem claimFresh_iff : s.claimFresh v bs = true ↔ bs.Nodup ∧ ∀ b ∈ bs, b ∉ (s.vehicle v).holds := by
  simp [State.claimFresh, and_comm]

/-- What CLAIM does with the vehicle it names. -/
def claimGo (v : VehicleId) (bs : List BlockId) (s : State) : State × Answer :=
  if (s.vehicle v).state = .stalled ∨ (s.vehicle v).waitingOn.isSome ∨ !s.goesOn v bs then (s, .plain .state)
  else if !s.claimFresh v bs then (s, .plain .duplicate)
  else if 6 < (s.vehicle v).holds.length + bs.length then (s, .plain .full)
  else ((State.walk v bs 0 s).1.restartSilence v, ⟨(State.walk v bs 0 s).2.code, (State.walk v bs 0 s).2.fields v⟩)

theorem claimBody_eq {vehicle : Byte} {blocks : List Half} (hv : vehicle? vehicle = some v)
    (hb : blocks.mapM block? = some bs) : claimBody l vehicle blocks s =
      if bs = [] ∨ 5 < bs.length then (s, .plain .range)
      else if !bs.all s.used then (s, .plain .unknown)
      else s.withOwned l v (fun _ => Walk.fields v ⟨.integrity, 0, none, none⟩) (claimGo v bs) := by
  have hb' : blocks? blocks = some bs := hb
  rw [claimBody, hv, hb']; rfl

theorem claimBody_owned {vehicle : Byte} {blocks : List Half} (hv : vehicle? vehicle = some v)
    (hb : blocks.mapM block? = some bs) (hne : bs ≠ []) (hlen : bs.length ≤ 5) (hu : ∀ b ∈ bs, s.used b = true) :
    claimBody l vehicle blocks s =
      s.withOwned l v (fun _ => Walk.fields v ⟨.integrity, 0, none, none⟩) (claimGo v bs) := by
  have hused : bs.all s.used = true := List.all_eq_true.mpr hu
  rw [claimBody_eq hv hb, if_neg (not_or.mpr ⟨hne, Nat.not_lt.mpr hlen⟩), hused]
  rfl

theorem claimGo_walk (hst : (s.vehicle v).state ≠ .stalled) (hw : (s.vehicle v).waitingOn = none)
    (hon : s.goesOn v bs = true) (hfresh : s.claimFresh v bs = true) (hlen : (s.vehicle v).holds.length + bs.length ≤ 6)
    {u : State} {x : Walk} (hwalk : State.walk v bs 0 s = (u, x)) (htiming : u.timing = s.timing) : claimGo v bs s =
      (u.setVehicle v (VehicleRec.restarted s.timing.silence (u.vehicle v)), ⟨x.code, x.fields v⟩) := by
  rw [claimGo, if_neg, hfresh, hwalk, restartSilence_eq, htiming]
  · exact if_neg (Nat.not_lt.mpr hlen)
  · rw [hw, hon]
    rintro (h | h | h)
    · exact hst h
    · cases h
    · cases h

/-! ## CLAIM -/

/-- R137: a damaged block, once read, is FROZEN. -/
theorem readBlock_damaged_frozen (h : (s.block b).flips.length = 2) (hv : ∀ v, (s.vehicle v).flips = []) :
    ((s.readBlock b).1.block b).frozen = true := by
  have e := reads_block_damaged (f := .access) h
  rw [repairBlock_clean (by simpa using hv)] at e
  have e' : (s.readBlock b).1 = _ := congrArg Prod.fst e
  rw [e', foldl_waitDropped_at_block, setBlock_same]

/-- The end of a chain of waits decides the cycle check (R29). -/
theorem closesCycle_links {links : List (BlockId × VehicleId)} {last : BlockId × VehicleId} (hlen : links.length ≤ 128)
    (hhead : links.head?.map Prod.fst = some b) (hlast : links.getLast? = some last) (hlinks : ∀ x ∈ links, s.waitLink v x)
    (hwaits : ∀ y ∈ links.zip links.tail, (s.vehicle y.1.2).waitingOn = some y.2.1) :
    (∀ b', (s.vehicle last.2).waitingOn = some b' → (s.block b').flips = [] → (s.block b').holder = .vehicle v →
      State.closesCycle v 130 b s = (s, true)) ∧
    ((s.vehicle last.2).waitingOn = none ∨ (∃ b', (s.vehicle last.2).waitingOn = some b' ∧ (s.block b').flips = [] ∧
      ∀ w, (s.block b').holder ≠ .vehicle w) → State.closesCycle v 130 b s = (s, false)) := by
  obtain ⟨n, hn⟩ : ∃ n, 130 = n + 1 + links.length := ⟨129 - links.length, by omega⟩
  have hchain := closesCycle_chain (n + 1) last links b hhead hlast hlinks hwaits
  rw [hn]
  refine ⟨fun b' hb' hf hh => ?_, fun hend => ?_⟩
  · rw [hb'] at hchain
    exact hchain.trans (closesCycle_self hf hh n)
  · rcases hend with hnone | ⟨b', hb', hf, hh⟩
    · rw [hnone] at hchain
      exact hchain
    · rw [hb'] at hchain
      exact hchain.trans (closesCycle_unheld hf hh n)

/-- R22, R27: the vehicle waits at the block. -/
theorem enterWait_eq (s : State) (v : VehicleId) (b : BlockId) : s.enterWait v b =
    { (s.setBlock b { s.block b with waiters := (s.block b).waiters ++ [⟨v, s.waiterSeq + 1, s.msBase⟩] }).setVehicle v
        { s.vehicle v with waitingOn := some b } with
      waiterSeq := s.waiterSeq + 1 } := rfl

/-- Settles O28: the claim walk. -/
theorem claimWalk : Obligations.ClaimWalk := by
  unfold Obligations.ClaimWalk
  have answers {h : Hdr} {vehicle : Byte} {blocks : List Half} {s t : State} {a : Answer} (hready : s.ready h .bay)
      (hm : s.mode = .run) (e : claimBody h.link vehicle blocks s = (t, a)) :
      exec (.claim h vehicle blocks) s = .next (t.answered h .claim a.code a.fields) :=
    request_hunts (takes_of_ready hready rfl (by rw [hm]; rfl)) (claimBody_hunts _ _ _) e
  refine ⟨fun h vehicle blocks s hready hm => ⟨fun hout => ?_, fun v bs hv hb hne hlen => ⟨?_, fun hu hf => ?_,
      fun hu hf => ⟨fun hl => ?_, fun hl => ⟨fun hno => ?_, fun hst hw hon => ⟨fun hdup => ?_, fun hfresh hfull => ?_⟩⟩⟩⟩⟩,
    fun h vehicle blocks s v bs front hready hm hv hb hne hlen hu hf hl hst hw hfront hchain hnodup hnew hroom => ?_⟩
  · refine answers hready hm (a := .plain .range) ?_
    unfold claimBody
    rcases hout with h1 | h1 | h1 | h1
    · rw [h1, inRange_none]
    · rw [h1]; cases vehicle? vehicle <;> rfl
    · have hlong : ∀ bs, blocks? blocks = some bs → bs = [] ∨ 5 < bs.length := fun bs hbs => by
        refine .inr ?_
        rw [length_of_mapM_eq_some blocks hbs]; exact h1
      cases vehicle? vehicle with
      | none => rfl
      | some v =>
        cases hbs : blocks? blocks with
        | none => rfl
        | some bs => exact if_pos (hlong bs hbs)
    · have h1' : blocks? blocks = none := h1
      rw [h1']; cases vehicle? vehicle <;> rfl
  · rintro ⟨b, hbmem, hunused⟩
    have hbad : bs.all s.used = false := Bool.eq_false_iff.mpr fun hall => by
      rw [List.all_eq_true.mp hall b hbmem] at hunused
      cases hunused
    have hbody := claimBody_eq (l := h.link) (s := s) hv hb
    rw [if_neg (not_or.mpr ⟨hne, Nat.not_lt.mpr hlen⟩), hbad] at hbody
    exact answers hready hm (a := .plain .unknown) hbody
  · refine (answers hready hm ((claimBody_owned hv hb hne hlen hu).trans (withOwned_eq_damaged hf _ _))).trans ?_
    rfl
  all_goals have hbody := claimBody_owned (l := h.link) (s := s) hv hb hne hlen hu
  · exact answers hready hm (a := .plain .notYours) (hbody.trans (withOwned_eq_notYours hf hl _ _))
  all_goals rw [withOwned_eq_go hf hl] at hbody
  · rw [claimGo, if_pos] at hbody
    · exact answers hready hm (a := .plain .state) hbody
    · refine hno.imp_right (Or.imp (fun h => Option.isSome_iff_ne_none.mpr h) fun hno => ?_)
      rw [Bool.eq_false_iff.mpr (mt goesOn_iff.mp hno)]; rfl
  all_goals
    have hnone : ¬((s.vehicle v).state = .stalled ∨ (s.vehicle v).waitingOn.isSome = true ∨ (!s.goesOn v bs) = true) := by
      rw [hw, goesOn_iff.mpr (by first | exact hon | exact ⟨front, hfront, hchain⟩)]
      exact fun h => h.elim hst fun h => h.elim (fun h => nomatch h) fun h => nomatch h
  · rw [claimGo, if_neg hnone, Bool.eq_false_iff.mpr (mt claimFresh_iff.mp hdup)] at hbody
    exact answers hready hm (a := .plain .duplicate) hbody
  · rw [claimGo, if_neg hnone, claimFresh_iff.mpr hfresh] at hbody
    exact answers hready hm (a := .plain .full) (hbody.trans (if_pos hfull))
  have hclaim {u : State} {x : Walk} (hwalk : State.walk v bs 0 s = (u, x)) (htiming : u.timing = s.timing) :=
    answers hready hm (hbody.trans (claimGo_walk hst hw (goesOn_iff.mpr ⟨front, hfront, hchain⟩)
      (claimFresh_iff.mpr ⟨hnodup, hnew⟩) hroom hwalk htiming))
  refine ⟨fun hgrant => ?_, fun pre b post hsplit hgrant => ?_⟩
  · have hwalk := walk_grantable (v := v) [] bs 0 hgrant hnodup
    rw [List.append_nil, Nat.zero_add] at hwalk
    have hdone := hclaim hwalk (granted_timing s v bs)
    exact hdone
  intro t stopped waits
  rw [hsplit] at hnodup
  obtain ⟨hpre, -, hcross⟩ := List.nodup_append.mp hnodup
  have hbpre : b ∉ pre := fun h => hcross b h b List.mem_cons_self rfl
  have hwalk : State.walk v bs 0 s = State.walk v (b :: post) pre.length t := by
    have h := walk_grantable (v := v) (b :: post) pre 0 hgrant hpre
    rw [Nat.zero_add] at h
    rw [hsplit]; exact h
  have hkept {x : BlockId} (hx : x ∉ pre) : t.block x = s.block x := by rw [granted_at_block, if_neg hx]
  have hblock : t.block b = s.block b := hkept hbpre
  have hother {w : VehicleId} (hw : w ≠ v) : t.vehicle w = s.vehicle w := granted_other s pre hw
  have hfenced : t.fenced b = s.fenced b := granted_fenced s v pre b
  have htiming : t.timing = s.timing := granted_timing s v pre
  have hvflips (w : VehicleId) : (t.vehicle w).flips = (s.vehicle w).flips := granted_vehicle_flips s v pre w
  have hwseq : t.waiterSeq = s.waiterSeq := granted_waiterSeq s v pre
  have hms : t.msBase = s.msBase := granted_msBase s v pre
  clear_value t
  have hheld {x : BlockId} {u : VehicleId} (hx : (s.block x).holder = .vehicle u) : t.block x = s.block x :=
    hkept fun hmem => by rw [grantable_holder hgrant hmem] at hx; cases hx
  have hstop {r : ClaimReason} (h : State.walk v (b :: post) pre.length t = (t, .partialAt pre.length b r)) :
      stopped r.code := hclaim (hwalk.trans h) htiming
  have hwait (hfen : s.fenced b = false) (hflips : (s.block b).flips = []) (hfrozen : (s.block b).frozen = false)
      (hh : (s.block b).holder ≠ .none) :
      State.walk v (b :: post) pre.length t = t.tryWait v b pre.length :=
    walk_held (hfenced.trans hfen) (hblock ▸ hflips) (hblock ▸ hfrozen) (hblock ▸ hh) post _
  have hqueued (h : State.walk v (b :: post) pre.length t = (t.enterWait v b, ⟨.queued, pre.length, some b, none⟩)) :
      waits := by
    rw [enterWait_eq, hblock, hwseq, hms] at h
    exact hclaim (hwalk.trans h) htiming
  refine ⟨fun hfen => ?_, fun hfen hflips hfrozen => ?_, fun hfen hflips hclean => ?_, fun hfen hflips hfrozen hh hfull => ?_,
    fun w b' hfen hflips hfrozen hroom hh hwf hwait' hb'f hb'h => ?_, fun w hfen hflips hfrozen hroom hh hwv hwf hwait' hseq => ?_,
    fun links last hfen hfrozen hroom hlen hhead hlast hlinks hwaits => ?_⟩
  · exact hstop (walk_fenced (hfenced.trans hfen) post _)
  · have hread : t.readBlock b = (t, false) := readBlock_clean (hblock ▸ hflips)
    have hstep := walk_frozen (v := v) (hfenced.trans hfen) (by rw [hread, hblock]; exact hfrozen) post pre.length
    rw [hread] at hstep
    exact hstop hstep
  · have hdamaged : (t.block b).flips.length = 2 := by rw [hblock]; exact hflips
    have hfrozen := readBlock_damaged_frozen hdamaged fun w => (hvflips w).trans (hclean w)
    exact hclaim (hwalk.trans (walk_frozen (hfenced.trans hfen) hfrozen post pre.length))
      (((Keeps.refl t).readBlock b).timing.trans htiming)
  · exact hstop ((hwait hfen hflips hfrozen hh).trans (tryWait_full (hblock ▸ hfull)))
  · have hcycle : State.closesCycle v 130 b t = (t, true) := by
      by_cases hwv : w = v
      · exact closesCycle_self (hblock ▸ hflips) (hwv ▸ hblock ▸ hh) 129
      · have hnext := closesCycle_next (n := 129) (hblock ▸ hflips) (hblock ▸ hh) hwv (by rw [hother hwv]; exact hwf)
        rw [hother hwv, hwait'] at hnext
        exact hnext.trans (closesCycle_self (by rw [hheld hb'h]; exact hb'f) (by rw [hheld hb'h]; exact hb'h) 128)
    exact hstop ((hwait hfen hflips hfrozen (by rw [hh]; nofun)).trans (tryWait_cycle (hblock ▸ hroom) hcycle))
  · have hcycle := closesCycle_next (n := 129) (v := v) (s := t) (hblock ▸ hflips) (hblock ▸ hh) hwv
      (by rw [hother hwv]; exact hwf)
    rw [hother hwv, hwait'] at hcycle
    exact hqueued ((hwait hfen hflips hfrozen (by rw [hh]; nofun)).trans
      (tryWait_waits (hblock ▸ hroom) hcycle (hblock ▸ hfrozen) (by rw [hwseq]; exact hseq)))
  · obtain ⟨x, hx, hxb⟩ := Option.map_eq_some_iff.mp hhead
    obtain ⟨hflips, hh, -, -⟩ := hlinks x (List.mem_of_head? hx)
    rw [hxb] at hflips hh
    have hlinks' : ∀ x ∈ links, t.waitLink v x := fun x hx => by
      obtain ⟨hxf, hxh, hxv, hvf⟩ := hlinks x hx
      exact ⟨by rw [hheld hxh]; exact hxf, by rw [hheld hxh]; exact hxh, hxv, by rw [hother hxv]; exact hvf⟩
    have hmem {y : (BlockId × VehicleId) × (BlockId × VehicleId)} (hy : y ∈ links.zip links.tail) : y.1 ∈ links :=
      (List.of_mem_zip hy).1
    obtain ⟨hcyc, hfree⟩ := closesCycle_links hlen hhead hlast hlinks' fun y hy => by
      rw [hother (hlinks y.1 (hmem hy)).2.2.1]; exact hwaits y hy
    rw [hother (hlinks last (List.mem_of_getLast? hlast)).2.2.1] at hcyc hfree
    have hgo := hwait hfen hflips hfrozen (by rw [hh]; nofun)
    exact ⟨fun b' hb' hf' hh' => hstop (hgo.trans (tryWait_cycle (hblock ▸ hroom) (hcyc b' hb' hf' hh'))),
      fun hend hseq => hqueued (hgo.trans (tryWait_waits (hblock ▸ hroom) (hfree hend) (hblock ▸ hfrozen)
        (by rw [hwseq]; exact hseq)))⟩

end Sys2Proof.Machine
end

section
/-! The chain of a rebuilt vehicle's blocks (R139): when the found blocks form one chain, and which. -/

namespace Sys2Proof.Machine

variable {succs : BlockId → List BlockId} {found chain : List BlockId} {b : BlockId}

/-! ## Lists with at most one element of a kind -/

theorem eq_singleton_of_forall {α : Type} {xs : List α} {a : α} (hn : xs.Nodup) (ha : a ∈ xs) (h : ∀ x ∈ xs, x = a) :
    xs = [a] :=
  List.perm_singleton.mp ((List.perm_ext_iff_of_nodup hn (List.nodup_singleton a)).mpr fun x =>
    ⟨fun hx => List.mem_singleton.mpr (h x hx), fun hx => (List.mem_singleton.mp hx) ▸ ha⟩)

/-- R139: the found successors of a block. -/
def foundSuccs (succs : BlockId → List BlockId) (found : List BlockId) (b : BlockId) : List BlockId :=
  found.filter fun x => (succs b).contains x

theorem mem_foundSuccs {x : BlockId} : x ∈ foundSuccs succs found b ↔ x ∈ found ∧ x ∈ succs b := by
  simp [foundSuccs]

/-- The block has at most one found successor. -/
def OneSucc (succs : BlockId → List BlockId) (found : List BlockId) (b : BlockId) : Prop :=
  ∀ x ∈ found, ∀ y ∈ found, x ∈ succs b → y ∈ succs b → x = y

theorem oneSucc_of_nil (h : foundSuccs succs found b = []) : OneSucc succs found b := fun x hx _ _ hxb _ =>
  absurd (mem_foundSuccs.mpr ⟨hx, hxb⟩) (by rw [h]; exact List.not_mem_nil)

theorem oneSucc_of_singleton {a : BlockId} (h : foundSuccs succs found b = [a]) : OneSucc succs found b := by
  have hall (x : BlockId) (hx : x ∈ found) (hxb : x ∈ succs b) : x = a := by
    have hmem := mem_foundSuccs.mpr ⟨hx, hxb⟩
    rw [h] at hmem
    exact List.mem_singleton.mp hmem
  exact fun x hx y hy hxb hyb => (hall x hx hxb).trans (hall y hy hyb).symm

/-- A block with at most one found successor has none, or the one. -/
theorem foundSuccs_cases (hn : found.Nodup) (h : OneSucc succs found b) :
    foundSuccs succs found b = [] ∨ ∃ a, foundSuccs succs found b = [a] ∧ a ∈ found ∧ a ∈ succs b := by
  cases hl : foundSuccs succs found b with
  | nil => exact .inl rfl
  | cons a rest =>
    obtain ⟨ha, hab⟩ := mem_foundSuccs.mp (hl ▸ List.mem_cons_self : a ∈ foundSuccs succs found b)
    refine .inr ⟨a, ?_, ha, hab⟩
    rw [← hl]
    refine eq_singleton_of_forall (hn.filter _) (mem_foundSuccs.mpr ⟨ha, hab⟩) fun x hx => ?_
    obtain ⟨hx, hxb⟩ := mem_foundSuccs.mp hx
    exact h x hx a ha hxb hab

/-! ## One step of the walk -/

theorem walkChain_zero (b : BlockId) (walked : List BlockId) : walkChain succs found 0 b walked = some walked := rfl

theorem walkChain_end (h : foundSuccs succs found b = []) (n : Nat) (walked : List BlockId) :
    walkChain succs found (n + 1) b walked = some walked := by
  rw [foundSuccs] at h
  rw [walkChain, h]

theorem walkChain_step {a : BlockId} (h : foundSuccs succs found b = [a]) (n : Nat) (walked : List BlockId) :
    walkChain succs found (n + 1) b walked =
      if walked.contains a then some walked else walkChain succs found n a (a :: walked) := by
  rw [foundSuccs] at h
  rw [walkChain, h]

theorem walkChain_fork {a c : BlockId} {rest : List BlockId} (h : foundSuccs succs found b = a :: c :: rest) (n : Nat)
    (walked : List BlockId) : walkChain succs found (n + 1) b walked = none := by
  rw [foundSuccs] at h
  rw [walkChain, h]

/-! ## What a walk returns -/

/-- What holds of the blocks walked so far, last first, all but the last with their one found successor behind them. -/
structure Walked (succs : BlockId → List BlockId) (found walked : List BlockId) : Prop where
  nodup : walked.Nodup
  subset : ∀ x ∈ walked, x ∈ found
  linked : walked.IsChain fun y x => y ∈ succs x
  one : ∀ x ∈ walked.tail, OneSucc succs found x

/-- R139: a walk that ends returns blocks each a successor of the one before it, each with at most one found successor unless
the walk has run its whole length. -/
theorem walkChain_sound : ∀ (n : Nat) (b : BlockId) (rest out : List BlockId), Walked succs found (b :: rest) →
    walkChain succs found n b (b :: rest) = some out →
    Walked succs found out ∧ out.getLast? = (b :: rest).getLast? ∧
      ((∀ x ∈ out, OneSucc succs found x) ∨ out.length = (b :: rest).length + n)
  | 0, b, rest, out, hw, h => by
    obtain rfl := Option.some.inj h
    exact ⟨hw, rfl, .inr rfl⟩
  | n + 1, b, rest, out, hw, h => by
    have hdone (hone : OneSucc succs found b) : ∀ x ∈ b :: rest, OneSucc succs found x := fun x hx =>
      (List.mem_cons.mp hx).elim (fun e => e ▸ hone) (hw.one x)
    cases hl : foundSuccs succs found b with
    | nil =>
      rw [walkChain_end hl] at h
      obtain rfl := Option.some.inj h
      exact ⟨hw, rfl, .inl (hdone (oneSucc_of_nil hl))⟩
    | cons a more =>
      cases more with
      | cons c more => rw [walkChain_fork hl] at h; cases h
      | nil =>
        have hone := oneSucc_of_singleton hl
        rw [walkChain_step hl] at h
        split at h
        · obtain rfl := Option.some.inj h
          exact ⟨hw, rfl, .inl (hdone hone)⟩
        next hnot =>
          have hnew : a ∉ b :: rest := fun hmem => hnot (List.contains_iff_mem.mpr hmem)
          obtain ⟨ha, hab⟩ := mem_foundSuccs.mp (hl ▸ List.mem_singleton.mpr rfl : a ∈ foundSuccs succs found b)
          obtain ⟨hw', hlast, hcase⟩ := walkChain_sound n a (b :: rest) out
            ⟨List.nodup_cons.mpr ⟨hnew, hw.nodup⟩, fun x hx => (List.mem_cons.mp hx).elim (fun e => e ▸ ha) (hw.subset x),
              List.isChain_cons_cons.mpr ⟨hab, hw.linked⟩, hdone hone⟩ h
          refine ⟨hw', hlast.trans List.getLast?_cons_cons, hcase.imp_right fun e => ?_⟩
          rw [e, List.length_cons]
          omega

/-- The walk along a chain returns it. -/
theorem walkChain_complete (hn : found.Nodup) (hone : ∀ x ∈ found, OneSucc succs found x) :
    ∀ (post pre : List BlockId) (b : BlockId) (n : Nat), (pre ++ b :: post).Nodup → (∀ x, x ∈ pre ++ b :: post ↔ x ∈ found) →
      (b :: post).IsChain (fun x y => y ∈ succs x) → post.length ≤ n →
      walkChain succs found n b (b :: pre.reverse) = some (pre ++ b :: post).reverse
  | [], pre, b, n, hnodup, hmem, _, _ => by
    have hout : (pre ++ [b]).reverse = b :: pre.reverse := by simp
    rw [hout]
    cases n with
    | zero => rfl
    | succ n =>
      rcases foundSuccs_cases hn (hone b ((hmem b).mp (by simp))) with hl | ⟨a, hl, ha, -⟩
      · exact walkChain_end hl n _
      · rw [walkChain_step hl]
        refine if_pos (List.contains_iff_mem.mpr ?_)
        have := (hmem a).mpr ha
        simpa [or_comm] using this
  | c :: post, pre, b, n, hnodup, hmem, hlink, hlen => by
    obtain ⟨m, rfl⟩ : ∃ m, n = m + 1 := ⟨n - 1, by rw [List.length_cons] at hlen; omega⟩
    obtain ⟨hcb, hlink'⟩ := List.isChain_cons_cons.mp hlink
    have hc : c ∈ found := (hmem c).mp (by simp)
    have hsucc : foundSuccs succs found b = [c] := by
      refine eq_singleton_of_forall (hn.filter _) (mem_foundSuccs.mpr ⟨hc, hcb⟩) fun x hx => ?_
      obtain ⟨hx, hxb⟩ := mem_foundSuccs.mp hx
      exact hone b ((hmem b).mp (by simp)) x hx c hc hxb hcb
    have hnew : c ∉ b :: pre.reverse := by
      have := hnodup
      simp only [List.nodup_append, List.nodup_cons, List.mem_cons, not_or] at this
      obtain ⟨-, ⟨⟨hbc, -⟩, -⟩, hcross⟩ := this
      simp only [List.mem_cons, List.mem_reverse, not_or]
      exact ⟨fun e => hbc e.symm, fun h => hcross c h c (.inr (.inl rfl)) rfl⟩
    have hassoc : pre ++ b :: c :: post = (pre ++ [b]) ++ c :: post := by simp
    have hrest := walkChain_complete hn hone post (pre ++ [b]) c m (hassoc ▸ hnodup) (fun x => hassoc ▸ hmem x) hlink'
      (by rw [List.length_cons] at hlen; omega)
    rw [walkChain_step hsucc, if_neg fun h => hnew (List.contains_iff_mem.mp h), hassoc]
    simpa using hrest

/-! ## One chain -/

/-- R139: the found blocks form this chain, rear to front: each block after the first is a found successor of the one before
it, the first is the successor of none, and no found block has two found successors. -/
def FormsChain (succs : BlockId → List BlockId) (found chain : List BlockId) : Prop :=
  chain.Nodup ∧ (∀ b, b ∈ chain ↔ b ∈ found) ∧ (∀ x ∈ chain.zip chain.tail, x.2 ∈ succs x.1) ∧
    (∀ b ∈ found, ∀ y, chain.head? = some y → y ∉ succs b) ∧ ∀ b ∈ found, OneSucc succs found b

theorem isChain_iff_zip : ∀ xs : List BlockId,
    xs.IsChain (fun x y => y ∈ succs x) ↔ ∀ x ∈ xs.zip xs.tail, x.2 ∈ succs x.1
  | [] => by simp
  | [x] => by simp
  | x :: y :: xs => by
    have hzip : (x :: y :: xs).zip (x :: y :: xs).tail = (x, y) :: (y :: xs).zip (y :: xs).tail := rfl
    rw [List.isChain_cons_cons, isChain_iff_zip (y :: xs), hzip, List.forall_mem_cons]

theorem oneChain_some (h : oneChain succs found = some chain) : FormsChain succs found chain := by
  unfold oneChain at h
  split at h
  case h_2 => cases h
  case h_1 start hstart =>
    split at h
    case h_2 => cases h
    case h_1 walked hwalk =>
      split at h
      case isFalse => cases h
      case isTrue hlen =>
        obtain rfl := Option.some.inj h
        have hstart' : start ∈ found ∧ ∀ y ∈ found, start ∉ succs y := by
          have hmem : start ∈ found.filter fun x => !(found.any fun y => (succs y).contains x) := by rw [hstart]; simp
          simpa using hmem
        obtain ⟨hw, hlast, hcase⟩ := walkChain_sound found.length start [] walked
          ⟨List.nodup_singleton _, fun x hx => (List.mem_singleton.mp hx) ▸ hstart'.1, List.isChain_singleton _, nofun⟩ hwalk
        have hone : ∀ x ∈ walked, OneSucc succs found x := hcase.resolve_right fun e => by
          rw [List.length_singleton] at e; omega
        have hperm : walked.Perm found :=
          (List.subperm_of_subset hw.nodup hw.subset).perm_of_length_le hlen.ge
        refine ⟨List.nodup_reverse.mpr hw.nodup, fun b => by rw [List.mem_reverse]; exact hperm.mem_iff, ?_, ?_, ?_⟩
        · exact (isChain_iff_zip _).mp (List.isChain_reverse.mpr hw.linked)
        · intro b hb y hy
          rw [List.head?_reverse, hlast] at hy
          obtain rfl := Option.some.inj hy
          exact hstart'.2 b hb
        · exact fun b hb => hone b (hperm.mem_iff.mpr hb)

theorem oneChain_eq (hn : found.Nodup) (hne : found ≠ []) (h : FormsChain succs found chain) :
    oneChain succs found = some chain := by
  obtain ⟨hnodup, hmem, hlink, hhead, hone⟩ := h
  cases chain with
  | nil =>
    obtain ⟨x, hx⟩ := List.exists_mem_of_ne_nil found hne
    exact absurd ((hmem x).mpr hx) List.not_mem_nil
  | cons start rest =>
    have hchain := (isChain_iff_zip _).mpr hlink
    have hstart : found.filter (fun x => !(found.any fun y => (succs y).contains x)) = [start] := by
      refine eq_singleton_of_forall (hn.filter _) ?_ fun x hx => ?_
      · simpa using ⟨(hmem start).mp List.mem_cons_self, fun y hy => hhead y hy start rfl⟩
      · have hx' : x ∈ found ∧ ∀ y ∈ found, x ∉ succs y := by simpa using hx
        obtain ⟨hxf, hno⟩ := hx'
        by_contra hne
        have hrest : x ∈ rest := (List.mem_cons.mp ((hmem x).mpr hxf)).resolve_left hne
        obtain ⟨pre, post, hsplit⟩ := List.append_of_mem hrest
        have hpre : start :: rest = (start :: pre) ++ x :: post := by rw [hsplit]; rfl
        rw [hpre] at hchain
        have hpred := (List.isChain_append.mp hchain).2.2 _ (List.getLast?_eq_some_getLast (List.cons_ne_nil start pre)) x rfl
        refine hno _ ((hmem _).mp ?_) hpred
        rw [hpre]
        exact List.mem_append_left _ (List.getLast_mem _)
    have hlen : (start :: rest).length = found.length :=
      ((List.perm_ext_iff_of_nodup hnodup hn).mpr hmem).length_eq
    have hwalk := walkChain_complete hn hone rest [] start found.length hnodup hmem hchain
      (by rw [← hlen, List.length_cons]; omega)
    unfold oneChain
    rw [hstart]
    dsimp only
    rw [show walkChain succs found found.length start [start] = _ from hwalk]
    dsimp only
    rw [if_pos (by rw [List.length_reverse]; exact hlen), List.reverse_reverse]
    rfl

theorem oneChain_none (h : ∀ chain, ¬FormsChain succs found chain) : oneChain succs found = none := by
  cases hc : oneChain succs found with
  | none => rfl
  | some chain => exact absurd (oneChain_some hc) (h chain)

end Sys2Proof.Machine
end

section
/-! A damaged vehicle record, rebuilt from the other tables (R138 to R140). -/

namespace Sys2Proof.Machine

variable {s t : State} {v : VehicleId} {b : BlockId} {wait : Option BlockId} {work bound : Option (Slot × OrderRec)}

/-! ## The pass over the blocks (R139) -/

theorem any_isOf_iff (ws : List Waiter) : ws.any (·.isOf v) = true ↔ ∃ w ∈ ws, w.vehicle = v := by
  simp [Waiter.isOf]

/-- A block with no entry of the vehicle stays as it is. -/
theorem removeEntry_absent (h : (s.block b).waiters.any (·.isOf v) = false) : s.removeEntry b v = s := by
  have hkeep : (s.block b).waiters.filter (fun w => !w.isOf v) = (s.block b).waiters :=
    List.filter_eq_self.mpr fun w hw => by
      have := List.any_eq_false.mp h w hw
      simpa using this
  rw [State.removeEntry, State.updBlock, hkeep]
  exact setBlock_block s b

theorem removeEntry_at_block (s : State) (b x : BlockId) (v : VehicleId) : (s.removeEntry b v).block x =
    if x = b then { s.block x with waiters := (s.block x).waiters.filter fun w => !w.isOf v } else s.block x := by
  rw [State.removeEntry, State.updBlock, setBlock_read]
  split
  next h => rw [h]
  next => rfl

/-- R140 step 1: the state with the entries of the vehicle taken out of these blocks. -/
def State.entriesRemoved (v : VehicleId) (bs : List BlockId) (s : State) : State := bs.foldl (·.removeEntry · v) s

theorem entriesRemoved_tables (v : VehicleId) : ∀ (bs : List BlockId) (s : State), TablesOnly s (s.entriesRemoved v bs)
  | [], s => .refl s
  | b :: bs, s => (TablesOnly.setBlock s b _).trans (entriesRemoved_tables v bs (s.removeEntry b v))

theorem entriesRemoved_at_vehicle (w : VehicleId) : ∀ (bs : List BlockId) (s : State),
    (s.entriesRemoved v bs).vehicle w = s.vehicle w
  | [], _ => rfl
  | b :: bs, s => entriesRemoved_at_vehicle w bs (s.removeEntry b v)

theorem entriesRemoved_at_block (x : BlockId) : ∀ (bs : List BlockId) (s : State), bs.Nodup →
    (s.entriesRemoved v bs).block x =
      if x ∈ bs then { s.block x with waiters := (s.block x).waiters.filter fun w => !w.isOf v } else s.block x
  | [], s, _ => by rw [if_neg List.not_mem_nil]; rfl
  | b :: bs, s, hn => by
    obtain ⟨hb, hn'⟩ := List.nodup_cons.mp hn
    have hrest := entriesRemoved_at_block x bs (s.removeEntry b v) hn'
    refine hrest.trans ?_
    rw [removeEntry_at_block]
    by_cases hx : x = b
    · subst hx
      rw [if_neg hb, if_pos rfl, if_pos List.mem_cons_self]
    · have hmem : x ∈ b :: bs ↔ x ∈ bs := by simp [hx]
      rw [if_neg hx]
      by_cases hbs : x ∈ bs
      · rw [if_pos hbs, if_pos (hmem.mpr hbs)]
      · rw [if_neg hbs, if_neg (mt hmem.mp hbs)]

/-- R139, R140 step 1: the pass over clean blocks, of which one at most has an entry of the vehicle. -/
theorem pass_clean {mark : Option BlockId} : ∀ (bs : List BlockId) (found : List BlockId) (wait : Option BlockId) {s : State},
    bs.Nodup → (∀ b, (s.block b).flips = []) →
    (∀ b ∈ bs, (s.block b).waiters.any (·.isOf v) = true ↔ mark = some b) →
    State.pass nestedRead v bs (s, found, wait) =
      (s.entriesRemoved v bs, (bs.filter fun b => (s.block b).holder = .vehicle v).reverse ++ found,
        if mark.any (· ∈ bs) then mark else wait)
  | [], found, wait, s, _, _, _ => by cases mark <;> rfl
  | b :: bs, found, wait, s, hn, hflips, hmark => by
    obtain ⟨hb, hn'⟩ := List.nodup_cons.mp hn
    have hread : nestedRead (.block b) s = (s, false) := nestedRead_clean (List.isEmpty_iff.mpr (hflips b))
    have hblock (x : BlockId) (hx : x ∈ bs) : (s.removeEntry b v).block x = s.block x := by
      rw [removeEntry_at_block, if_neg fun (e : x = b) => hb (e ▸ hx)]
    have hstep : State.passBlock nestedRead v b (s, found, wait) =
        (s.removeEntry b v, if (s.block b).holder = .vehicle v then b :: found else found,
          if mark = some b then mark else wait) := by
      unfold State.passBlock
      dsimp only
      rw [hread]
      by_cases hm : mark = some b
      · rw [if_pos hm, (hmark b List.mem_cons_self).mpr hm, hm]; rfl
      · have hno := Bool.eq_false_iff.mpr (mt (hmark b List.mem_cons_self).mp hm)
        rw [if_neg hm, hno, removeEntry_absent hno]; rfl
    rw [State.pass, hstep, pass_clean (mark := mark) bs _ _ hn' (fun x => ?_) fun x hx => ?_]
    · refine Prod.ext rfl (Prod.ext ?_ ?_)
      · have hfilter : (bs.filter fun x => ((s.removeEntry b v).block x).holder = .vehicle v) =
            bs.filter fun x => (s.block x).holder = .vehicle v := List.filter_congr fun x hx => by rw [hblock x hx]
        dsimp only
        rw [hfilter, List.filter_cons]
        by_cases hh : (s.block b).holder = .vehicle v <;> simp [hh]
      · cases mark with
        | none => rfl
        | some m =>
          by_cases hm : m = b
          · subst hm; simp [hb]
          · by_cases hmem : m ∈ bs <;> simp [hm, hmem]
    · rw [removeEntry_at_block]; split <;> exact hflips x
    · rw [hblock x hx]; exact hmark x (List.mem_cons_of_mem _ hx)

/-! ## The order and the carrier (R140 steps 2 and 3) -/

/-- R140 step 2: the live order of the vehicle, when at most one names it. -/
theorem orderOf_eq (hwork : ∀ o r, s.order o = some r → r.vehicle = some v → work = some (o, r))
    (hback : ∀ x, work = some x → s.order x.1 = some x.2 ∧ x.2.vehicle = some v) :
    s.orderOf v = work.map Prod.fst := by
  unfold State.orderOf
  cases work with
  | none =>
    refine find?_liveSlots_none fun x hx => ?_
    cases hr : s.order x with
    | none => rfl
    | some r => exact decide_eq_false fun h => nomatch hwork x r hr h
  | some x =>
    obtain ⟨hr, hv⟩ := hback x rfl
    refine find?_liveSlots (by rw [hr]; nofun) (by rw [hr]; exact decide_eq_true hv) fun y hy _ => ?_
    cases hr' : s.order y with
    | none => rfl
    | some r' => exact decide_eq_false fun h => hy.ne (congrArg Prod.fst (Option.some.inj (hwork y r' hr' h))).symm

/-- R82, R140 step 3: the QUEUED order bound to the vehicle, when there is at most one. -/
theorem queuedBoundTo_eq
    (hbound : ∀ o r, s.order o = some r → r.state = .queued → r.bound = some v → bound = some (o, r))
    (hback : ∀ x, bound = some x → s.order x.1 = some x.2 ∧ x.2.state = .queued ∧ x.2.bound = some v) :
    s.queuedBoundTo v = bound.map Prod.fst := by
  have hno {y : Slot} {r : OrderRec} (hr : s.order y = some r) (hne : bound ≠ some (y, r)) :
      (decide (r.state = .queued) && decide (r.bound = some v)) = false :=
    Bool.eq_false_iff.mpr fun h => by
      rw [Bool.and_eq_true, decide_eq_true_iff, decide_eq_true_iff] at h
      exact hne (hbound y r hr h.1 h.2)
  unfold State.queuedBoundTo
  cases bound with
  | none =>
    refine find?_liveSlots_none fun x hx => ?_
    cases hr : s.order x with
    | none => rfl
    | some r => exact hno hr nofun
  | some x =>
    obtain ⟨hr, hq, hb⟩ := hback x rfl
    refine find?_liveSlots (by rw [hr]; nofun) (by rw [hr]; simp [hq, hb]) fun y hy _ => ?_
    cases hr' : s.order y with
    | none => rfl
    | some r' => exact hno hr' fun h => hy.ne (congrArg Prod.fst (Option.some.inj h)).symm

/-- R140 step 3: the carrier of a rebuilt vehicle, from its order and from the QUEUED order bound to it. -/
def rebuiltWith (v : VehicleId) (work bound : Option (Slot × OrderRec)) : Carrier :=
  match work, bound with
  | some (_, r), _ =>
    if r.state = OState.carrying ∨ (r.state = OState.offered ∧ r.bound = some v) then r.carrier
    else match bound with
      | some (_, r') => r'.carrier
      | none => .none
  | none, some (_, r') => r'.carrier
  | none, none => .unknown

theorem rebuiltCarrier_eq (hq : s.queuedBoundTo v = bound.map Prod.fst)
    (hback : ∀ x, bound = some x → s.order x.1 = some x.2) :
    s.rebuiltCarrier v (work.map Prod.snd) = rebuiltWith v work bound := by
  have hqueued : ((s.queuedBoundTo v).bind s.order).map (·.carrier) = bound.map fun x => x.2.carrier := by
    rw [hq]
    cases bound with
    | none => rfl
    | some x =>
      have hx := hback x rfl
      dsimp only [Option.map_some, Option.bind_some]
      rw [hx]
      rfl
  unfold State.rebuiltCarrier
  rw [hqueued]
  cases work with
  | none => cases bound <;> rfl
  | some x =>
    dsimp only [Option.map_some, rebuiltWith]
    by_cases hc : x.2.state = .carrying
    · rw [if_pos hc, if_pos (.inl hc)]
    · rw [if_neg hc]
      by_cases ho : x.2.state = .offered ∧ x.2.bound = some v
      · rw [if_pos ho, if_pos (.inr ho)]
      · rw [if_neg ho, if_neg (not_or.mpr ⟨hc, ho⟩)]
        cases bound <;> rfl

/-! ## The end of a rebuild (R138, R140) -/

/-- R140 step 1: the end of the wait is told to the owning link. -/
def State.toldWait (s : State) (v : VehicleId) (wait : Option BlockId) : State :=
  match wait with
  | some b => s.notifyOwner (s.vehicle v).owner (.waitCancelled v b .stalled (s.vehicle v).holds.length)
  | none => s

@[simp] theorem toldWait_at_vehicle (s : State) (v w : VehicleId) (wait : Option BlockId) :
    (s.toldWait v wait).vehicle w = s.vehicle w := by
  unfold State.toldWait; split
  · exact notifyOwner_at_vehicle ..
  · rfl

@[simp] theorem toldWait_at_order (s : State) (v : VehicleId) (wait : Option BlockId) (o : Slot) :
    (s.toldWait v wait).order o = s.order o := by
  unfold State.toldWait; split
  · exact notifyOwner_at_order ..
  · rfl

/-- What a rebuild does once the holding list stands. -/
def State.rebuiltEnd (s : State) (v : VehicleId) (wait : Option BlockId) : State :=
  let t := (readAll nestedRead (s.toldWait v wait).orderRefs (s.toldWait v wait)).1
  (t.rebuildOrder v).noteVehicle v .stalled

theorem repairVehicle_eq {f : Finder} {found : List BlockId} (hm : s.mode ≠ .setup)
    (hpass : State.pass nestedRead v allBlocks (s.setVehicle v .lost, [], none) = (t, found, wait)) :
    s.repairVehicle nestedRead f v = (t.rebuildHolds nestedRead f v found.reverse).rebuiltEnd v wait := by
  unfold State.repairVehicle
  rw [if_neg hm]
  dsimp only
  rw [hpass]
  rfl

/-- The end of a rebuild, from what the search for the orders of the vehicle finds. -/
def State.rebuilt (s : State) (v : VehicleId) (wait : Option BlockId) (work bound : Option (Slot × OrderRec)) : State :=
  let owner := (s.vehicle v).owner
  let told := s.toldWait v wait
  let rec' : VehicleRec := { s.vehicle v with carrier := rebuiltWith v work bound }
  let worked := match work with
    | some (o, r) =>
      if r.state = OState.carrying then
        ((told.setVehicle v { rec' with order := some o, saved := some .toDest }).setOrder o
          (some { r with suspended := true })).noteOrder o { r with suspended := true } .suspended none
      else
        ((told.setVehicle v rec').requeue o v .stalled).notifyOwner owner (.withdraw v o .stalled)
    | none => told.setVehicle v rec'
  worked.noteVehicle v .stalled

theorem rebuiltEnd_eq (hclean : ∀ o r, s.order o = some r → r.flips = [])
    (hwork : ∀ o r, s.order o = some r → r.vehicle = some v → work = some (o, r))
    (hback : ∀ x, work = some x → s.order x.1 = some x.2 ∧ x.2.vehicle = some v)
    (hbound : ∀ o r, s.order o = some r → r.state = .queued → r.bound = some v → bound = some (o, r))
    (hbback : ∀ x, bound = some x → s.order x.1 = some x.2 ∧ x.2.state = .queued ∧ x.2.bound = some v) :
    s.rebuiltEnd v wait = s.rebuilt v wait work bound := by
  have hread : readAll nestedRead (s.toldWait v wait).orderRefs (s.toldWait v wait) = (s.toldWait v wait, false) := by
    refine readAll_same _ fun r hr => ?_
    obtain ⟨o, -, rfl⟩ := List.mem_map.mp hr
    refine nestedRead_clean ?_
    rw [State.cleanAt, toldWait_at_order]
    cases ho : s.order o with
    | none => rfl
    | some r => exact List.isEmpty_iff.mpr (hclean o r ho)
  have horder : (s.toldWait v wait).orderOf v = work.map Prod.fst :=
    orderOf_eq (fun o r hr => hwork o r (toldWait_at_order s v wait o ▸ hr))
      fun x hx => (toldWait_at_order s v wait x.1).symm ▸ hback x hx
  have hqueued : (s.toldWait v wait).queuedBoundTo v = bound.map Prod.fst :=
    queuedBoundTo_eq (fun o r hr => hbound o r (toldWait_at_order s v wait o ▸ hr))
      fun x hx => (toldWait_at_order s v wait x.1).symm ▸ hbback x hx
  have hcarrier := rebuiltCarrier_eq (work := work) hqueued fun x hx =>
    (toldWait_at_order s v wait x.1).trans (hbback x hx).1
  have hvehicle := toldWait_at_vehicle s v v wait
  unfold State.rebuiltEnd State.rebuilt State.rebuildOrder
  rw [hread]
  dsimp only
  rw [horder]
  cases work with
  | none =>
    dsimp only [Option.map_none] at hcarrier ⊢
    rw [State.updVehicle, hcarrier, hvehicle]
  | some x =>
    obtain ⟨o, r⟩ := x
    have hr : (s.toldWait v wait).order o = some r := (toldWait_at_order s v wait o).trans (hback (o, r) rfl).1
    dsimp only [Option.map_some] at hcarrier ⊢
    rw [hr, hcarrier, State.updVehicle, State.updVehicle, hvehicle]
    by_cases hc : r.state = .carrying
    · rw [if_pos hc, if_pos (by rw [Option.any_some]; exact decide_eq_true hc), State.suspend, setVehicle_at_order, hr]
    · rw [if_neg hc, if_neg (by rw [Option.any_some]; exact fun h => hc (of_decide_eq_true h)), State.noteWithdraw,
        requeue_at_vehicle, setVehicle_same]

/-! ## The holding list (R139) -/

/-- R139: one block of a broken chain is frozen, the waits at it ended head first. -/
def State.chainFrozen (f : Finder) (v : VehicleId) (s : State) (b : BlockId) : State :=
  ((s.block b).waiters.foldl (fun u x => u.dropWaitAt b x.vehicle)
    (s.setBlock b { s.block b with holder := .unknown, frozen := true, waiters := [] })).notifyIntegrity
      .chain (.block b) f (some v)

theorem SameOrders.dropWaitAt (h : SameOrders s t) (b : BlockId) (w : VehicleId) : SameOrders s (t.dropWaitAt b w) := by
  unfold State.dropWaitAt
  dsimp only
  split
  · have hset : SameOrders s (t.setVehicle w { t.vehicle w with waitingOn := none }) := h.setVehicle w (h.1 w)
    exact hset.notifyOwner _ _
  · exact h

theorem dropWaits_foldl (b : BlockId) : ∀ (ws : List Waiter) {t : State}, (∀ w, (t.vehicle w).flips = []) →
    State.dropWaits nestedRead b (ws.map (·.vehicle)) t = ws.foldl (fun u x => u.dropWaitAt b x.vehicle) t
  | [], _, _ => rfl
  | x :: ws, t, h => by
    have hnext : SameOrders t (t.dropWaitAt b x.vehicle) := SameOrders.dropWaitAt ⟨h, rfl⟩ b x.vehicle
    rw [List.map_cons, State.dropWaits, nestedRead_vehicle (h x.vehicle), List.foldl_cons]
    exact dropWaits_foldl b ws hnext.1

theorem SameOrders.foldl_dropWaitAt (b : BlockId) : ∀ (ws : List Waiter) {t : State}, SameOrders s t →
    SameOrders s (ws.foldl (fun u x => u.dropWaitAt b x.vehicle) t)
  | [], _, h => h
  | x :: ws, _, h => SameOrders.foldl_dropWaitAt b ws (h.dropWaitAt b x.vehicle)

theorem SameOrders.chainFrozen (h : SameOrders s t) (f : Finder) (b : BlockId) : SameOrders s (t.chainFrozen f v b) :=
  SameOrders.foldl_dropWaitAt b _ ⟨h.1, h.2⟩

theorem freezeChain_eq (f : Finder) : ∀ (bs : List BlockId) {t : State}, (∀ w, (t.vehicle w).flips = []) →
    State.freezeChain nestedRead f v bs t = bs.foldl (State.chainFrozen f v) t
  | [], _, _ => rfl
  | b :: bs, t, h => by
    have hstep : (t.freeze nestedRead b (t.block b).waiting).notifyIntegrity .chain (.block b) f (some v) =
        t.chainFrozen f v b := by
      rw [State.freeze, BlockRec.waiting, dropWaits_foldl b _ (by exact h)]
      rfl
    have hnext : SameOrders t (t.chainFrozen f v b) := SameOrders.chainFrozen ⟨h, rfl⟩ f b
    rw [State.freezeChain, hstep, List.foldl_cons]
    exact freezeChain_eq f bs hnext.1

theorem SameOrders.foldl_chainFrozen (f : Finder) : ∀ (bs : List BlockId) {t : State}, SameOrders s t →
    SameOrders s (bs.foldl (State.chainFrozen f v) t)
  | [], _, h => h
  | b :: bs, _, h => SameOrders.foldl_chainFrozen f bs (h.chainFrozen f b)

theorem rebuildHolds_chain {f : Finder} {held chain : List BlockId} (hne : held ≠ []) (hn : held.Nodup)
    (h : FormsChain (fun b => (s.static b).succs) held chain) : s.rebuildHolds nestedRead f v held =
      s.setVehicle v { s.vehicle v with holds := chain, owner := chain.head?.bind s.bayOwner } := by
  cases held with
  | nil => exact absurd rfl hne
  | cons b rest =>
    unfold State.rebuildHolds
    rw [oneChain_eq hn hne h]
    rfl

theorem rebuildHolds_broken {f : Finder} {held : List BlockId} (hne : held ≠ [])
    (h : ∀ chain, ¬FormsChain (fun b => (s.static b).succs) held chain) (hv : ∀ w, (s.vehicle w).flips = []) :
    s.rebuildHolds nestedRead f v held = held.foldl (State.chainFrozen f v) s := by
  cases held with
  | nil => exact absurd rfl hne
  | cons b rest =>
    unfold State.rebuildHolds
    rw [oneChain_none h]
    exact freezeChain_eq f (b :: rest) hv

/-! ## The rebuild as a whole -/

/-- R140 step 1: the state with every entry of the vehicle taken out. -/
def State.unlisted (s : State) (v : VehicleId) : State :=
  { s with blocks := s.blocks.map fun r => { r with waiters := r.waiters.filter fun w => w.vehicle ≠ v } }

theorem unlisted_at_block (s : State) (v : VehicleId) (x : BlockId) : (s.unlisted v).block x =
    { s.block x with waiters := (s.block x).waiters.filter fun w => w.vehicle ≠ v } := by
  simp [State.unlisted, State.block]

theorem entriesRemoved_all (v : VehicleId) (s : State) : s.entriesRemoved v allBlocks = s.unlisted v := by
  have hn : allBlocks.Nodup := by rw [allBlocks_eq]; exact List.nodup_finRange 1024
  refine tables_ext (entriesRemoved_tables v allBlocks s) (by unfold State.unlisted; rfl) (fun x => ?_) fun w => ?_
  · rw [entriesRemoved_at_block x allBlocks s hn, if_pos (mem_allBlocks x), unlisted_at_block]
    simp [Waiter.isOf]
  · exact entriesRemoved_at_vehicle w allBlocks s

/-- R138 to R140: a vehicle rebuilt, every other record clean, its wait at most one. -/
theorem repairVehicle_clean {f : Finder} (hm : s.mode ≠ .setup) (hflips : ∀ b, (s.block b).flips = [])
    (hwait : ∀ b, wait = some b ↔ ∃ w ∈ (s.block b).waiters, w.vehicle = v) : s.repairVehicle nestedRead f v =
      (((s.setVehicle v .lost).unlisted v).rebuildHolds nestedRead f v
        ((List.finRange 1024).filter fun b => (s.block b).holder = .vehicle v)).rebuiltEnd v wait := by
  have hn : allBlocks.Nodup := by rw [allBlocks_eq]; exact List.nodup_finRange 1024
  have hpass := pass_clean (v := v) (mark := wait) (s := s.setVehicle v .lost) allBlocks [] none hn hflips
    fun b _ => (any_isOf_iff _).trans (hwait b).symm
  have hmark : (if wait.any (· ∈ allBlocks) then wait else none) = wait := by
    cases wait with
    | none => rfl
    | some b => rw [Option.any_some, decide_eq_true (mem_allBlocks b)]; rfl
  rw [hmark, List.append_nil, entriesRemoved_all] at hpass
  have hrepair := repairVehicle_eq (f := f) hm hpass
  rw [List.reverse_reverse, allBlocks_eq] at hrepair
  exact hrepair

theorem keeps_found (s : State) (r : RecRef) (f : Finder) : Keeps s (s.found r f) :=
  ((Keeps.refl s).captureError r .uncorrectable f).notifyIntegrity .record r f none

theorem Keeps.bayOwner (h : Keeps s t) (b : BlockId) : t.bayOwner b = s.bayOwner b := by
  unfold State.bayOwner State.bay State.static
  rw [h.bays, h.map]

/-- Settles O56: a damaged vehicle record is rebuilt from the other tables. -/
theorem damagedVehicleIsRebuilt : Obligations.DamagedVehicleIsRebuilt := by
  unfold Obligations.DamagedVehicleIsRebuilt
  intro finder v s hflips reads found lost
  have e := reads_vehicle_damaged (f := finder) hflips
  have hfound : s.found (.vehicle v) finder = found := by
    rw [State.found, captureError_match] <;> rfl
  have hkeep := keeps_found s (.vehicle v) finder
  have hb (b : BlockId) := found_at_block s (.vehicle v) finder b
  have ho (o : Slot) := found_at_order s (.vehicle v) finder o
  have hv (w : VehicleId) := found_at_vehicle s (.vehicle v) finder w
  rw [hfound] at e hkeep hb ho hv
  clear_value found
  have hread {u : State} (hu : found.repairVehicle nestedRead finder v = u) : reads (.vehicle v) s = (u, true) := by
    rw [← hu, ← e]; cases finder <;> rfl
  have hmode (hm : s.mode ≠ .setup) : found.mode ≠ .setup := hkeep.mode ▸ hm
  have hord (u : State) (hu : u.orders = found.orders) (o : Slot) : u.order o = s.order o := by
    rw [State.order, hu]; exact ho o
  refine ⟨fun hm => hread ?_, fun hm hclean horders => hread ?_, ?_⟩
  · rw [State.repairVehicle, if_pos (hkeep.mode.trans hm)]
    rfl
  · have hpass := pass_unmentioned (rd := nestedRead) (s := found.setVehicle v .lost) (v := v)
      (fun b => nestedRead_clean (List.isEmpty_iff.mpr (hb b ▸ (hclean b).1)))
      (fun b => ⟨hb b ▸ (hclean b).2.1, Bool.eq_false_iff.mpr fun h => by
        obtain ⟨w, hw, hwv⟩ := (any_isOf_iff _).mp h
        exact (hclean b).2.2 w (hb b ▸ hw) hwv⟩) allBlocks [] none
    have hlost (o : Slot) {r : OrderRec} (hr : (found.setVehicle v .lost).order o = some r) :=
      horders o r ((hord (found.setVehicle v .lost) rfl o).symm.trans hr)
    have hend := rebuiltEnd_eq (s := found.setVehicle v .lost) (v := v) (wait := none) (work := none) (bound := none)
      (fun o r hr => (hlost o hr).1) (fun o r hr h => absurd h (hlost o hr).2.1)
      (fun x h => nomatch h) (fun o r hr _ h => absurd h (hlost o hr).2.2) (fun x h => nomatch h)
    refine (repairVehicle_eq (hmode hm) hpass).trans (hend.trans ?_)
    have hsame : ((found.setVehicle v .lost).setVehicle v
        { (found.setVehicle v .lost).vehicle v with carrier := rebuiltWith v none none }) = found.setVehicle v lost := by
      rw [setVehicle_setVehicle, setVehicle_same]; rfl
    exact congrArg (State.noteVehicle · v .stalled) hsame
  · intro held wait work bound hm hbf hvf hof hheld hwait hw1 hw2 hb1 hb2 isChain base carrier finish frozen
    have hbase : (found.setVehicle v .lost).unlisted v = base := by
      have hblocks : (found.setVehicle v .lost).blocks = s.blocks := Vector.ext fun i hi => hb ⟨i, hi⟩
      rw [State.unlisted, hblocks] <;> rfl
    have hfilter : (List.finRange 1024).filter (fun b => (found.block b).holder = .vehicle v) = held := by
      rw [hheld]
      exact List.filter_congr fun b _ => by rw [hb b]
    have hrepair := repairVehicle_clean (f := finder) (wait := wait) (hmode hm) (fun b => hb b ▸ hbf b) fun b => hb b ▸ hwait b
    rw [hbase, hfilter] at hrepair
    have hfinish {u : State} (hu : u.orders = found.orders) : u.rebuiltEnd v wait = finish u :=
      rebuiltEnd_eq (fun o r hr => hof o r ((hord u hu o).symm.trans hr)) (fun o r hr => hw1 o r ((hord u hu o).symm.trans hr))
        (fun x hx => ⟨(hord u hu x.1).trans (hw2 x hx).1, (hw2 x hx).2.1⟩)
        (fun o r hr => hb1 o r ((hord u hu o).symm.trans hr))
        fun x hx => ⟨(hord u hu x.1).trans (hb2 x hx).1, (hb2 x hx).2⟩
    have hn : held.Nodup := by rw [hheld]; exact (List.nodup_finRange 1024).filter _
    have hstatic (b : BlockId) : base.static b = s.static b := congrArg (·[b.val]) hkeep.map
    have hsuccs : (fun b => (base.static b).succs) = fun b => (s.static b).succs := funext fun b => by rw [hstatic b]
    refine ⟨fun hnil => hread ?_, fun chain hne hchain => hread ?_, fun hne hno => hread ?_⟩
    · rw [hnil] at hrepair
      exact hrepair.trans (hfinish rfl)
    · have hforms : FormsChain (fun b => (base.static b).succs) held chain := by rw [hsuccs]; exact hchain
      have howner : (fun b => base.bayOwner b) = fun b => s.bayOwner b := funext fun b => hkeep.bayOwner b
      have hholds := rebuildHolds_chain (s := base) (v := v) (f := finder) hne hn hforms
      have hvehicle : base.vehicle v = lost := setVehicle_same ..
      rw [hholds, hvehicle, show base.bayOwner = s.bayOwner from howner] at hrepair
      exact hrepair.trans (hfinish rfl)
    · have hbv (w : VehicleId) : (base.vehicle w).flips = [] := by
        have h : base.vehicle w = (found.setVehicle v .lost).vehicle w := rfl
        rw [h, setVehicle_read]
        split
        next => rfl
        next hw => rw [hv]; exact hvf w hw
      have hholds := rebuildHolds_broken (s := base) (v := v) (f := finder) hne (by rw [hsuccs]; exact hno) hbv
      have hsame : SameOrders base (held.foldl (State.chainFrozen finder v) base) :=
        SameOrders.foldl_chainFrozen finder held ⟨hbv, rfl⟩
      rw [hholds] at hrepair
      exact hrepair.trans (hfinish hsame.2)

end Sys2Proof.Machine
end

section
/-! The laws of the tables in the middle of an event (R8, R18 to R22, R57, R86, R89, R103). An event moves the tables one
record at a time and reads records in between, and each read may repair; the laws then hold but for what the event still has to
do, its `Debt`. `LawfulBut d s` says so, and with no debt it is `State.lawful` with no record of three flipped bits. -/

namespace Sys2Proof.Machine

/-! ## One vehicle record -/

/-- R20, R21, R57: what the laws say of a vehicle record on its own. -/
structure VehicleRec.Regular (r : VehicleRec) : Prop where
  away : r.state = .offline → r.holds = []
  empty : r.holds = [] → r.state = .offline ∨ (r.state = .stalled ∧ r.cause = some .integrity)
  waits : r.waitingOn ≠ none → r.state ≠ .offline ∧ r.state ≠ .stalled
  cause : r.cause ≠ none ↔ r.state = .stalled
  saved : r.saved ≠ none → r.state = .stalled
  savedSome : r.cause = some .lost ∨ r.cause = some .fault → r.saved ≠ none
  savedKind : ∀ x, r.saved = some x → x = .idle ∨ x = .loadedIdle ∨ x = .withdrawn ∨ x = .toDest
  offer : r.offer ≠ none → r.state = .offered
  owner : r.owner = none ↔ r.holds = []
  order : r.order ≠ none ↔ r.state = .offered ∨ r.state = .toSource ∨ r.state = .toDest ∨
    (r.state = .stalled ∧ r.saved = some .toDest)

/-- R57, R90: the states of an order and of the vehicle that works it. -/
def Fits (x : OState) (y : VState) : Prop :=
  (x = .offered ∧ y = .offered) ∨ (x = .toSource ∧ y = .toSource) ∨ (x = .carrying ∧ (y = .toDest ∨ y = .stalled))

/-- R141: a vehicle record whose order is lost, before it moves. -/
def VehicleRec.parted (r : VehicleRec) : VehicleRec := { r with order := none, offer := none }

/-- R141 step 4: a vehicle record whose order is lost, an idle sequence at hand. -/
def VehicleRec.bereft (n : Word) (r : VehicleRec) : VehicleRec :=
  match r.state with
  | .offered => if r.carrier = .none then r.parted.idled n else r.parted.loaded r.carrier
  | .toSource => r.parted.idled n
  | .toDest => r.parted.loaded r.carrier
  | .stalled => if r.saved = some .toDest then { r.parted with saved := some .loadedIdle } else r.parted
  | _ => r.parted

/-- What the repairs of other records may do to a vehicle record whose check word agrees leaves the predicate true: its wait
ends (R37), it is renumbered (R154), its order is lost (R141). -/
structure Steady (Q : VehicleRec → Prop) : Prop where
  wait : ∀ r, Q r → Q { r with waitingOn := none }
  seq : ∀ r n, Q r → Q { r with idleSeq := n }
  release : ∀ r n, Q r → r.order ≠ none → Q (r.bereft n)

theorem VehicleRec.Regular.wait {r : VehicleRec} (h : r.Regular) : { r with waitingOn := none }.Regular :=
  ⟨h.away, h.empty, fun hne => absurd rfl hne, h.cause, h.saved, h.savedSome, h.savedKind, h.offer, h.owner, h.order⟩

theorem VehicleRec.Regular.seq {r : VehicleRec} (h : r.Regular) (n : Word) : { r with idleSeq := n }.Regular :=
  ⟨h.away, h.empty, h.waits, h.cause, h.saved, h.savedSome, h.savedKind, h.offer, h.owner, h.order⟩

theorem VehicleRec.Regular.bereft {r : VehicleRec} (h : r.Regular) (n : Word) (ho : r.order ≠ none) :
    (r.bereft n).Regular := by
  obtain ⟨away, empty, waits, cause, saved, savedSome, savedKind, offer, owner, order⟩ := h
  unfold VehicleRec.bereft VehicleRec.parted VehicleRec.idled VehicleRec.loaded
  split <;> (try split) <;> (try split) <;> constructor <;> simp_all

theorem steady_regular : Steady VehicleRec.Regular :=
  ⟨fun _ h => h.wait, fun _ n h => h.seq n, fun _ n h ho => h.bereft n ho⟩

/-! ## What an event still owes -/

/-- What is open between blocks and vehicles: `lost v` are the blocks of a vehicle whose record is being rebuilt (R139);
`overdue v b`: the vehicle may name a block that has no entry of it (R37); `stray v b`: the block may have an entry of a
vehicle that does not name it. And what is watched: `iced b`: the block is FROZEN; `room b`: the most entries it has. -/
structure RailDebt where
  lost : VehicleId → Option (List BlockId)
  overdue : VehicleId → BlockId → Prop
  stray : VehicleId → BlockId → Prop
  iced : BlockId → Prop
  room : BlockId → Nat

/-- What is open between vehicles and orders: `pin v` is what holds of a vehicle's record, its check word agreeing, in place of
`Regular`; `apart v`: the states of the vehicle and its order need not fit; `gone v o`: the vehicle may name an order that does
not name it; `orphan v o`: the order may name a vehicle that does not name it. And watched: `unnamed v o`: the order does not
name the vehicle. `inert v`: its check word does not matter, since nothing is
read before the debt is paid. -/
structure CrewDebt where
  pin : VehicleId → Option (VehicleRec → Prop)
  apart : VehicleId → Prop
  gone : VehicleId → Slot → Prop
  orphan : VehicleId → Slot → Prop
  unnamed : VehicleId → Slot → Prop
  inert : VehicleId → Prop

/-- What is watched of the order book: `vacant o`: the slot is free; `kept o r`: it has this order, QUEUED, its check word
agreeing; `queued o`: its order, if any, is QUEUED; `free p`: the port is not reserved. -/
structure BookDebt where
  vacant : Slot → Prop
  kept : Slot → OrderRec → Prop
  queued : Slot → Prop
  free : PortId → Prop

/-- `mapOpen`: the map is being written, in SETUP (R5). -/
structure Debt where
  rail : RailDebt
  crew : CrewDebt
  book : BookDebt
  mapOpen : Prop

/-- Nothing owed, nothing watched. -/
def Debt.zero : Debt where
  rail := ⟨fun _ => none, fun _ _ => False, fun _ _ => False, fun _ => False, fun _ => 8⟩
  crew := ⟨fun _ => none, fun _ => False, fun _ _ => False, fun _ _ => False, fun _ _ => False, fun _ => False⟩
  book := ⟨fun _ => False, fun _ _ => False, fun _ => False, fun _ => False⟩
  mapOpen := False

/-! ## The laws but for the debt -/

/-- R18 to R22: blocks, holding lists and waits. `listed` is the holding list, also that of a vehicle being rebuilt. -/
def RailDebt.listed (d : RailDebt) (s : State) (v : VehicleId) : List BlockId := (d.lost v).getD (s.vehicle v).holds

structure Rail (d : RailDebt) (s : State) : Prop where
  frozen : ∀ b, (s.block b).frozen = true ↔ (s.block b).holder = .unknown
  still : ∀ b, (s.block b).frozen = true → (s.block b).waiters = []
  held : ∀ b v, (s.block b).frozen = false → ((s.block b).holder = .vehicle v ↔ b ∈ d.listed s v)
  sole : ∀ v w b, b ∈ d.listed s v → b ∈ d.listed s w → v = w
  short : ∀ v, (d.listed s v).length ≤ 6
  nodup : ∀ v, (d.listed s v).Nodup
  used : ∀ v, ∀ b ∈ d.listed s v, s.used b = true
  linked : ∀ v, ∀ x ∈ (s.vehicle v).holds.zip (s.vehicle v).holds.tail, x.2 ∈ (s.static x.1).succs
  lost : ∀ v L, d.lost v = some L → (s.vehicle v).holds = [] ∧ (s.vehicle v).flips = []
  waits : ∀ v b, (s.vehicle v).waitingOn = some b → (∃ w ∈ (s.block b).waiters, w.vehicle = v) ∨ d.overdue v b
  entry : ∀ b, ∀ w ∈ (s.block b).waiters, (s.vehicle w.vehicle).waitingOn = some b ∨ d.stray w.vehicle b
  reach : ∀ v b, (s.vehicle v).waitingOn = some b → (s.vehicle v).holds.length ≤ 5 ∧ s.used b = true ∧
    ∃ front, (s.vehicle v).holds.getLast? = some front ∧ b ∈ (s.static front).succs
  room : ∀ b, (s.block b).waiters.length ≤ d.room b
  once : ∀ b, ((s.block b).waiters.map (·.vehicle)).Nodup
  other : ∀ b, ∀ w ∈ (s.block b).waiters, (s.block b).holder ≠ .vehicle w.vehicle
  iced : ∀ b, d.iced b → (s.block b).frozen = true

/-- The order in the slot names the vehicle. -/
def State.Names (s : State) (o : Slot) (v : VehicleId) : Prop := ∃ r, s.order o = some r ∧ r.vehicle = some v

/-- What holds of a vehicle's record. -/
def CrewDebt.good (d : CrewDebt) (v : VehicleId) : VehicleRec → Prop := (d.pin v).getD VehicleRec.Regular

/-- R57, R90: vehicle records and the orders they work. -/
structure Crew (d : CrewDebt) (s : State) : Prop where
  good : ∀ v, d.good v (s.vehicle v)
  steady : ∀ v, Steady (d.good v)
  pinned : ∀ v, d.pin v ≠ none → (s.vehicle v).flips = [] ∨ d.inert v
  points : ∀ v o, (s.vehicle v).order = some o → s.Names o v ∨ d.gone v o
  named : ∀ v o, s.Names o v → (s.vehicle v).order = some o ∨ d.orphan v o
  once : ∀ v o o', s.Names o v → s.Names o' v → o = o'
  unnamed : ∀ v o, d.unnamed v o → ¬ s.Names o v
  fits : ∀ v o r, ¬ d.apart v → ¬ d.orphan v o → s.order o = some r → r.vehicle = some v →
    Fits r.state (s.vehicle v).state

/-- R86, R90: an order has a vehicle when it is not QUEUED, and its ports are distinct. -/
structure OrderRec.Sound (r : OrderRec) : Prop where
  idle : r.state = .queued ↔ r.vehicle = none
  dest : r.source ≠ some r.dest
  alt : r.alt ≠ some r.dest
  source : r.source = none ∨ r.source ≠ r.alt

/-- R86, R89, R103: the orders, their queues and reservations. -/
structure Book (d : BookDebt) (s : State) : Prop where
  sound : ∀ o r, s.order o = some r → r.Sound
  queue : s.queueLaw
  reserved : s.reservationLaw
  vacant : ∀ o, d.vacant o → s.order o = none
  kept : ∀ o r, d.kept o r → s.order o = some r ∧ r.flips = [] ∧ r.state = .queued
  queued : ∀ o r, d.queued o → s.order o = some r → r.state = .queued
  free : ∀ p, d.free p → (s.port p).reservation = none

/-- R8, R9, R13. -/
structure Site (mapOpen : Prop) (s : State) : Prop where
  setup : s.mode = .setup → (∀ v, (s.vehicle v).state = .offline) ∧ ∀ o, s.order o = none
  owned : ¬ mapOpen → s.mode ≠ .setup ∨ s.committed = true → ∀ b, s.used b = true → s.bayOwner b ≠ none
  opened : mapOpen → s.mode = .setup

structure LawfulBut (d : Debt) (s : State) : Prop where
  rail : Rail d.rail s
  crew : Crew d.crew s
  book : Book d.book s
  site : Site d.mapOpen s
  few : s.fewFlips

/-! ## With no debt -/

theorem listed_zero (s : State) (v : VehicleId) : Debt.zero.rail.listed s v = (s.vehicle v).holds := rfl

theorem LawfulBut.lawful {s : State} (h : LawfulBut .zero s) : s.lawful := by
  obtain ⟨rail, crew, book, site, -⟩ := h
  have good (v) : (s.vehicle v).Regular := crew.good v
  refine ⟨⟨site.setup, site.owned id⟩, ⟨fun b => ⟨rail.frozen b, rail.still b, fun hb v => rail.held b v hb⟩, rail.sole⟩,
    fun v => ⟨rail.short v, rail.nodup v, rail.used v, rail.linked v, (good v).away, (good v).empty⟩,
    ⟨fun v b => ⟨fun hw => (rail.waits v b hw).resolve_right id, fun ⟨w, hw, e⟩ => ?_⟩, fun v b hw => ?_,
      fun b => ⟨rail.room b, rail.once b, rail.other b⟩⟩,
    fun v => ⟨(good v).cause, (good v).saved, (good v).savedSome, (good v).savedKind, (good v).offer, (good v).owner,
      (good v).order⟩,
    ⟨fun v o => ⟨fun ho => (crew.points v o ho).resolve_right id, fun hn => (crew.named v o hn).resolve_right id⟩,
      fun o r hr => ?_⟩, book.queue, book.reserved⟩
  · exact e ▸ (rail.entry b w hw).resolve_right id
  · obtain ⟨hlen, hused, hfront⟩ := rail.reach v b hw
    obtain ⟨haway, hstalled⟩ := (good v).waits (by rw [hw]; exact Option.some_ne_none b)
    exact ⟨haway, hstalled, hlen, hused, hfront⟩
  · obtain ⟨idle, dest, alt, source⟩ := book.sound o r hr
    exact ⟨idle, fun v hv => crew.fits v o r id id hr hv, dest, alt, source⟩

theorem lawfulBut_zero {s : State} (h : s.lawful) (hf : s.fewFlips) : LawfulBut .zero s := by
  obtain ⟨⟨setup, owned⟩, ⟨blocks, sole⟩, holds, ⟨waits, reach, lists⟩, roster, ⟨link, orders⟩, queue, reserved⟩ := h
  have regular (v) : (s.vehicle v).Regular := by
    obtain ⟨-, -, -, -, away, empty⟩ := holds v
    obtain ⟨cause, saved, savedSome, savedKind, offer, owner, order⟩ := roster v
    refine ⟨away, empty, fun hw => ?_, cause, saved, savedSome, savedKind, offer, owner, order⟩
    obtain ⟨b, hb⟩ := Option.ne_none_iff_exists'.mp hw
    obtain ⟨haway, hstalled, -⟩ := reach v b hb
    exact ⟨haway, hstalled⟩
  have once (v o o') (h : s.Names o v) (h' : s.Names o' v) : o = o' :=
    Option.some.inj (((link v o).mpr h).symm.trans ((link v o').mpr h'))
  refine ⟨⟨fun b => (blocks b).1, fun b => (blocks b).2.1, fun b v hb => (blocks b).2.2 hb v, sole, fun v => (holds v).1,
      fun v => (holds v).2.1, fun v => (holds v).2.2.1, fun v => (holds v).2.2.2.1, fun v L hL => (Option.some_ne_none L hL.symm).elim,
      fun v b hw => .inl ((waits v b).mp hw),
      fun b w hw => .inl ((waits w.vehicle b).mpr ⟨w, hw, rfl⟩), fun v b hw => (reach v b hw).2.2, fun b => (lists b).1,
      fun b => (lists b).2.1, fun b => (lists b).2.2, fun _ => False.elim⟩,
    ⟨regular, fun _ => steady_regular, fun v hv => absurd rfl hv, fun v o ho => .inl ((link v o).mp ho),
      fun v o hn => .inl ((link v o).mpr hn), once, fun _ _ => False.elim, fun v o r _ _ hr hv => (orders o r hr).2.1 v hv⟩,
    ⟨fun o r hr => ?_, queue, reserved, fun _ => False.elim, fun _ _ => False.elim, fun _ _ => False.elim, fun _ => False.elim⟩,
    ⟨setup, fun _ => owned, False.elim⟩, hf⟩
  obtain ⟨idle, -, dest, alt, source⟩ := orders o r hr
  exact ⟨idle, dest, alt, source⟩

/-! ## Nothing changed in the tables -/

/-- The tables that the laws speak of are the same. -/
structure SameTables (s t : State) : Prop where
  blocks : t.blocks = s.blocks
  vehicles : t.vehicles = s.vehicles
  orders : t.orders = s.orders
  ports : t.ports = s.ports
  queues : t.queues = s.queues
  mode : t.mode = s.mode
  committed : t.committed = s.committed
  map : t.map = s.map
  bays : t.bays = s.bays

namespace SameTables

variable {s t : State}

theorem refl (s : State) : SameTables s s := ⟨rfl, rfl, rfl, rfl, rfl, rfl, rfl, rfl, rfl⟩

theorem block (e : SameTables s t) (b) : t.block b = s.block b := by simp only [State.block, e.blocks]
theorem vehicle (e : SameTables s t) (v) : t.vehicle v = s.vehicle v := by simp only [State.vehicle, e.vehicles]
theorem order (e : SameTables s t) (o) : t.order o = s.order o := by simp only [State.order, e.orders]
theorem port (e : SameTables s t) (p) : t.port p = s.port p := by simp only [State.port, e.ports]

end SameTables

/-- Blocks and vehicles that differ in nothing that `Rail` speaks of. -/
theorem Rail.congr {d : RailDebt} {s t : State} (h : Rail d s) (hholder : ∀ b, (t.block b).holder = (s.block b).holder)
    (hfrozen : ∀ b, (t.block b).frozen = (s.block b).frozen) (hwaiters : ∀ b, (t.block b).waiters = (s.block b).waiters)
    (hholds : ∀ v, (t.vehicle v).holds = (s.vehicle v).holds) (hwait : ∀ v, (t.vehicle v).waitingOn = (s.vehicle v).waitingOn)
    (hflips : ∀ v, (s.vehicle v).flips = [] → (t.vehicle v).flips = []) (hmap : t.map = s.map) : Rail d t := by
  have hstatic (b) : t.static b = s.static b := by simp only [State.static, hmap]
  have hused (b) : t.used b = s.used b := by simp only [State.used, hstatic]
  have hlisted (v) : d.listed t v = d.listed s v := by simp only [RailDebt.listed, hholds]
  refine ⟨?_, ?_, ?_, ?_, ?_, ?_, ?_, ?_, ?_, ?_, ?_, ?_, ?_, ?_, ?_, ?_⟩ <;>
    simp only [hholder, hfrozen, hwaiters, hholds, hwait, hstatic, hused, hlisted]
  · exact h.frozen
  · exact h.still
  · exact h.held
  · exact h.sole
  · exact h.short
  · exact h.nodup
  · exact h.used
  · exact h.linked
  · exact fun v L hL => ⟨(h.lost v L hL).1, hflips v (h.lost v L hL).2⟩
  · exact h.waits
  · exact h.entry
  · exact h.reach
  · exact h.room
  · exact h.once
  · exact h.other
  · exact h.iced

theorem names_congr {s t : State} (ho : ∀ o, t.order o = s.order o) (o v) : t.Names o v ↔ s.Names o v := by
  simp only [State.Names, ho]

theorem Crew.congr {d : CrewDebt} {s t : State} (h : Crew d s) (hv : ∀ v, t.vehicle v = s.vehicle v)
    (ho : ∀ o, t.order o = s.order o) : Crew d t := by
  obtain ⟨h1, h2, h3, h4, h5, h6, h7, h8⟩ := h
  refine ⟨?_, h2, ?_, ?_, ?_, ?_, ?_, ?_⟩ <;> simp only [hv, ho, names_congr ho] <;> assumption

/-- Orders, queues and reservations that differ in nothing that `Book` speaks of. -/
theorem Book.congr {d : BookDebt} {s t : State} (h : Book d s) (ho : ∀ o, t.order o = s.order o) (hq : t.queues = s.queues)
    (hp : ∀ p, (t.port p).reservation = (s.port p).reservation) : Book d t := by
  have hseq (o) : t.submitSeqOf o = s.submitSeqOf o := by simp only [State.submitSeqOf, ho]
  obtain ⟨h1, h2, h3, h4, h5, h6, h7⟩ := h
  refine ⟨?_, ?_, ?_, ?_, ?_, ?_, ?_⟩ <;>
    simp only [State.queueLaw, State.reservationLaw, ho, hq, hp, hseq] at * <;> assumption

theorem Site.congr {m : Prop} {s t : State} (h : Site m s) (hv : ∀ v, (t.vehicle v).state = (s.vehicle v).state)
    (ho : ∀ o, t.order o = none ↔ s.order o = none) (hmode : t.mode = s.mode) (hcommitted : t.committed = s.committed)
    (hmap : t.map = s.map) (hbays : t.bays = s.bays) : Site m t := by
  obtain ⟨h1, h2, h3⟩ := h
  refine ⟨?_, ?_, ?_⟩ <;>
    simp only [State.used, State.bayOwner, State.static, State.bay, hv, ho, hmode, hcommitted, hmap, hbays] at * <;> assumption

theorem LawfulBut.congr {d : Debt} {s t : State} (h : LawfulBut d s) (e : SameTables s t) : LawfulBut d t where
  rail := h.rail.congr (fun b => by rw [e.block]) (fun b => by rw [e.block]) (fun b => by rw [e.block])
    (fun v => by rw [e.vehicle]) (fun v => by rw [e.vehicle]) (fun v hv => by rw [e.vehicle]; exact hv) e.map
  crew := h.crew.congr e.vehicle e.order
  book := h.book.congr e.order e.queues fun p => by rw [e.port]
  site := h.site.congr (fun v => by rw [e.vehicle]) (fun o => by rw [e.order]) e.mode e.committed e.map e.bays
  few := by
    obtain ⟨hb, hv, ho⟩ := h.few
    exact ⟨fun b => by rw [e.block]; exact hb b, fun v => by rw [e.vehicle]; exact hv v,
      fun o r hr => ho o r ((e.order o) ▸ hr)⟩

end Sys2Proof.Machine
end

section
/-! What one write of a block or vehicle record does to the laws of blocks, holding lists and waits (R18 to R22), one lemma a
kind of write; and the writes that those laws do not see. -/

namespace Sys2Proof.Machine

/-! ## Notices and settings -/

namespace LawfulBut

variable {d : Debt} {s : State}

theorem notify (h : LawfulBut d s) (l n) : LawfulBut d (s.notify l n) := h.congr (by constructor <;> simp)
theorem notifyWhere (h : LawfulBut d s) (p n) : LawfulBut d (s.notifyWhere p n) := h.congr (by constructor <;> simp)
theorem notifyIntegrity (h : LawfulBut d s) (c r f v) : LawfulBut d (s.notifyIntegrity c r f v) :=
  h.congr (by constructor <;> simp)
theorem notifyMode (h : LawfulBut d s) (m c) : LawfulBut d (s.notifyMode m c) := h.congr (by constructor <;> simp)
theorem noteVehicle (h : LawfulBut d s) (v was) : LawfulBut d (s.noteVehicle v was) := h.congr (by constructor <;> simp)
theorem noteOrder (h : LawfulBut d s) (o r k c) : LawfulBut d (s.noteOrder o r k c) := h.congr (by constructor <;> simp)
theorem attend (h : LawfulBut d s) (l c) : LawfulBut d (s.attend l c) := h.congr (by constructor <;> simp)
theorem captureError (h : LawfulBut d s) (r k f) : LawfulBut d (s.captureError r k f) := h.congr (by constructor <;> simp)
theorem setTrigger (h : LawfulBut d s) : LawfulBut d s.setTrigger := h.congr (by constructor <;> simp)
theorem endEvent (h : LawfulBut d s) : LawfulBut d s.endEvent := h.congr (by constructor <;> simp)
theorem placeReply (h : LawfulBut d s) (l k t a) : LawfulBut d (s.placeReply l k t a) := h.congr (by constructor <;> simp)
theorem receiverToHunt (h : LawfulBut d s) (l) : LawfulBut d (s.receiverToHunt l) := h.congr (by constructor <;> simp)

theorem notifyOwner (h : LawfulBut d s) (l n) : LawfulBut d (s.notifyOwner l n) := by
  cases l with
  | none => exact h
  | some l => exact h.notify l n

theorem noteWithdraw (h : LawfulBut d s) (v o c) : LawfulBut d (s.noteWithdraw v o c) := h.notifyOwner _ _
theorem noteReroute (h : LawfulBut d s) (v o c p a) : LawfulBut d (s.noteReroute v o c p a) := h.notifyOwner _ _

theorem noteVehicleIfChanged (h : LawfulBut d s) (v r) : LawfulBut d (s.noteVehicleIfChanged v r) := by
  unfold State.noteVehicleIfChanged; split
  · exact h.noteVehicle v _
  · exact h

theorem countCorrection (h : LawfulBut d s) (r f) : LawfulBut d (s.countCorrection r f) :=
  have hcount : LawfulBut d { s with corrections := min 255 (s.corrections + 1) } :=
    h.congr ⟨rfl, rfl, rfl, rfl, rfl, rfl, rfl, rfl, rfl⟩
  hcount.captureError _ _ _

end LawfulBut

/-! ## Blocks, holding lists and waits -/

namespace Rail

variable {d : RailDebt} {s : State} {v : VehicleId} {b : BlockId}

/-- A vehicle record with the same holding list and wait. -/
theorem setVehicle (h : Rail d s) {r : VehicleRec} (hholds : r.holds = (s.vehicle v).holds)
    (hwait : r.waitingOn = (s.vehicle v).waitingOn) (hflips : (s.vehicle v).flips = [] → r.flips = []) :
    Rail d (s.setVehicle v r) := by
  refine h.congr (fun _ => rfl) (fun _ => rfl) (fun _ => rfl) (fun w => ?_) (fun w => ?_) (fun w => ?_) rfl <;>
    rw [setVehicle_read] <;> split
  · next e => rw [hholds, e]
  · rfl
  · next e => rw [hwait, e]
  · rfl
  · next e => exact e ▸ hflips
  · exact id

/-- A block record with the same holder, mark and waiters. -/
theorem setBlock (h : Rail d s) {r : BlockRec} (hholder : r.holder = (s.block b).holder)
    (hfrozen : r.frozen = (s.block b).frozen) (hwaiters : r.waiters = (s.block b).waiters) : Rail d (s.setBlock b r) := by
  refine h.congr (fun c => ?_) (fun c => ?_) (fun c => ?_) (fun _ => rfl) (fun _ => rfl) (fun _ => id) rfl <;>
    rw [setBlock_read] <;> split
  · next e => rw [hholder, e]
  · rfl
  · next e => rw [hfrozen, e]
  · rfl
  · next e => rw [hwaiters, e]
  · rfl

/-- Anything but blocks, vehicles and the map. -/
theorem congr' {t : State} (h : Rail d s) (hb : t.blocks = s.blocks) (hv : t.vehicles = s.vehicles) (hm : t.map = s.map) :
    Rail d t := by
  have eb (c) : t.block c = s.block c := by simp only [State.block, hb]
  have ev (v) : t.vehicle v = s.vehicle v := by simp only [State.vehicle, hv]
  exact h.congr (fun c => by rw [eb]) (fun c => by rw [eb]) (fun c => by rw [eb]) (fun w => by rw [ev]) (fun w => by rw [ev])
    (fun w => by rw [ev]; exact id) hm

/-- More owed, less watched. -/
theorem mono {d' : RailDebt} (h : Rail d s) (hlost : d'.lost = d.lost)
    (hlate : ∀ v b, (s.vehicle v).waitingOn = some b → d.overdue v b → d'.overdue v b)
    (hstray : ∀ v b, d.stray v b → d'.stray v b) (hiced : ∀ b, d'.iced b → d.iced b) (hroom : ∀ b, d.room b ≤ d'.room b) :
    Rail d' s := by
  have hlisted (v) : d'.listed s v = d.listed s v := by rw [RailDebt.listed, hlost, RailDebt.listed]
  refine ⟨h.frozen, h.still, ?_, ?_, ?_, ?_, ?_, h.linked, ?_, fun v b hw => (h.waits v b hw).imp_right (hlate v b hw),
    fun b w hw => (h.entry b w hw).imp_right (hstray _ b), h.reach, fun b => (h.room b).trans (hroom b), h.once, h.other,
    fun b hb => h.iced b (hiced b hb)⟩ <;> simp only [hlisted, hlost]
  · exact h.held
  · exact h.sole
  · exact h.short
  · exact h.nodup
  · exact h.used
  · exact h.lost

/-- R21: a vehicle's wait ends; a block may have an entry of it only as a stray one. -/
theorem clearWait {late : VehicleId → BlockId → Prop} (h : Rail d s) {r : VehicleRec} (hholds : r.holds = (s.vehicle v).holds)
    (hwait : r.waitingOn = none) (hflips : (s.vehicle v).flips = [] → r.flips = [])
    (hlate : ∀ w c, w ≠ v → d.overdue w c → late w c)
    (hentry : ∀ c, ∀ w ∈ (s.block c).waiters, w.vehicle = v → d.stray v c) :
    Rail { d with overdue := late } (s.setVehicle v r) := by
  have hreadHolds (w) : ((s.setVehicle v r).vehicle w).holds = (s.vehicle w).holds := by
    rw [setVehicle_read]; split
    · next e => rw [hholds, e]
    · rfl
  have hlisted (w) : RailDebt.listed { d with overdue := late } (s.setVehicle v r) w = d.listed s w := by
    simp only [RailDebt.listed, hreadHolds]
  refine ⟨h.frozen, h.still, ?_, ?_, ?_, ?_, ?_, ?_, fun w L hL => ?_, fun w c hw => ?_, fun c w hw => ?_, fun w c hw => ?_,
    h.room, h.once, h.other, h.iced⟩ <;> simp only [hlisted, hreadHolds, setVehicle_at_block, setVehicle_at_static]
  · exact h.held
  · exact h.sole
  · exact h.short
  · exact h.nodup
  · exact h.used
  · exact h.linked
  · refine ⟨(h.lost w L hL).1, ?_⟩
    rw [setVehicle_read]; split
    · next e => exact hflips (e ▸ (h.lost w L hL).2)
    · exact (h.lost w L hL).2
  · rw [setVehicle_read] at hw
    split at hw
    · rw [hwait] at hw; cases hw
    · next hne => exact (h.waits w c hw).imp_right (hlate w c hne)
  · by_cases hv : w.vehicle = v
    · exact .inr (hv ▸ hentry c w hw hv)
    · rw [setVehicle_other s r hv]; exact h.entry c w hw
  · rw [setVehicle_read] at hw
    split at hw
    · rw [hwait] at hw; cases hw
    · exact h.reach w c hw

/-- R37: a block becomes FROZEN; the vehicles that wait at it are to be told. -/
theorem ice {late : VehicleId → BlockId → Prop} {iced : BlockId → Prop} (h : Rail d s) {r : BlockRec}
    (hholder : r.holder = .unknown) (hfrozen : r.frozen = true) (hwaiters : r.waiters = [])
    (hlate : ∀ w c, d.overdue w c → late w c) (hb : ∀ w, (s.vehicle w).waitingOn = some b → late w b)
    (hiced : ∀ c, iced c → d.iced c ∨ c = b) : Rail { d with overdue := late, iced := iced } (s.setBlock b r) := by
  have hlisted (w) : RailDebt.listed { d with overdue := late, iced := iced } (s.setBlock b r) w = d.listed s w := rfl
  refine ⟨fun c => ?_, fun c => ?_, fun c w hc => ?_, h.sole, h.short, h.nodup, h.used, h.linked, h.lost, fun w c hw => ?_,
    fun c w => ?_, h.reach, fun c => ?_, fun c => ?_, fun c w => ?_, fun c hc => ?_⟩
  · rw [setBlock_read]; split
    · simp [hholder, hfrozen]
    · exact h.frozen c
  · rw [setBlock_read]; split
    · exact fun _ => hwaiters
    · exact h.still c
  · rw [setBlock_read] at hc ⊢
    split at hc
    · rw [hfrozen] at hc; cases hc
    · next hne => rw [if_neg hne]; exact h.held c w hc
  · rcases eq_or_ne c b with rfl | hne
    · exact .inr (hb w hw)
    · rw [setBlock_other s r hne]; exact (h.waits w c hw).imp_right (hlate w c)
  · rw [setBlock_read]; split
    · rw [hwaiters]; exact fun hw => absurd hw List.not_mem_nil
    · exact h.entry c w
  · rw [setBlock_read]; split
    · rw [hwaiters]; exact Nat.zero_le _
    · exact h.room c
  · rw [setBlock_read]; split
    · rw [hwaiters]; exact List.nodup_nil
    · exact h.once c
  · rw [setBlock_read]; split
    · rw [hwaiters]; exact fun hw => absurd hw List.not_mem_nil
    · exact h.other c w
  · rw [setBlock_read]; split
    · exact hfrozen
    · next hne => exact h.iced c ((hiced c hc).resolve_right hne)

/-- R22: the entry of a vehicle leaves a block's list. -/
theorem removeEntry {late stray : VehicleId → BlockId → Prop} (h : Rail d s) (hlate : ∀ w c, d.overdue w c → late w c)
    (hv : (s.vehicle v).waitingOn = some b → late v b) (hstray : ∀ w c, d.stray w c → w ≠ v ∨ c ≠ b → stray w c) :
    Rail { d with overdue := late, stray := stray } (s.removeEntry b v) := by
  have hmem {c : BlockId} {w : Waiter} : w ∈ ((s.removeEntry b v).block c).waiters ↔
      w ∈ (s.block c).waiters ∧ (w.vehicle ≠ v ∨ c ≠ b) := by
    rw [State.removeEntry, State.updBlock, setBlock_read]
    split
    · next e => simp [Waiter.isOf, e]
    · next e => simp [e]
  have hholder (c) : ((s.removeEntry b v).block c).holder = (s.block c).holder := by
    rw [State.removeEntry, State.updBlock, setBlock_read]; split
    · next e => rw [e]
    · rfl
  have hfrozen (c) : ((s.removeEntry b v).block c).frozen = (s.block c).frozen := by
    rw [State.removeEntry, State.updBlock, setBlock_read]; split
    · next e => rw [e]
    · rfl
  have hsub (c) : ((s.removeEntry b v).block c).waiters.Sublist (s.block c).waiters := by
    rw [State.removeEntry, State.updBlock, setBlock_read]; split
    · next e => rw [e]; exact List.filter_sublist
    · exact List.Sublist.refl _
  refine ⟨fun c => ?_, fun c => ?_, fun c w => ?_, h.sole, h.short, h.nodup, h.used, h.linked, h.lost, fun w c hw => ?_,
    fun c w hw => ?_, h.reach, fun c => (hsub c).length_le.trans (h.room c), fun c => (h.once c).sublist ((hsub c).map _),
    fun c w hw => ?_, fun c => ?_⟩
  · rw [hholder, hfrozen]; exact h.frozen c
  · rw [hfrozen]; exact fun hc => List.eq_nil_of_sublist_nil (h.still c hc ▸ hsub c)
  · rw [hholder, hfrozen]; exact h.held c w
  · rcases h.waits w c hw with ⟨x, hx, hxw⟩ | ho
    · by_cases hne : x.vehicle ≠ v ∨ c ≠ b
      · exact .inl ⟨x, hmem.mpr ⟨hx, hne⟩, hxw⟩
      · simp only [not_or, not_not] at hne
        obtain ⟨hxv, rfl⟩ := hne
        obtain rfl := hxv.symm.trans hxw
        exact .inr (hv hw)
    · exact .inr (hlate w c ho)
  · obtain ⟨hw, hne⟩ := hmem.mp hw
    exact (h.entry c w hw).imp_right fun hs => hstray _ c hs hne
  · rw [hholder]; exact h.other c w (hmem.mp hw).1
  · rw [hfrozen]; exact h.iced c

end Rail

end Sys2Proof.Machine
end

section
/-! Blocks that change hands, and the blocks of a vehicle that is being rebuilt (R18 to R22, R138, R139, R143). -/

namespace Sys2Proof.Machine

namespace Rail

variable {d : RailDebt} {s : State} {v : VehicleId} {b : BlockId}

/-! ## A vehicle being rebuilt -/

theorem listed_update (d : RailDebt) (s : State) (v w : VehicleId) (x : Option (List BlockId)) :
    RailDebt.listed { d with lost := Function.update d.lost v x } s w =
      if w = v then x.getD (s.vehicle v).holds else d.listed s w := by
  by_cases e : w = v
  · subst e; simp [RailDebt.listed]
  · simp [RailDebt.listed, e]

theorem listed_lost {L : List BlockId} (h : d.lost v = some L) : d.listed s v = L := by simp [RailDebt.listed, h]

theorem listed_holds (h : d.lost v = none) : d.listed s v = (s.vehicle v).holds := by simp [RailDebt.listed, h]

/-- R139: a block that the vehicle does not hold is no block of its rebuilt holding list. -/
theorem unlist (h : Rail d s) {L : List BlockId} (hL : d.lost v = some L) (hb : (s.block b).holder ≠ .vehicle v) :
    Rail { d with lost := Function.update d.lost v (some (L.filter (· ≠ b))) } s := by
  have hlisted (w) : RailDebt.listed { d with lost := Function.update d.lost v (some (L.filter (· ≠ b))) } s w =
      if w = v then L.filter (· ≠ b) else d.listed s w := by rw [listed_update]; rfl
  have hsub (w) : (RailDebt.listed { d with lost := Function.update d.lost v (some (L.filter (· ≠ b))) } s w).Sublist
      (d.listed s w) := by
    rw [hlisted]; split
    · next e => rw [e, listed_lost hL]; exact List.filter_sublist
    · exact List.Sublist.refl _
  refine ⟨h.frozen, h.still, fun c w hc => ?_, fun w x c hw hx => h.sole w x c ((hsub w).mem hw) ((hsub x).mem hx),
    fun w => (hsub w).length_le.trans (h.short w), fun w => (h.nodup w).sublist (hsub w),
    fun w c hw => h.used w c ((hsub w).mem hw), h.linked, fun w K hK => ?_, h.waits, h.entry, h.reach, h.room, h.once, h.other,
    h.iced⟩
  · rw [h.held c w hc, hlisted]
    split
    · next e =>
      subst e
      rw [listed_lost hL, List.mem_filter]
      refine ⟨fun hm => ⟨hm, decide_eq_true fun e => hb ?_⟩, And.left⟩
      subst e
      exact (h.held c w hc).mpr (by rw [listed_lost hL]; exact hm)
    · rfl
  · rcases eq_or_ne w v with rfl | hne
    · exact h.lost w L hL
    · exact h.lost w K ((Function.update_of_ne hne _ _).symm.trans hK)

/-- R138: a vehicle record is lost; its blocks and its entry in a waiter list stay where they are. -/
theorem lose {stray : VehicleId → BlockId → Prop} (h : Rail d s) {r : VehicleRec} (hlost : d.lost v = none)
    (hholds : r.holds = []) (hwait : r.waitingOn = none) (hflips : r.flips = []) (hstray : ∀ w c, d.stray w c → stray w c)
    (hv : ∀ c, stray v c) :
    Rail { d with lost := Function.update d.lost v (some (s.vehicle v).holds), stray := stray } (s.setVehicle v r) := by
  have hlisted (w) : RailDebt.listed { d with lost := Function.update d.lost v (some (s.vehicle v).holds), stray := stray }
      (s.setVehicle v r) w = d.listed s w := by
    rcases eq_or_ne w v with rfl | hne
    · simp [RailDebt.listed, hlost]
    · simp [RailDebt.listed, Function.update_of_ne hne, setVehicle_other s r hne]
  refine ⟨h.frozen, h.still, fun c w hc => by rw [hlisted]; exact h.held c w hc,
    fun w x c hw hx => h.sole w x c (hlisted w ▸ hw) (hlisted x ▸ hx), fun w => by rw [hlisted]; exact h.short w,
    fun w => by rw [hlisted]; exact h.nodup w, fun w c hw => h.used w c (hlisted w ▸ hw), fun w => ?_, fun w K hK => ?_,
    fun w c hw => ?_, fun c w hw => ?_, fun w c hw => ?_, h.room, h.once, h.other, h.iced⟩
  · rw [setVehicle_read]; split
    · rw [hholds]; exact fun x hx => absurd hx List.not_mem_nil
    · exact h.linked w
  · rw [setVehicle_read]; split
    · exact ⟨hholds, hflips⟩
    · next hne => exact h.lost w K ((Function.update_of_ne hne _ _).symm.trans hK)
  · rw [setVehicle_read] at hw
    split at hw
    · rw [hwait] at hw; cases hw
    · exact h.waits w c hw
  · by_cases e : w.vehicle = v
    · exact .inr (e ▸ hv c)
    · rw [setVehicle_other s r e]; exact (h.entry c w hw).imp_right (hstray _ c)
  · rw [setVehicle_read] at hw ⊢
    split at hw
    · rw [hwait] at hw; cases hw
    · next hne => rw [if_neg hne]; exact h.reach w c hw

/-- R139: the rebuilt vehicle has its holding list again. -/
theorem rehold (h : Rail d s) {r : VehicleRec} {L : List BlockId} (hL : d.lost v = some L) (hmem : ∀ c, c ∈ r.holds ↔ c ∈ L)
    (hnodup : r.holds.Nodup) (hlinked : ∀ x ∈ r.holds.zip r.holds.tail, x.2 ∈ (s.static x.1).succs)
    (hwas : (s.vehicle v).waitingOn = none) (hwait : r.waitingOn = none) :
    Rail { d with lost := Function.update d.lost v none } (s.setVehicle v r) := by
  have hlisted (w) : RailDebt.listed { d with lost := Function.update d.lost v none } (s.setVehicle v r) w =
      if w = v then r.holds else d.listed s w := by
    rcases eq_or_ne w v with rfl | hne
    · simp [RailDebt.listed]
    · simp [RailDebt.listed, setVehicle_other s r hne, hne]
  have hlistedMem (w c) : c ∈ RailDebt.listed { d with lost := Function.update d.lost v none } (s.setVehicle v r) w ↔
      c ∈ d.listed s w := by
    rw [hlisted]; split
    · next e => rw [e, listed_lost hL]; exact hmem c
    · rfl
  have hLnodup := h.nodup v
  rw [listed_lost hL] at hLnodup
  have hlen : r.holds.length = L.length := ((List.perm_ext_iff_of_nodup hnodup hLnodup).mpr hmem).length_eq
  refine ⟨h.frozen, h.still, fun c w hc => (h.held c w hc).trans (hlistedMem w c).symm,
    fun w x c hw hx => h.sole w x c ((hlistedMem w c).mp hw) ((hlistedMem x c).mp hx), fun w => ?_, fun w => ?_,
    fun w c hw => h.used w c ((hlistedMem w c).mp hw), fun w => ?_, fun w K hK => ?_, fun w c hw => ?_, fun c w hw => ?_,
    fun w c hw => ?_, h.room, h.once, h.other, h.iced⟩
  · rw [hlisted]; split
    · rw [hlen, ← listed_lost (s := s) hL]; exact h.short v
    · exact h.short w
  · rw [hlisted]; split
    · exact hnodup
    · exact h.nodup w
  · rw [setVehicle_read]; split
    · exact hlinked
    · exact h.linked w
  · rw [setVehicle_read]; split
    · next e => subst e; simp at hK
    · next hne => exact h.lost w K ((Function.update_of_ne hne _ _).symm.trans hK)
  · rw [setVehicle_read] at hw
    split at hw
    · rw [hwait] at hw; cases hw
    · exact h.waits w c hw
  · by_cases e : w.vehicle = v
    · refine .inr ((h.entry c w hw).resolve_left ?_)
      rw [e, hwas]; exact fun x => Option.some_ne_none c x.symm
    · rw [setVehicle_other s r e]; exact h.entry c w hw
  · rw [setVehicle_read] at hw ⊢
    split at hw
    · rw [hwait] at hw; cases hw
    · next hne => rw [if_neg hne]; exact h.reach w c hw

/-! ## A block taken -/

/-- R23, R31, R38: a free block joins the front of a vehicle's holding list. -/
theorem grant (h : Rail d s) {x : BlockRec} {r : VehicleRec} (hlost : d.lost v = none)
    (hfree : (s.block b).holder = .none) (hholder : x.holder = .vehicle v) (hfrozen : x.frozen = (s.block b).frozen)
    (hwaiters : x.waiters = (s.block b).waiters) (hholds : r.holds = (s.vehicle v).holds ++ [b]) (hwait : r.waitingOn = none)
    (hwas : (s.vehicle v).waitingOn = none) (hflips : (s.vehicle v).flips = [] → r.flips = [])
    (hlen : (s.vehicle v).holds.length ≤ 5) (hused : s.used b = true)
    (hfront : ∀ c, (s.vehicle v).holds.getLast? = some c → b ∈ (s.static c).succs)
    (hentry : ∀ w ∈ (s.block b).waiters, w.vehicle ≠ v) : Rail d ((s.setBlock b x).setVehicle v r) := by
  have hblock : (s.block b).frozen = false := by
    by_contra hf
    rw [Bool.not_eq_false, h.frozen b, hfree] at hf
    cases hf
  have hnot (w) : b ∉ d.listed s w := fun hm => by
    have := (h.held b w hblock).mpr hm
    rw [hfree] at this; cases this
  have hread (w) : ((s.setBlock b x).setVehicle v r).vehicle w = if w = v then r else s.vehicle w := setVehicle_read _ v w r
  have hlisted (w) : d.listed ((s.setBlock b x).setVehicle v r) w = if w = v then (s.vehicle v).holds ++ [b] else d.listed s w := by
    simp only [RailDebt.listed, hread]
    split
    · next e => subst e; simp [hlost, hholds]
    · rfl
  have hlistedV := listed_holds (s := s) hlost
  have hmem (w c) : c ∈ d.listed ((s.setBlock b x).setVehicle v r) w ↔ c ∈ d.listed s w ∨ (w = v ∧ c = b) := by
    rw [hlisted]; split
    · next e => subst e; rw [hlistedV]; simp
    · next hne => simp [hne]
  refine ⟨fun c => ?_, fun c => ?_, fun c w hc => ?_, fun w y c hw hy => ?_, fun w => ?_, fun w => ?_, fun w c hc => ?_,
    fun w => ?_, fun w K hK => ?_, fun w c hw => ?_, fun c w hw => ?_, fun w c hw => ?_, fun c => ?_, fun c => ?_,
    fun c w hw => ?_, fun c hc => ?_⟩
  · rw [setVehicle_at_block, setBlock_read]; split
    · simp [hfrozen, hblock, hholder]
    · exact h.frozen c
  · rw [setVehicle_at_block, setBlock_read]; split
    · rw [hfrozen, hblock]; exact fun hf => absurd hf Bool.false_ne_true
    · exact h.still c
  · rw [hmem]
    rw [setVehicle_at_block, setBlock_read] at hc ⊢
    split
    · next e =>
      subst e
      rw [hholder]
      refine ⟨fun e => .inr ⟨?_, rfl⟩, fun e => ?_⟩
      · injection e with e; exact e.symm
      · rw [(e.resolve_left (hnot w)).1]
    · next hne =>
      rw [if_neg hne] at hc
      rw [h.held c w hc]
      exact ⟨.inl, fun e => e.resolve_right fun e => hne e.2⟩
  · rcases (hmem w c).mp hw with hw' | ⟨ew, ec⟩
    · rcases (hmem y c).mp hy with hy' | ⟨-, ec⟩
      · exact h.sole w y c hw' hy'
      · exact absurd (ec ▸ hw') (hnot w)
    · rcases (hmem y c).mp hy with hy' | ⟨ey, -⟩
      · exact absurd (ec ▸ hy') (hnot y)
      · exact ew.trans ey.symm
  · rw [hlisted]; split
    · simp only [List.length_append, List.length_singleton]; omega
    · exact h.short w
  · rw [hlisted]; split
    · have hv := h.nodup v
      have hb := hnot v
      rw [hlistedV] at hv hb
      exact List.nodup_append.mpr ⟨hv, List.nodup_singleton b, fun a ha c hc => by
        rw [List.mem_singleton] at hc; subst hc; exact fun e => hb (e ▸ ha)⟩
    · exact h.nodup w
  · rcases (hmem w c).mp hc with hc | ⟨-, rfl⟩
    · exact h.used w c hc
    · exact hused
  · rw [hread]; split
    · have hold := (isChain_iff_zip (succs := fun c => (s.static c).succs) _).mpr (h.linked v)
      rw [hholds]
      refine (isChain_iff_zip (succs := fun c => (s.static c).succs) _).mp
        (List.isChain_append.mpr ⟨hold, List.isChain_singleton b, fun a ha c hc => ?_⟩)
      obtain rfl : b = c := Option.some.inj hc
      exact hfront a ha
    · exact h.linked w
  · rw [hread]; split
    · next e => subst e; rw [hlost] at hK; cases hK
    · exact h.lost w K hK
  · rw [hread] at hw
    split at hw
    · rw [hwait] at hw; cases hw
    · rw [setVehicle_at_block, setBlock_read]
      split
      · next e => subst e; rw [hwaiters]; exact h.waits w c hw
      · exact h.waits w c hw
  · have hw' : w ∈ (s.block c).waiters := by
      rw [setVehicle_at_block, setBlock_read] at hw
      split at hw
      · next e => subst e; rw [← hwaiters]; exact hw
      · exact hw
    rw [hread]; split
    · next e =>
      refine .inr ((h.entry c w hw').resolve_left ?_)
      rw [e, hwas]; exact fun x => Option.some_ne_none c x.symm
    · exact h.entry c w hw'
  · rw [hread] at hw ⊢
    split at hw
    · rw [hwait] at hw; cases hw
    · next hne => rw [if_neg hne]; exact h.reach w c hw
  · rw [setVehicle_at_block, setBlock_read]; split
    · next e => subst e; rw [hwaiters]; exact h.room c
    · exact h.room c
  · rw [setVehicle_at_block, setBlock_read]; split
    · next e => subst e; rw [hwaiters]; exact h.once c
    · exact h.once c
  · rw [setVehicle_at_block, setBlock_read] at hw ⊢
    split
    · next e =>
      subst e
      rw [if_pos rfl, hwaiters] at hw
      rw [hholder]
      intro e
      injection e with e
      exact hentry w hw e.symm
    · next hne => rw [if_neg hne] at hw; exact h.other c w hw
  · have hold := h.iced c hc
    rw [setVehicle_at_block, setBlock_read]; split
    · next e => subst e; rw [hblock] at hold; cases hold
    · exact hold

end Rail

end Sys2Proof.Machine
end

section
/-! Blocks released and thawed, waits entered and renumbered (R22, R31, R143, R154). -/

namespace Sys2Proof.Machine

/-- A list without its first or its last element, which stands in it once. -/
theorem filter_ne_end {α : Type} [DecidableEq α] {b : α} {L : List α} (hn : L.Nodup)
    (hb : L.head? = some b ∨ L.getLast? = some b) :
    (L.filter (· ≠ b) = L.tail ∧ L.head? = some b) ∨ ∃ I, L = I ++ [b] ∧ L.filter (· ≠ b) = I := by
  rcases hb with hb | hb
  · cases L with
    | nil => cases hb
    | cons a L =>
      obtain rfl := Option.some.inj hb
      obtain ⟨ha, -⟩ := List.nodup_cons.mp hn
      refine .inl ⟨?_, rfl⟩
      rw [List.filter_cons_of_neg (by simp), List.tail_cons, List.filter_eq_self]
      exact fun x hx => decide_eq_true fun e => ha (e ▸ hx)
  · obtain ⟨I, rfl⟩ := List.getLast?_eq_some_iff.mp hb
    refine .inr ⟨I, rfl, ?_⟩
    have hI : b ∉ I := fun h => (List.nodup_append.mp hn).2.2 b h b List.mem_cons_self rfl
    rw [List.filter_append, List.filter_cons_of_neg (by simp), List.filter_nil, List.append_nil, List.filter_eq_self]
    exact fun x hx => decide_eq_true fun e => hI (e ▸ hx)

theorem isChain_filter_ne_end {α : Type} [DecidableEq α] {R : α → α → Prop} {b : α} {L : List α} (hn : L.Nodup)
    (hb : L.head? = some b ∨ L.getLast? = some b) (h : L.IsChain R) : (L.filter (· ≠ b)).IsChain R := by
  rcases filter_ne_end hn hb with ⟨e, -⟩ | ⟨I, rfl, e⟩
  · rw [e]; exact h.tail
  · rw [e]; exact (List.isChain_append.mp h).1

namespace Rail

variable {d : RailDebt} {s : State} {v : VehicleId} {b : BlockId}

/-- R21: a vehicle does not wait on a block it has. -/
theorem not_mem_of_waits (h : Rail d s) (hover : ¬ d.overdue v b) (hw : (s.vehicle v).waitingOn = some b) :
    b ∉ (s.vehicle v).holds := fun hm => by
  have hlost : d.lost v = none := by
    by_contra hne
    obtain ⟨L, hL⟩ := Option.ne_none_iff_exists'.mp hne
    rw [(h.lost v L hL).1] at hm
    exact List.not_mem_nil hm
  obtain ⟨w, hw, e⟩ := (h.waits v b hw).resolve_right hover
  cases hf : (s.block b).frozen with
  | true => rw [h.still b hf] at hw; exact List.not_mem_nil hw
  | false =>
    refine h.other b w hw ?_
    rw [e]
    exact (h.held b v hf).mpr (by rw [listed_holds hlost]; exact hm)

/-- R31: the first or the last block of a holding list leaves it; unless FROZEN it becomes free. -/
theorem release (h : Rail d s) {x : BlockRec} {r : VehicleRec} (hlost : d.lost v = none)
    (hb : (s.vehicle v).holds.head? = some b ∨ (s.vehicle v).holds.getLast? = some b)
    (hx : ((s.block b).frozen = true ∧ x.holder = (s.block b).holder) ∨ ((s.block b).frozen = false ∧ x.holder = .none))
    (hfrozen : x.frozen = (s.block b).frozen) (hwaiters : x.waiters = (s.block b).waiters)
    (hholds : r.holds = (s.vehicle v).holds.filter (· ≠ b)) (hwait : r.waitingOn = (s.vehicle v).waitingOn)
    (hflips : (s.vehicle v).flips = [] → r.flips = [])
    (hreach : r.waitingOn = none ∨ r.holds.getLast? = (s.vehicle v).holds.getLast?) :
    Rail d ((s.setVehicle v r).setBlock b x) := by
  have hlistedV := listed_holds (s := s) hlost
  have hnodup := h.nodup v
  rw [hlistedV] at hnodup
  have hbmem : b ∈ (s.vehicle v).holds := hb.elim (fun e => List.mem_of_head? e) fun e => List.mem_of_getLast? e
  have hblock (c) : ((s.setVehicle v r).setBlock b x).block c = if c = b then x else s.block c := setBlock_read _ b c x
  have hread (w) : ((s.setVehicle v r).setBlock b x).vehicle w = if w = v then r else s.vehicle w := setVehicle_read _ v w r
  have hlisted (w) : d.listed ((s.setVehicle v r).setBlock b x) w =
      if w = v then (s.vehicle v).holds.filter (· ≠ b) else d.listed s w := by
    simp only [RailDebt.listed, hread]
    split
    · next e => subst e; simp only [hlost, hholds]; rfl
    · rfl
  have hsub (w) : (d.listed ((s.setVehicle v r).setBlock b x) w).Sublist (d.listed s w) := by
    rw [hlisted]; split
    · next e => rw [e, hlistedV]; exact List.filter_sublist
    · exact List.Sublist.refl _
  have hfrozen' (c) : (((s.setVehicle v r).setBlock b x).block c).frozen = (s.block c).frozen := by
    rw [hblock]; split
    · next e => rw [hfrozen, e]
    · rfl
  have hwaiters' (c) : (((s.setVehicle v r).setBlock b x).block c).waiters = (s.block c).waiters := by
    rw [hblock]; split
    · next e => rw [hwaiters, e]
    · rfl
  refine ⟨fun c => ?_, fun c hc => ?_, fun c w hc => ?_, fun w y c hw hy => h.sole w y c ((hsub w).mem hw) ((hsub y).mem hy),
    fun w => (hsub w).length_le.trans (h.short w), fun w => (h.nodup w).sublist (hsub w),
    fun w c hw => h.used w c ((hsub w).mem hw), fun w => ?_, fun w K hK => ?_, fun w c hw => ?_, fun c w hw => ?_,
    fun w c hw => ?_, fun c => ?_, fun c => ?_, fun c w hw => ?_, fun c hc => ?_⟩
  · rw [hfrozen', hblock]; split
    · next e =>
      subst e
      rcases hx with ⟨-, hx⟩ | ⟨hf, hx⟩
      · rw [hx]; exact h.frozen c
      · simp [hx, hf]
    · exact h.frozen c
  · rw [hwaiters']; exact h.still c (hfrozen' c ▸ hc)
  · rw [hfrozen'] at hc
    rw [hlisted, hblock]
    split
    · next e =>
      subst e
      rcases hx with ⟨hf, -⟩ | ⟨-, hx⟩
      · rw [hc] at hf; cases hf
      · have hother (hne : w ≠ v) : c ∉ d.listed s w := fun hm => hne (h.sole w v c hm (hlistedV ▸ hbmem))
        rw [hx]
        split
        · simp
        · next hne => simp [hother hne]
    · next hne =>
      rw [h.held c w hc]
      split
      · next e => rw [e, hlistedV, List.mem_filter]; simp [hne]
      · rfl
  · rw [hread]; split
    · rw [hholds]
      exact (isChain_iff_zip (succs := fun c => (s.static c).succs) _).mp
        (isChain_filter_ne_end hnodup hb ((isChain_iff_zip (succs := fun c => (s.static c).succs) _).mpr (h.linked v)))
    · exact h.linked w
  · rw [hread]; split
    · next e => subst e; rw [hlost] at hK; cases hK
    · exact h.lost w K hK
  · rw [hwaiters']
    rw [hread] at hw
    split at hw
    · next e => subst e; exact h.waits w c (hwait ▸ hw)
    · exact h.waits w c hw
  · rw [hwaiters'] at hw
    rw [hread]; split
    · next e => rw [hwait, ← e]; exact h.entry c w hw
    · exact h.entry c w hw
  · rw [hread] at hw ⊢
    split at hw
    · next e =>
      subst e
      rw [if_pos rfl]
      obtain ⟨hlen, hused, hfront⟩ := h.reach w c (hwait ▸ hw)
      refine ⟨hholds ▸ (List.length_filter_le _ _).trans hlen, hused, ?_⟩
      rw [hreach.resolve_left (by rw [hw]; exact Option.some_ne_none c)]
      exact hfront
    · next hne => rw [if_neg hne]; exact h.reach w c hw
  · rw [hwaiters']; exact h.room c
  · rw [hwaiters']; exact h.once c
  · rw [hwaiters'] at hw
    rw [hblock]; split
    · next e =>
      subst e
      rcases hx with ⟨-, hx⟩ | ⟨-, hx⟩ <;> rw [hx]
      · exact h.other c w hw
      · exact Holder.noConfusion
    · exact h.other c w hw
  · rw [hfrozen']; exact h.iced c hc

/-- R22, R27: a vehicle's entry joins the waiter list of a block that another vehicle holds. -/
theorem addEntry (h : Rail d s) {x : BlockRec} {r : VehicleRec} {e : Waiter} (hlost : d.lost v = none)
    (hblock : (s.block b).frozen = false) (hholder : x.holder = (s.block b).holder) (hfrozen : x.frozen = (s.block b).frozen)
    (hwaiters : x.waiters = (s.block b).waiters ++ [e]) (he : e.vehicle = v) (hholds : r.holds = (s.vehicle v).holds)
    (hwait : r.waitingOn = some b) (hwas : (s.vehicle v).waitingOn = none) (hflips : (s.vehicle v).flips = [] → r.flips = [])
    (hlen : (s.vehicle v).holds.length ≤ 5) (hused : s.used b = true) (hroom : (s.block b).waiters.length < d.room b)
    (hfront : ∃ c, (s.vehicle v).holds.getLast? = some c ∧ b ∈ (s.static c).succs)
    (hentry : ∀ w ∈ (s.block b).waiters, w.vehicle ≠ v) (hother : (s.block b).holder ≠ .vehicle v) :
    Rail d ((s.setBlock b x).setVehicle v r) := by
  have hread (w) : ((s.setBlock b x).setVehicle v r).vehicle w = if w = v then r else s.vehicle w := setVehicle_read _ v w r
  have hblocks (c) : ((s.setBlock b x).setVehicle v r).block c = if c = b then x else s.block c := setBlock_read _ b c x
  have hreadHolds (w) : (((s.setBlock b x).setVehicle v r).vehicle w).holds = (s.vehicle w).holds := by
    rw [hread]; split
    · next e => rw [hholds, e]
    · rfl
  have hlisted (w) : d.listed ((s.setBlock b x).setVehicle v r) w = d.listed s w := by
    simp only [RailDebt.listed, hreadHolds]
  have hholder' (c) : (((s.setBlock b x).setVehicle v r).block c).holder = (s.block c).holder := by
    rw [hblocks]; split
    · next e => rw [hholder, e]
    · rfl
  have hfrozen' (c) : (((s.setBlock b x).setVehicle v r).block c).frozen = (s.block c).frozen := by
    rw [hblocks]; split
    · next e => rw [hfrozen, e]
    · rfl
  have hmem {c w} : w ∈ (((s.setBlock b x).setVehicle v r).block c).waiters ↔ w ∈ (s.block c).waiters ∨ (c = b ∧ w = e) := by
    rw [hblocks]; split
    · next e => subst e; simp [hwaiters]
    · next hne => simp [hne]
  refine ⟨fun c => by rw [hfrozen', hholder']; exact h.frozen c, fun c hc => ?_,
    fun c w hc => by rw [hholder', hlisted]; exact h.held c w (hfrozen' c ▸ hc),
    fun w y c hw hy => h.sole w y c (hlisted w ▸ hw) (hlisted y ▸ hy), fun w => by rw [hlisted]; exact h.short w,
    fun w => by rw [hlisted]; exact h.nodup w, fun w c hw => h.used w c (hlisted w ▸ hw),
    fun w => by rw [hreadHolds]; exact h.linked w, fun w K hK => ?_, fun w c hw => ?_, fun c w hw => ?_, fun w c hw => ?_,
    fun c => ?_, fun c => ?_, fun c w hw => ?_, fun c hc => by rw [hfrozen']; exact h.iced c hc⟩
  · rw [hfrozen'] at hc
    rw [hblocks]; split
    · next e => rw [e, hblock] at hc; cases hc
    · exact h.still c hc
  · rw [hread]; split
    · next e => subst e; rw [hlost] at hK; cases hK
    · exact h.lost w K hK
  · rw [hread] at hw
    split at hw
    · next ew =>
      obtain rfl : b = c := Option.some.inj (hwait.symm.trans hw)
      exact .inl ⟨e, hmem.mpr (.inr ⟨rfl, rfl⟩), he.trans ew.symm⟩
    · exact (h.waits w c hw).imp_left fun ⟨y, hy, ey⟩ => ⟨y, hmem.mpr (.inl hy), ey⟩
  · rcases hmem.mp hw with hw | ⟨rfl, rfl⟩
    · rw [hread]; split
      · next e =>
        refine .inr ((h.entry c w hw).resolve_left ?_)
        rw [e, hwas]; exact fun x => Option.some_ne_none c x.symm
      · exact h.entry c w hw
    · rw [hread, if_pos he]; exact .inl hwait
  · rw [hreadHolds]
    rw [hread] at hw
    split at hw
    · next ew =>
      obtain rfl : b = c := Option.some.inj (hwait.symm.trans hw)
      rw [ew]; exact ⟨hlen, hused, hfront⟩
    · exact h.reach w c hw
  · rw [hblocks]; split
    · next e => subst e; rw [hwaiters]; simpa using hroom
    · exact h.room c
  · rw [hblocks]; split
    · next ec =>
      subst ec
      rw [hwaiters, List.map_append]
      refine List.nodup_append.mpr ⟨h.once c, List.nodup_singleton _, fun a ha y hy => ?_⟩
      obtain ⟨w, hw, rfl⟩ := List.mem_map.mp ha
      rw [List.mem_singleton.mp hy]
      exact fun e' => hentry w hw (e'.trans he)
    · exact h.once c
  · rw [hholder']
    rcases hmem.mp hw with hw | ⟨rfl, rfl⟩
    · exact h.other c w hw
    · rw [he]; exact hother

/-- R143: the mark of a block is cleared; its holder is the vehicle that lists it. -/
theorem thaw (h : Rail d s) {x : BlockRec} (hfrozen : x.frozen = false) (hwaiters : x.waiters = [])
    (hknown : x.holder ≠ .unknown) (hheld : ∀ w, x.holder = .vehicle w ↔ b ∈ d.listed s w)
    (hlate : ∀ w, d.overdue w b → (s.vehicle w).waitingOn ≠ some b) (hwas : (s.block b).waiters = []) (hiced : ¬ d.iced b) :
    Rail d (s.setBlock b x) := by
  refine ⟨fun c => ?_, fun c => ?_, fun c w hc => ?_, h.sole, h.short, h.nodup, h.used, h.linked, h.lost, fun w c hw => ?_,
    fun c w => ?_, h.reach, fun c => ?_, fun c => ?_, fun c w => ?_, fun c hc => ?_⟩
  · rw [setBlock_read]; split
    · simp [hfrozen, hknown]
    · exact h.frozen c
  · rw [setBlock_read]; split
    · exact fun _ => hwaiters
    · exact h.still c
  · rw [setBlock_read] at hc ⊢
    split
    · next e => subst e; exact hheld w
    · next hne => rw [if_neg hne] at hc; exact h.held c w hc
  · rw [setBlock_read]; split
    · next e =>
      subst e
      refine ((h.waits w c hw).resolve_left ?_ |> fun hl => absurd hw (hlate w hl))
      rw [hwas]; exact fun ⟨y, hy, _⟩ => List.not_mem_nil hy
    · exact h.waits w c hw
  · rw [setBlock_read]; split
    · rw [hwaiters]; exact fun hw => absurd hw List.not_mem_nil
    · exact h.entry c w
  · rw [setBlock_read]; split
    · rw [hwaiters]; exact Nat.zero_le _
    · exact h.room c
  · rw [setBlock_read]; split
    · rw [hwaiters]; exact List.nodup_nil
    · exact h.once c
  · rw [setBlock_read]; split
    · rw [hwaiters]; exact fun hw => absurd hw List.not_mem_nil
    · exact h.other c w
  · rw [setBlock_read]; split
    · next e => exact absurd (e ▸ hc) hiced
    · exact h.iced c hc

/-- R154: the entries are renumbered. -/
theorem renumber {t : State} (h : Rail d s) (f : Waiter → Waiter) (hf : ∀ w, (f w).vehicle = w.vehicle)
    (hblock : ∀ c, t.block c = { s.block c with waiters := (s.block c).waiters.map f }) (hv : ∀ w, t.vehicle w = s.vehicle w)
    (hmap : t.map = s.map) : Rail d t := by
  have hstatic (c) : t.static c = s.static c := by simp only [State.static, hmap]
  have hused (c) : t.used c = s.used c := by simp only [State.used, hstatic]
  have hlisted (w) : d.listed t w = d.listed s w := by simp only [RailDebt.listed, hv]
  have hmem {c w} (hw : w ∈ (t.block c).waiters) : ∃ y ∈ (s.block c).waiters, w.vehicle = y.vehicle := by
    rw [hblock] at hw
    obtain ⟨y, hy, rfl⟩ := List.mem_map.mp hw
    exact ⟨y, hy, hf y⟩
  refine ⟨fun c => by rw [hblock]; exact h.frozen c, fun c hc => ?_, fun c w hc => ?_,
    fun w y c hw hy => h.sole w y c (hlisted w ▸ hw) (hlisted y ▸ hy), fun w => by rw [hlisted]; exact h.short w,
    fun w => by rw [hlisted]; exact h.nodup w, fun w c hw => (hused c).trans (h.used w c (hlisted w ▸ hw)), fun w x hx => ?_,
    fun w K hK => by rw [hv]; exact h.lost w K hK, fun w c hw => ?_, fun c w hw => ?_, fun w c hw => ?_, fun c => ?_, fun c => ?_,
    fun c w hw => ?_, fun c hc => by rw [hblock]; exact h.iced c hc⟩
  · rw [hblock] at hc ⊢
    dsimp only
    rw [h.still c hc, List.map_nil]
  · rw [hblock] at hc ⊢
    rw [hlisted]; exact h.held c w hc
  · rw [hv] at hx
    rw [hstatic]; exact h.linked w x hx
  · rw [hv] at hw
    refine (h.waits w c hw).imp_left fun ⟨y, hy, ey⟩ => ⟨f y, ?_, (hf y).trans ey⟩
    rw [hblock]; exact List.mem_map_of_mem hy
  · obtain ⟨y, hy, e⟩ := hmem hw
    rw [e, hv]; exact h.entry c y hy
  · rw [hv] at hw ⊢
    simp only [hused, hstatic]
    exact h.reach w c hw
  · rw [hblock]; dsimp only; rw [List.length_map]; exact h.room c
  · rw [hblock]; dsimp only; rw [List.map_map]
    have e : (Waiter.vehicle ∘ f) = Waiter.vehicle := funext hf
    rw [e]; exact h.once c
  · obtain ⟨y, hy, e⟩ := hmem hw
    rw [hblock, e]; exact h.other c y hy

end Rail

end Sys2Proof.Machine
end

section
/-! Vehicle records and orders that change (R57, R86, R90), the laws that the mode sets (R8, R13), and what one write of a
vehicle record does to all the laws. -/

namespace Sys2Proof.Machine

variable {s t : State} {v : VehicleId} {o : Slot}

/-! ## Vehicles and their orders -/

namespace Crew

variable {d d' : CrewDebt}

/-- Records that change in nothing but what `good` says of them. -/
theorem touch (h : Crew d s) (hgood : ∀ v, d.good v (t.vehicle v)) (hflips : ∀ v, d.pin v ≠ none → (t.vehicle v).flips = [] ∨ d.inert v)
    (horder : ∀ v, (t.vehicle v).order = (s.vehicle v).order) (hstate : ∀ v, (t.vehicle v).state = (s.vehicle v).state)
    (ho : ∀ o, (t.order o).map (fun r => (r.state, r.vehicle)) = (s.order o).map fun r => (r.state, r.vehicle)) : Crew d t := by
  have hback (o r) (hr : t.order o = some r) : ∃ x, s.order o = some x ∧ x.state = r.state ∧ x.vehicle = r.vehicle := by
    have e := ho o
    rw [hr] at e
    obtain ⟨x, hx, e⟩ := Option.map_eq_some_iff.mp e.symm
    exact ⟨x, hx, (Prod.mk.inj e).1, (Prod.mk.inj e).2⟩
  have hnames (o v) : t.Names o v ↔ s.Names o v := by
    refine ⟨fun ⟨r, hr, hv⟩ => ?_, fun ⟨r, hr, hv⟩ => ?_⟩
    · obtain ⟨x, hx, -, e⟩ := hback o r hr
      exact ⟨x, hx, e.trans hv⟩
    · have e := ho o
      rw [hr] at e
      obtain ⟨x, hx, e⟩ := Option.map_eq_some_iff.mp e
      exact ⟨x, hx, (Prod.mk.inj e).2.trans hv⟩
  refine ⟨hgood, h.steady, hflips, fun v o ho => ?_, fun v o hn => ?_, fun v o o' hn hn' => ?_, fun v o hu => ?_,
    fun v o r ha horph hr hv => ?_⟩
  · rw [hnames]; exact h.points v o (horder v ▸ ho)
  · rw [horder]; exact h.named v o ((hnames o v).mp hn)
  · exact h.once v o o' ((hnames o v).mp hn) ((hnames o' v).mp hn')
  · rw [hnames]; exact h.unnamed v o hu
  · obtain ⟨x, hx, es, ev⟩ := hback o r hr
    rw [hstate, ← es]
    exact h.fits v o x ha horph hx (ev.trans hv)

/-- A change of one vehicle record; what is owed of the others is owed still. -/
theorem setVehicle (h : Crew d s) {r : VehicleRec} (hpin : ∀ w, w ≠ v → d'.pin w = d.pin w)
    (hapart : ∀ w, w ≠ v → d.apart w → d'.apart w) (hgone : ∀ w o, w ≠ v → d.gone w o → d'.gone w o)
    (horphan : ∀ w o, w ≠ v → d.orphan w o → d'.orphan w o) (hunnamed : ∀ w o, d'.unnamed w o → d.unnamed w o)
    (hgood : d'.good v r) (hsteady : Steady (d'.good v)) (hclean : d'.pin v ≠ none → r.flips = [] ∨ d'.inert v)
    (hinert : ∀ w, w ≠ v → d.inert w → d'.inert w)
    (hpoints : ∀ o, r.order = some o → s.Names o v ∨ d'.gone v o)
    (hnamed : ∀ o, s.Names o v → r.order = some o ∨ d'.orphan v o)
    (hfits : ∀ o x, ¬ d'.apart v → ¬ d'.orphan v o → s.order o = some x → x.vehicle = some v → Fits x.state r.state) :
    Crew d' (s.setVehicle v r) := by
  have hgoodOf (w) (hw : w ≠ v) : d'.good w = d.good w := by simp only [CrewDebt.good, hpin w hw]
  refine ⟨fun w => ?_, fun w => ?_, fun w => ?_, fun w o hw => ?_, fun w o hn => ?_, h.once,
    fun w o hu => h.unnamed w o (hunnamed w o hu), fun w o x ha horph hx hxv => ?_⟩
  · rw [setVehicle_read]; split
    · next e => exact e ▸ hgood
    · next hne => rw [hgoodOf w hne]; exact h.good w
  · rcases eq_or_ne w v with rfl | hne
    · exact hsteady
    · rw [hgoodOf w hne]; exact h.steady w
  · rw [setVehicle_read]; split
    · next e => exact e ▸ hclean
    · next hne => rw [hpin w hne]; exact fun hp => (h.pinned w hp).imp_right (hinert w hne)
  · rw [setVehicle_read] at hw
    split at hw
    · next e => exact e ▸ hpoints o hw
    · next hne => exact (h.points w o hw).imp_right (hgone w o hne)
  · rw [setVehicle_read]; split
    · next e => subst e; exact hnamed o hn
    · next hne => exact (h.named w o hn).imp_right (horphan w o hne)
  · rw [setVehicle_read]; split
    · next e => subst e; exact hfits o x ha horph hx hxv
    · next hne =>
      exact h.fits w o x (fun hd => ha (hapart w hne hd)) (fun hd => horph (horphan w o hne hd)) hx hxv

/-- A vehicle record that keeps its order and its state. -/
theorem revise (h : Crew d s) {r : VehicleRec} (hgood : d.good v r) (hflips : d.pin v ≠ none → r.flips = [] ∨ d.inert v)
    (horder : r.order = (s.vehicle v).order) (hstate : r.state = (s.vehicle v).state) : Crew d (s.setVehicle v r) :=
  h.setVehicle (fun _ _ => rfl) (fun _ _ => id) (fun _ _ _ => id) (fun _ _ _ => id) (fun _ _ => id) hgood (h.steady v) hflips (fun _ _ => id)
    (fun o ho => h.points v o (horder ▸ ho)) (fun o hn => horder ▸ h.named v o hn)
    fun o x ha horph hx hxv => hstate ▸ h.fits v o x ha horph hx hxv

/-- A change of one order; what is owed of the others is owed still. -/
theorem reorder (h : Crew d s) (hvehicle : ∀ w, t.vehicle w = s.vehicle w) (hother : ∀ x, x ≠ o → t.order x = s.order x)
    (hpin : d'.pin = d.pin) (hinert : ∀ w, d.inert w → d'.inert w) (hapart : ∀ w, d.apart w → d'.apart w) (hgone : ∀ w x, x ≠ o → d.gone w x → d'.gone w x)
    (horphan : ∀ w x, x ≠ o → d.orphan w x → d'.orphan w x) (hunnamed : ∀ w x, x ≠ o → d'.unnamed w x → d.unnamed w x)
    (hpoints : ∀ w, (s.vehicle w).order = some o → t.Names o w ∨ d'.gone w o)
    (hnamed : ∀ w, t.Names o w → (s.vehicle w).order = some o ∨ d'.orphan w o)
    (hun : ∀ w, d'.unnamed w o → ¬ t.Names o w) (honce : ∀ w x, t.Names o w → s.Names x w → x = o)
    (hfits : ∀ w r, ¬ d'.apart w → ¬ d'.orphan w o → t.order o = some r → r.vehicle = some w →
      Fits r.state (s.vehicle w).state) : Crew d' t := by
  have hnames (x w) (hx : x ≠ o) : t.Names x w ↔ s.Names x w := by simp only [State.Names, hother x hx]
  have hgood : d'.good = d.good := funext fun w => by simp only [CrewDebt.good, hpin]
  refine ⟨fun w => by rw [hgood, hvehicle]; exact h.good w, fun w => by rw [hgood]; exact h.steady w,
    fun w => by rw [hpin, hvehicle]; exact fun hp => (h.pinned w hp).imp_right (hinert w), fun w x hw => ?_, fun w x hn => ?_, fun w x y hx hy => ?_,
    fun w x hu => ?_, fun w x r ha horph hr hw => ?_⟩
  · rw [hvehicle] at hw
    rcases eq_or_ne x o with rfl | hne
    · exact hpoints w hw
    · rw [hnames x w hne]; exact (h.points w x hw).imp_right (hgone w x hne)
  · rw [hvehicle]
    rcases eq_or_ne x o with rfl | hne
    · exact hnamed w hn
    · exact (h.named w x ((hnames x w hne).mp hn)).imp_right (horphan w x hne)
  · rcases eq_or_ne x o with ex | hne
    · rcases eq_or_ne y o with ey | hne'
      · exact ex.trans ey.symm
      · exact ex.trans (honce w y (ex ▸ hx) ((hnames y w hne').mp hy)).symm
    · rcases eq_or_ne y o with ey | hne'
      · exact (honce w x (ey ▸ hy) ((hnames x w hne).mp hx)).trans ey.symm
      · exact h.once w x y ((hnames x w hne).mp hx) ((hnames y w hne').mp hy)
  · rcases eq_or_ne x o with rfl | hne
    · exact hun w hu
    · rw [hnames x w hne]; exact h.unnamed w x (hunnamed w x hne hu)
  · rw [hvehicle]
    rcases eq_or_ne x o with rfl | hne
    · exact hfits w r ha horph hr hw
    · exact h.fits w x r (fun hd => ha (hapart w hd)) (fun hd => horph (horphan w x hne hd)) ((hother x hne) ▸ hr) hw

/-- More owed, less watched. -/
theorem mono (h : Crew d s) (hgood : ∀ v r, d.good v r → d'.good v r) (hsteady : ∀ v, Steady (d'.good v))
    (hpin : ∀ v, d'.pin v ≠ none → (s.vehicle v).flips = [] ∨ d'.inert v) (hapart : ∀ v, d.apart v → d'.apart v)
    (hgone : ∀ v o, d.gone v o → d'.gone v o) (horphan : ∀ v o, d.orphan v o → d'.orphan v o)
    (hunnamed : ∀ v o, d'.unnamed v o → d.unnamed v o) : Crew d' s :=
  ⟨fun v => hgood v _ (h.good v), hsteady, hpin, fun v o ho => (h.points v o ho).imp_right (hgone v o),
    fun v o hn => (h.named v o hn).imp_right (horphan v o), h.once, fun v o hu => h.unnamed v o (hunnamed v o hu),
    fun v o r ha horph => h.fits v o r (fun hd => ha (hapart v hd)) fun hd => horph (horphan v o hd)⟩

end Crew

/-! ## The mode -/

namespace Site

variable {m : Prop}

theorem setVehicle (h : Site m s) {r : VehicleRec} (hr : s.mode = .setup → r.state = .offline) : Site m (s.setVehicle v r) := by
  refine ⟨fun hm => ⟨fun w => ?_, (h.setup hm).2⟩, h.owned, h.opened⟩
  rw [setVehicle_read]; split
  · exact hr hm
  · exact (h.setup hm).1 w

theorem reorder (h : Site m s) (hv : ∀ w, (t.vehicle w).state = (s.vehicle w).state)
    (ho : t.mode = .setup → ∀ x, t.order x = none) (hmode : t.mode = s.mode) (hcommitted : t.committed = s.committed)
    (hmap : t.map = s.map) (hbays : t.bays = s.bays) : Site m t := by
  obtain ⟨h1, h2, h3⟩ := h
  refine ⟨fun hm => ⟨fun w => by rw [hv]; exact (h1 (hmode ▸ hm)).1 w, ho hm⟩, ?_, by rw [hmode]; exact h3⟩
  simp only [State.used, State.bayOwner, State.static, State.bay, hmode, hcommitted, hmap, hbays] at *
  exact h2

end Site

/-! ## Few flips -/

theorem fewFlips_setBlock (h : s.fewFlips) (b : BlockId) {r : BlockRec} (hr : r.flips.length ≤ 2) :
    (s.setBlock b r).fewFlips := by
  refine ⟨fun c => ?_, h.2⟩
  rw [setBlock_read]; split
  · exact hr
  · exact h.1 c

theorem fewFlips_setVehicle (h : s.fewFlips) (v : VehicleId) {r : VehicleRec} (hr : r.flips.length ≤ 2) :
    (s.setVehicle v r).fewFlips := by
  refine ⟨h.1, fun w => ?_, h.2.2⟩
  rw [setVehicle_read]; split
  · exact hr
  · exact h.2.1 w

theorem fewFlips_setOrder (h : s.fewFlips) (o : Slot) {x : Option OrderRec} (hx : ∀ r, x = some r → r.flips.length ≤ 2) :
    (s.setOrder o x).fewFlips := by
  refine ⟨h.1, h.2.1, fun p r hr => ?_⟩
  rw [setOrder_read] at hr
  split at hr
  · exact hx r hr
  · exact h.2.2 p r hr

theorem fewFlips_congr (h : s.fewFlips) (hb : t.blocks = s.blocks) (hv : t.vehicles = s.vehicles) (ho : t.orders = s.orders) :
    t.fewFlips := by
  simp only [State.fewFlips, State.block, State.vehicle, State.order, hb, hv, ho] at h ⊢
  exact h

/-! ## All the laws at once -/

namespace LawfulBut

variable {d : Debt}

/-- A vehicle record with the same holding list, wait and check word. -/
theorem setVehicle (h : LawfulBut d s) {r : VehicleRec} {c : CrewDebt} (hcrew : Crew c (s.setVehicle v r))
    (hholds : r.holds = (s.vehicle v).holds) (hwait : r.waitingOn = (s.vehicle v).waitingOn)
    (hflips : r.flips = (s.vehicle v).flips) (hsetup : s.mode = .setup → r.state = .offline) :
    LawfulBut { d with crew := c } (s.setVehicle v r) where
  rail := h.rail.setVehicle hholds hwait fun e => hflips.trans e
  crew := hcrew
  book := h.book.congr (fun _ => rfl) rfl fun _ => rfl
  site := h.site.setVehicle hsetup
  few := fewFlips_setVehicle h.few v (hflips ▸ h.few.2.1 v)

/-- A vehicle record that keeps what the laws read of it. -/
theorem reviseVehicle (h : LawfulBut d s) {r : VehicleRec} (hgood : d.crew.good v r)
    (hholds : r.holds = (s.vehicle v).holds) (hwait : r.waitingOn = (s.vehicle v).waitingOn)
    (hflips : r.flips = (s.vehicle v).flips) (horder : r.order = (s.vehicle v).order)
    (hstate : r.state = (s.vehicle v).state) : LawfulBut d (s.setVehicle v r) :=
  h.setVehicle (h.crew.revise hgood (fun hp => (h.crew.pinned v hp).imp_left hflips.trans) horder hstate) hholds hwait hflips
    fun hm => hstate.trans ((h.site.setup hm).1 v)

/-- Blocks and holding lists changed, the rest of the tables as it was. -/
theorem ofRail (h : LawfulBut d s) {r : RailDebt} (hrail : Rail r t) (hcrew : Crew d.crew t)
    (hstate : ∀ v, (t.vehicle v).state = (s.vehicle v).state) (horders : t.orders = s.orders) (hqueues : t.queues = s.queues)
    (hports : t.ports = s.ports) (hmode : t.mode = s.mode) (hcommitted : t.committed = s.committed) (hmap : t.map = s.map)
    (hbays : t.bays = s.bays) (few : t.fewFlips) : LawfulBut { d with rail := r } t where
  rail := hrail
  crew := hcrew
  book := h.book.congr (fun o => by simp only [State.order, horders]) hqueues fun p => by simp only [State.port, hports]
  site := h.site.congr hstate (fun o => by simp only [State.order, horders]) hmode hcommitted hmap hbays
  few := few

/-- Orders, queues and ports changed, the rest of the tables as it was. -/
theorem ofBook (h : LawfulBut d s) {c : CrewDebt} {k : BookDebt} (hbook : Book k t) (hcrew : Crew c t)
    (hblocks : t.blocks = s.blocks) (hvehicles : t.vehicles = s.vehicles) (hsetup : t.mode = .setup → ∀ x, t.order x = none)
    (hmode : t.mode = s.mode) (hcommitted : t.committed = s.committed) (hmap : t.map = s.map) (hbays : t.bays = s.bays)
    (few : ∀ o r, t.order o = some r → r.flips.length ≤ 2) : LawfulBut { d with crew := c, book := k } t where
  rail := h.rail.congr' hblocks hvehicles hmap
  crew := hcrew
  book := hbook
  site := h.site.reorder (fun w => by simp only [State.vehicle, hvehicles]) hsetup hmode hcommitted hmap hbays
  few := ⟨fun b => by simp only [State.block, hblocks]; exact h.few.1 b,
    fun v => by simp only [State.vehicle, hvehicles]; exact h.few.2.1 v, few⟩

end LawfulBut

end Sys2Proof.Machine
end

section
/-! The order book with one order on its way in or out (R86, R89, R98, R100, R103). -/

namespace Sys2Proof.Machine

variable {s t : State} {d : BookDebt} {o : Slot} {r : OrderRec}

/-- R103: the order holds the port for a purpose. -/
def OrderRec.Reserves (r : OrderRec) (p : PortId) (k : ResKind) : Prop :=
  (k = .pick ∧ (r.state = .offered ∨ r.state = .toSource) ∧ r.source = some p) ∨
    (k = .drop ∧ r.state ≠ .queued ∧ r.destInUse = p)

theorem not_reserves_of_queued (h : r.state = .queued) (p k) : ¬ r.Reserves p k := by
  rintro (⟨-, hs, -⟩ | ⟨-, hs, -⟩)
  · rw [h] at hs; exact hs.elim OState.noConfusion OState.noConfusion
  · exact hs h

/-- The laws of the book but for one slot, which is in no queue and holds no port. -/
structure BookBut (d : BookDebt) (o : Slot) (s : State) : Prop where
  sound : ∀ x r, x ≠ o → s.order x = some r → r.Sound
  queue : ∀ c, (∀ x, x ∈ s.queues.get c ↔ x ≠ o ∧ ∃ r, s.order x = some r ∧ r.state = .queued ∧ r.cls = c) ∧
    (s.queues.get c).Nodup ∧ (s.queues.get c).Pairwise fun x y => s.submitSeqOf x ≤ s.submitSeqOf y
  reserved : ∀ p x k, (s.port p).reservation = some ⟨x, k⟩ ↔ x ≠ o ∧ ∃ r, s.order x = some r ∧ r.Reserves p k
  vacant : ∀ x, x ≠ o → d.vacant x → s.order x = none
  kept : ∀ x r, x ≠ o → d.kept x r → s.order x = some r ∧ r.flips = [] ∧ r.state = .queued
  queued : ∀ x r, x ≠ o → d.queued x → s.order x = some r → r.state = .queued
  free : ∀ p, d.free p → (s.port p).reservation = none

/-! ## Queues and ports, read after a write -/

@[simp] theorem Queues.get_remove (q : Queues) (o : Slot) (c : Cls) : (q.remove o).get c = (q.get c).filter (· ≠ o) := by
  cases c <;> rfl

theorem Queues.get_set (q : Queues) (c c' : Cls) (os : List Slot) : (q.set c os).get c' = if c' = c then os else q.get c' := by
  cases c <;> cases c' <;> rfl

theorem releasePort_reservation (s : State) (o : Slot) (p q : PortId) :
    ((s.releasePort o p).port q).reservation =
      if q = p ∧ (s.port p).names o = true then none else (s.port q).reservation := by
  rcases eq_or_ne q p with rfl | hne
  · rw [releasePort_match]
    cases hr : (s.port q).reservation with
    | none => simp [PortRec.names, hr]
    | some x =>
      dsimp only
      by_cases hx : x.slot = o
      · rw [if_pos hx, if_pos ⟨rfl, (names_iff _ _).mpr ⟨x, hr, hx⟩⟩]
        exact congrArg PortRec.reservation (setPort_same s q _)
      · rw [if_neg hx, if_neg fun e => ?_, hr]
        obtain ⟨y, hy, ey⟩ := (names_iff _ _).mp e.2
        rw [hr] at hy
        exact hx (Option.some.inj hy ▸ ey)
  · rw [releasePort_other hne, if_neg fun h => hne h.1]

theorem names_eq_false_iff (x : PortRec) (o : Slot) : x.names o = false ↔ ∀ k, x.reservation ≠ some ⟨o, k⟩ := by
  rw [← Bool.not_eq_true, names_iff]
  refine ⟨fun h k e => h ⟨_, e, rfl⟩, fun h ⟨y, e, ey⟩ => h y.kind ?_⟩
  rw [e, ← ey]

theorem reserve_reservation (s : State) (o : Slot) (k : ResKind) (p q : PortId) :
    ((s.reserve p o k).port q).reservation = if q = p then some ⟨o, k⟩ else (s.port q).reservation := by
  rw [State.reserve, setPort_read]; split <;> rfl

/-- The reservations of the other orders are as they were when the only ones that ended are those of the slot. -/
theorem released_iff {o x : Slot} {k : ResKind} {was now : Option Reservation} (hx : x ≠ o)
    (h : now = was ∨ (now = none ∧ ∃ j, was = some ⟨o, j⟩)) : now = some ⟨x, k⟩ ↔ was = some ⟨x, k⟩ := by
  rcases h with rfl | ⟨rfl, j, rfl⟩
  · rfl
  · refine ⟨fun h => (Option.some_ne_none _ h.symm).elim, fun h => ?_⟩
    exact absurd (congrArg Reservation.slot (Option.some.inj h)).symm hx

/-! ## An order taken out -/

/-- Taken out of a book: in no queue, no port held, the rest as it was. -/
theorem Book.out (h : Book d s) (horder : ∀ x, x ≠ o → t.order x = s.order x)
    (hqueue : ∀ c, t.queues.get c = (s.queues.get c).filter (· ≠ o))
    (hother : ∀ p, (t.port p).reservation = (s.port p).reservation ∨
      ((t.port p).reservation = none ∧ ∃ j, (s.port p).reservation = some ⟨o, j⟩))
    (hout : ∀ p k, (t.port p).reservation ≠ some ⟨o, k⟩) : BookBut d o t := by
  have hseq (x) (hx : x ≠ o) : t.submitSeqOf x = s.submitSeqOf x := by simp only [State.submitSeqOf, horder x hx]
  refine ⟨fun x r hx hr => h.sound x r (horder x hx ▸ hr), fun c => ?_, fun p x k => ?_,
    fun x hx hv => (horder x hx).trans (h.vacant x hv), fun x r hx hk => by rw [horder x hx]; exact h.kept x r hk,
    fun x r hx hq hr => h.queued x r hq (horder x hx ▸ hr), fun p hp => ?_⟩
  · obtain ⟨hmem, hnodup, hsorted⟩ := h.queue c
    rw [hqueue]
    refine ⟨fun x => ?_, hnodup.filter _, ?_⟩
    · rw [List.mem_filter, hmem, and_comm, decide_eq_true_iff]
      exact and_congr_right fun hx => by rw [horder x hx]
    · refine (hsorted.filter (· ≠ o)).imp_of_mem fun {x y} hx hy hle => ?_
      rw [hseq x (by simpa using (List.mem_filter.mp hx).2), hseq y (by simpa using (List.mem_filter.mp hy).2)]
      exact hle
  · rcases eq_or_ne x o with rfl | hx
    · exact ⟨fun e => absurd e (hout p k), fun e => absurd rfl e.1⟩
    · rw [released_iff hx (hother p), h.reserved p x k, horder x hx]
      exact ⟨fun e => ⟨hx, e⟩, And.right⟩
  · rcases hother p with e | ⟨e, -⟩
    · exact e.trans (h.free p hp)
    · exact e

/-- A QUEUED order, or a free slot, holds no port. -/
theorem Book.not_reserved (h : Book d s) (ho : ∀ r, s.order o = some r → r.state = .queued) (p : PortId) (k : ResKind) :
    (s.port p).reservation ≠ some ⟨o, k⟩ := fun e => by
  obtain ⟨r, hr, hres⟩ := (h.reserved p o k).mp e
  exact not_reserves_of_queued (ho r hr) p k hres

theorem Book.leaveQueue (h : Book d s) (ho : ∀ r, s.order o = some r → r.state = .queued) : BookBut d o (s.leaveQueue o) :=
  h.out (fun _ _ => rfl) (fun _ => Queues.get_remove ..) (fun _ => .inl rfl) (h.not_reserved ho)

/-- An order that is not QUEUED, or a free slot, is in no queue. -/
theorem Book.filter_queue (h : Book d s) (ho : ∀ r, s.order o = some r → r.state ≠ .queued) (c : Cls) :
    s.queues.get c = (s.queues.get c).filter (· ≠ o) := by
  refine (List.filter_eq_self.mpr fun x hx => ?_).symm
  refine decide_eq_true fun e => ?_
  obtain ⟨r, hr, hq, -⟩ := ((h.queue c).1 x).mp hx
  exact ho r (e ▸ hr) hq

theorem Book.vacated (h : Book d s) (ho : s.order o = none) : BookBut d o s :=
  h.out (fun _ _ => rfl) (h.filter_queue fun r hr => by rw [ho] at hr; cases hr) (fun _ => .inl rfl)
    (h.not_reserved fun r hr => by rw [ho] at hr; cases hr)

theorem releasePort?_reservation (s : State) (o : Slot) (p : Option PortId) (q : PortId) :
    ((s.releasePort? o p).port q).reservation =
      if p = some q ∧ (s.port q).names o = true then none else (s.port q).reservation := by
  cases p with
  | none => simp [State.releasePort?]
  | some p =>
    rw [State.releasePort?, releasePort_reservation]
    by_cases e : q = p
    · subst e; simp
    · simp [e, Ne.symm e]

theorem names_congr_reservation {x y : PortRec} (h : x.reservation = y.reservation) (o : Slot) : x.names o = y.names o := by
  simp only [PortRec.names, h]

/-- R98: the ports of an order that is worked are released. -/
theorem Book.releasePorts (h : Book d s) (hr : s.order o = some r) (hq : r.state ≠ .queued) :
    BookBut d o ((s.releasePort? o r.source).releasePort o r.destInUse) := by
  have hread (p) : (((s.releasePort? o r.source).releasePort o r.destInUse).port p).reservation =
      if (r.source = some p ∨ r.destInUse = p) ∧ (s.port p).names o = true then none else (s.port p).reservation := by
    have hsource := releasePort?_reservation s o r.source
    rw [releasePort_reservation, hsource p]
    by_cases hn : (s.port p).names o = true
    · by_cases hs : r.source = some p
      · simp [hs, hn]
      · have e : ((s.releasePort? o r.source).port p).names o = (s.port p).names o :=
          names_congr_reservation (by rw [hsource, if_neg fun x => hs x.1]) o
        by_cases hd : r.destInUse = p
        · subst hd; simp [hs, e, hn]
        · simp [hs, hd, Ne.symm hd]
    · have e : ((s.releasePort? o r.source).port p).names o = (s.port p).names o :=
          names_congr_reservation (by rw [hsource, if_neg fun x => hn x.2]) o
      by_cases hd : r.destInUse = p
      · subst hd; simp [e, hn]
      · simp [hn, Ne.symm hd]
  have horder (x) : ((s.releasePort? o r.source).releasePort o r.destInUse).order x = s.order x := by
    simp only [State.order, releasePort_orders, releasePort?_orders]
  have hqueues : ((s.releasePort? o r.source).releasePort o r.destInUse).queues = s.queues := by
    have hp (u : State) (p) : (u.releasePort o p).queues = u.queues := by rw [releasePort_match]; split <;> [split <;> rfl; rfl]
    rw [hp]
    cases r.source with
    | none => rfl
    | some p => exact hp s p
  refine h.out (fun x _ => horder x) (fun c => ?_) (fun p => ?_) (fun p k => ?_)
  · rw [hqueues]; exact h.filter_queue (fun x hx => by rw [hr] at hx; exact Option.some.inj hx ▸ hq) c
  · rw [hread]; split
    · next e =>
      obtain ⟨x, hx, ex⟩ := (names_iff _ _).mp e.2
      exact .inr ⟨rfl, x.kind, by rw [hx, ← ex]⟩
    · exact .inl rfl
  · rw [hread]; split
    · exact fun e => (Option.some_ne_none _ e.symm).elim
    · next hno =>
      intro e
      obtain ⟨x, hx, hres⟩ := (h.reserved p o k).mp e
      rw [hr] at hx
      obtain rfl := Option.some.inj hx
      refine hno ⟨?_, (names_iff _ _).mpr ⟨_, e, rfl⟩⟩
      exact hres.imp (fun e => e.2.2) fun e => e.2.2

theorem BookBut.setOrder (h : BookBut d o s) (x : Option OrderRec) : BookBut d o (s.setOrder o x) := by
  have horder (y) (hy : y ≠ o) : (s.setOrder o x).order y = s.order y := setOrder_other s x hy
  have hseq (y) (hy : y ≠ o) : (s.setOrder o x).submitSeqOf y = s.submitSeqOf y := by simp only [State.submitSeqOf, horder y hy]
  refine ⟨fun y r hy hr => h.sound y r hy (horder y hy ▸ hr), fun c => ?_, fun p y k => ?_,
    fun y hy hv => (horder y hy).trans (h.vacant y hy hv), fun y r hy hk => by rw [horder y hy]; exact h.kept y r hy hk,
    fun y r hy hq hr => h.queued y r hy hq (horder y hy ▸ hr), h.free⟩
  · obtain ⟨hmem, hnodup, hsorted⟩ := h.queue c
    refine ⟨fun y => (hmem y).trans (and_congr_right fun hy => by rw [horder y hy]), hnodup, ?_⟩
    refine hsorted.imp_of_mem fun {y z} hy hz hle => ?_
    rw [hseq y ((hmem y).mp hy).1, hseq z ((hmem z).mp hz).1]
    exact hle
  · exact (h.reserved p y k).trans (and_congr_right fun hy => by rw [horder y hy])

/-! ## An order put in -/

/-- R100: the slot is free. -/
theorem BookBut.vacant_book (h : BookBut d o s) (ho : s.order o = none) (hkept : ∀ x, ¬ d.kept o x) : Book d s := by
  have hne {x : Slot} {r} (hr : s.order x = some r) : x ≠ o := fun e => by rw [e, ho] at hr; cases hr
  refine ⟨fun x r hr => h.sound x r (hne hr) hr, fun c => ?_, fun p x k => ?_, fun x hv => ?_, fun x r hk => ?_,
    fun x r hq hr => h.queued x r (hne hr) hq hr, h.free⟩
  · obtain ⟨hmem, hrest⟩ := h.queue c
    exact ⟨fun x => (hmem x).trans ⟨And.right, fun ⟨r, hr, e⟩ => ⟨hne hr, r, hr, e⟩⟩, hrest⟩
  · exact (h.reserved p x k).trans ⟨And.right, fun ⟨r, hr, e⟩ => ⟨hne hr, r, hr, e⟩⟩
  · rcases eq_or_ne x o with rfl | hx
    · exact ho
    · exact h.vacant x hx hv
  · rcases eq_or_ne x o with rfl | hx
    · exact absurd hk (hkept r)
    · exact h.kept x r hx hk

/-- R89: the order joins its class queue. -/
theorem BookBut.queued_book (h : BookBut d o s) (hsound : r.Sound) (hq : r.state = .queued) (hvacant : ¬ d.vacant o)
    (hkept : ∀ x, ¬ d.kept o x) : Book d (s.queued o r) := by
  have hb := h.setOrder (some r)
  have hsame : (s.setOrder o (some r)).order o = some r := setOrder_same ..
  have horder (x) : (s.queued o r).order x = (s.setOrder o (some r)).order x := rfl
  have hqueue (c) : (s.queued o r).queues.get c = if c = r.cls then
      insertBySeq (s.setOrder o (some r)).submitSeqOf o (s.queues.get r.cls) else s.queues.get c := Queues.get_set ..
  refine ⟨fun x y hy => ?_, fun c => ?_, fun p x k => ?_, fun x hv => ?_, fun x y hk => ?_, fun x y hx hy => ?_, hb.free⟩
  · rw [horder] at hy
    rcases eq_or_ne x o with rfl | hx
    · rw [hsame] at hy; exact Option.some.inj hy ▸ hsound
    · exact hb.sound x y hx hy
  · obtain ⟨hmem, hnodup, hsorted⟩ := hb.queue c
    have hmem : ∀ x, x ∈ s.queues.get c ↔ x ≠ o ∧ ∃ y, (s.setOrder o (some r)).order x = some y ∧ y.state = .queued ∧ y.cls = c :=
      hmem
    have hnodup : (s.queues.get c).Nodup := hnodup
    have ho : o ∉ s.queues.get c := fun hm => ((hmem o).mp hm).1 rfl
    rw [hqueue]
    split
    · next e =>
      subst e
      have hperm := insertBySeq_perm (s.setOrder o (some r)).submitSeqOf o (s.queues.get r.cls)
      refine ⟨fun x => ?_, hperm.nodup_iff.mpr (List.nodup_cons.mpr ⟨ho, hnodup⟩),
        insertBySeq_sorted (s.setOrder o (some r)).submitSeqOf o _ hsorted⟩
      rw [hperm.mem_iff, List.mem_cons, hmem x]
      rcases eq_or_ne x o with rfl | hx
      · exact ⟨fun _ => ⟨r, hsame, hq, rfl⟩, fun _ => .inl rfl⟩
      · simp only [hx, false_or, ne_eq, not_false_eq_true, true_and]; rfl
    · next hc =>
      refine ⟨fun x => ?_, hnodup, hsorted⟩
      rw [hmem x]
      refine ⟨And.right, fun ⟨y, hy, hyq, hyc⟩ => ⟨fun e => ?_, y, hy, hyq, hyc⟩⟩
      rw [horder, e, hsame] at hy
      exact hc (Option.some.inj hy ▸ hyc.symm)
  · refine (hb.reserved p x k).trans ⟨And.right, fun ⟨y, hy, hres⟩ => ⟨fun e => ?_, y, hy, hres⟩⟩
    rw [horder, e, hsame] at hy
    exact not_reserves_of_queued hq p k (Option.some.inj hy ▸ hres)
  · rcases eq_or_ne x o with rfl | hx
    · exact absurd hv hvacant
    · exact hb.vacant x hx hv
  · rcases eq_or_ne x o with rfl | hx
    · exact absurd hk (hkept y)
    · exact hb.kept x y hx hk
  · rcases eq_or_ne x o with rfl | hxo
    · rw [horder, hsame] at hy; exact Option.some.inj hy ▸ hq
    · exact hb.queued x y hxo hx hy

/-- R114: the order is worked, its ports its own. -/
theorem BookBut.working_book (h : BookBut d o s) (hr : t.order o = some r) (horder : ∀ x, x ≠ o → t.order x = s.order x)
    (hqueues : t.queues = s.queues) (hsound : r.Sound) (hq : r.state ≠ .queued) (hvacant : ¬ d.vacant o)
    (hkept : ∀ x, ¬ d.kept o x) (hqueued : ¬ d.queued o)
    (hmine : ∀ p k, (t.port p).reservation = some ⟨o, k⟩ ↔ r.Reserves p k)
    (hother : ∀ p x k, x ≠ o → ((t.port p).reservation = some ⟨x, k⟩ ↔ (s.port p).reservation = some ⟨x, k⟩))
    (hfree : ∀ p, d.free p → (t.port p).reservation = none) : Book d t := by
  have hseq (x) (hx : x ≠ o) : t.submitSeqOf x = s.submitSeqOf x := by simp only [State.submitSeqOf, horder x hx]
  refine ⟨fun x y hy => ?_, fun c => ?_, fun p x k => ?_, fun x hv => ?_, fun x y hk => ?_, fun x y hx hy => ?_, hfree⟩
  · rcases eq_or_ne x o with rfl | hx
    · rw [hr] at hy; exact Option.some.inj hy ▸ hsound
    · exact h.sound x y hx (horder x hx ▸ hy)
  · obtain ⟨hmem, hnodup, hsorted⟩ := h.queue c
    rw [hqueues]
    refine ⟨fun x => ?_, hnodup, hsorted.imp_of_mem fun {x y} hx hy hle => ?_⟩
    · rw [hmem]
      rcases eq_or_ne x o with rfl | hx
      · refine ⟨fun e => absurd rfl e.1, fun ⟨y, hy, hyq, _⟩ => ?_⟩
        rw [hr] at hy
        exact absurd (Option.some.inj hy ▸ hyq) hq
      · rw [horder x hx]; exact ⟨And.right, fun e => ⟨hx, e⟩⟩
    · rw [hseq x ((hmem x).mp hx).1, hseq y ((hmem y).mp hy).1]; exact hle
  · rcases eq_or_ne x o with rfl | hx
    · rw [hmine]
      refine ⟨fun e => ⟨r, hr, e⟩, fun ⟨y, hy, e⟩ => ?_⟩
      rw [hr] at hy
      exact Option.some.inj hy ▸ e
    · rw [hother p x k hx, h.reserved p x k, horder x hx]
      exact ⟨And.right, fun e => ⟨hx, e⟩⟩
  · rcases eq_or_ne x o with rfl | hx
    · exact absurd hv hvacant
    · exact (horder x hx).trans (h.vacant x hx hv)
  · rcases eq_or_ne x o with rfl | hx
    · exact absurd hk (hkept y)
    · rw [horder x hx]; exact h.kept x y hx hk
  · rcases eq_or_ne x o with rfl | hxo
    · exact absurd hx hqueued
    · exact h.queued x y hxo hx (horder x hxo ▸ hy)

/-- An order rewritten in place: the same queue, the same reservations. -/
theorem Book.rewrite (h : Book d s) {r' : OrderRec} (hr : s.order o = some r) (hsound : r'.Sound)
    (hstate : r'.state = .queued ↔ r.state = .queued) (hcls : r'.state = .queued → r'.cls = r.cls)
    (hseq : r'.submitSeq = r.submitSeq) (hres : ∀ p k, r'.Reserves p k ↔ r.Reserves p k)
    (hkept : ∀ x, ¬ d.kept o x) : Book d (s.setOrder o (some r')) := by
  have hread (x) : (s.setOrder o (some r')).order x = if x = o then some r' else s.order x := setOrder_read ..
  have hseqOf (x) : (s.setOrder o (some r')).submitSeqOf x = s.submitSeqOf x := by
    by_cases e : x = o
    · subst e; simp [State.submitSeqOf, hr, hseq]
    · simp [State.submitSeqOf, hread, e]
  have hex (P Q : OrderRec → Prop) (x : Slot) (hPQ : P r' ↔ Q r) (hxx : ∀ y, P y ↔ Q y) :
      (∃ y, (s.setOrder o (some r')).order x = some y ∧ P y) ↔ ∃ y, s.order x = some y ∧ Q y := by
    rw [hread]
    split
    · next e =>
      subst e
      rw [hr]
      exact ⟨fun ⟨y, hy, e⟩ => ⟨r, rfl, hPQ.mp (Option.some.inj hy ▸ e)⟩, fun ⟨y, hy, e⟩ => ⟨r', rfl, hPQ.mpr (Option.some.inj hy ▸ e)⟩⟩
    · exact exists_congr fun y => and_congr_right fun _ => hxx y
  refine ⟨fun x y hy => ?_, fun c => ?_, fun p x k => ?_, fun x hv => ?_, fun x y hk => ?_, fun x y hx hy => ?_, h.free⟩
  · rw [hread] at hy
    split at hy
    · exact Option.some.inj hy ▸ hsound
    · exact h.sound x y hy
  · obtain ⟨hmem, hnodup, hsorted⟩ := h.queue c
    refine ⟨fun x => (hmem x).trans (hex _ _ x ?_ fun _ => Iff.rfl).symm, hnodup, ?_⟩
    · exact ⟨fun e => ⟨hstate.mp e.1, hcls e.1 ▸ e.2⟩, fun e => ⟨hstate.mpr e.1, (hcls (hstate.mpr e.1)).trans e.2⟩⟩
    · simp only [hseqOf]; exact hsorted
  · exact (h.reserved p x k).trans (hex _ (·.Reserves p k) x (hres p k) fun _ => Iff.rfl).symm
  · rw [hread]; split
    · next e => have := h.vacant x hv; rw [e, hr] at this; cases this
    · exact h.vacant x hv
  · rw [hread]; split
    · next e => exact absurd (e ▸ hk) (hkept y)
    · exact h.kept x y hk
  · rw [hread] at hy
    split at hy
    · next e => subst e; exact Option.some.inj hy ▸ hstate.mpr (h.queued x r hx hr)
    · exact h.queued x y hx hy

/-- Nothing kept or vacant is an order that is worked. -/
theorem Book.not_kept (h : Book d s) (hr : s.order o = some r) (hq : r.state ≠ .queued ∨ r.flips ≠ []) (x) : ¬ d.kept o x :=
  fun hk => by
    obtain ⟨hx, hflips, hstate⟩ := h.kept o x hk
    rw [hr] at hx
    obtain rfl := Option.some.inj hx
    exact hq.elim (fun e => e hstate) fun e => e hflips

theorem Book.not_vacant (h : Book d s) (hr : s.order o = some r) : ¬ d.vacant o := fun hv => by
  have := h.vacant o hv
  rw [hr] at this; cases this

theorem Book.mono {d' : BookDebt} (h : Book d s) (hvacant : ∀ x, d'.vacant x → d.vacant x)
    (hkept : ∀ x r, d'.kept x r → d.kept x r) (hqueued : ∀ x, d'.queued x → d.queued x) (hfree : ∀ p, d'.free p → d.free p) :
    Book d' s :=
  ⟨h.sound, h.queue, h.reserved, fun x hx => h.vacant x (hvacant x hx), fun x r hx => h.kept x r (hkept x r hx),
    fun x r hx => h.queued x r (hqueued x hx), fun p hp => h.free p (hfree p hp)⟩

end Sys2Proof.Machine
end

section
/-! What the order book's mechanisms do to the laws: freeing, requeue, promotion, suspension (R98 to R101). -/

namespace Sys2Proof.Machine

variable {s t : State} {o : Slot} {r : OrderRec} {v : VehicleId}

/-! ## What the book's operations leave -/

namespace BookOnly

theorem sameBlocks (e : BookOnly s t) : t.blocks = s.blocks := by rw [e]
theorem sameVehicles (e : BookOnly s t) : t.vehicles = s.vehicles := by rw [e]
theorem sameMode (e : BookOnly s t) : t.mode = s.mode := by rw [e]
theorem sameCommitted (e : BookOnly s t) : t.committed = s.committed := by rw [e]
theorem sameMap (e : BookOnly s t) : t.map = s.map := by rw [e]
theorem sameBays (e : BookOnly s t) : t.bays = s.bays := by rw [e]
theorem vehicle (e : BookOnly s t) (w) : t.vehicle w = s.vehicle w := by simp only [State.vehicle, e.sameVehicles]

theorem setTrigger (s : State) : BookOnly s s.setTrigger := rfl
theorem noteOrder (s : State) (o r k c) : BookOnly s (s.noteOrder o r k c) := rfl
theorem freeOrder (s : State) (o) : BookOnly s (s.freeOrder o) := rfl

theorem endOrder (s : State) (o k c) : BookOnly s (s.endOrder o k c) := by
  unfold State.endOrder; split
  · exact .refl s
  · exact (BookOnly.noteOrder ..).trans (.freeOrder ..)

end BookOnly

/-! ## The book -/

namespace Book

variable {d : BookDebt}

theorem setTrigger (h : Book d s) : Book d s.setTrigger := h.congr (fun _ => rfl) rfl fun _ => rfl

theorem noteOrder (h : Book d s) (o r k c) : Book d (s.noteOrder o r k c) :=
  h.congr (fun _ => by simp) (by simp) fun _ => by simp

theorem freeOrder (h : Book d s) (hkept : ∀ x, ¬ d.kept o x) : Book d (s.freeOrder o) := by
  have hread (p) : ((s.freeOrder o).port p).reservation =
      if (s.port p).names o = true then none else (s.port p).reservation := by
    rw [freeOrder_at_port]; split <;> rfl
  refine (h.out (o := o) (t := s.freeOrder o) (fun x hx => setOrder_other _ _ hx) (fun _ => Queues.get_remove ..) (fun p => ?_)
    fun p k => ?_).vacant_book (setOrder_same ..) hkept
  · rw [hread]; split
    · next e =>
      obtain ⟨x, hx, ex⟩ := (names_iff _ _).mp e
      exact .inr ⟨rfl, x.kind, by rw [hx, ← ex]⟩
    · exact .inl rfl
  · rw [hread]; split
    · exact fun e => (Option.some_ne_none _ e.symm).elim
    · next hno => exact fun e => hno ((names_iff _ _).mpr ⟨_, e, rfl⟩)

theorem promotedTo (h : Book d s) (hr : s.order o = some r) (hq : r.state = .queued) (hkept : ∀ x, ¬ d.kept o x)
    (now : Millis) : Book d (s.promotedTo o (r.promoted now)) := by
  have hsound : (r.promoted now).Sound :=
    have hs := h.sound o r hr
    ⟨hs.idle, hs.dest, hs.alt, hs.source⟩
  have hout := h.leaveQueue (o := o) fun x hx => by rw [hr] at hx; exact Option.some.inj hx ▸ hq
  exact (hout.queued_book hsound hq (h.not_vacant hr) hkept).setTrigger.noteOrder ..

theorem promote (h : Book d s) (hr : s.order o = some r) (hq : r.state = .queued) (hkept : ∀ x, ¬ d.kept o x) :
    Book d (s.promote o) := by
  rw [promote_eq hr]
  exact h.promotedTo hr hq hkept _

theorem requeue (h : Book d s) (hr : s.order o = some r) (hq : r.state ≠ .queued) (v c) : Book d (s.requeue o v c) := by
  have hs := h.sound o r hr
  have hsound : (r.requeued v).Sound := ⟨iff_of_true rfl rfl, hs.dest, hs.alt, hs.source⟩
  have hkept := h.not_kept hr (.inl hq)
  have hto : Book d (s.requeuedTo o r (r.requeued v) c) :=
    ((h.releasePorts hr hq).queued_book hsound rfl (h.not_vacant hr) hkept).setTrigger.noteOrder ..
  rw [requeue_eq v c hr]
  split
  · exact hto.promotedTo (requeuedTo_order ..) rfl hkept _
  · exact hto

end Book

/-! ## The orders after it -/

theorem promotedTo_order (s : State) (o : Slot) (r : OrderRec) : (s.promotedTo o r).order o = some r := setOrder_same ..

theorem promotedTo_order_other (s : State) {o x : Slot} (r : OrderRec) (hx : x ≠ o) : (s.promotedTo o r).order x = s.order x :=
  setOrder_other _ _ hx

theorem requeuedTo_order_other (s : State) {o x : Slot} (r r' : OrderRec) (c) (hx : x ≠ o) :
    (s.requeuedTo o r r' c).order x = s.order x := by
  have e : (s.requeuedTo o r r' c).order x = ((s.releasePort? o r.source).releasePort o r.destInUse).order x :=
    setOrder_other _ _ hx
  rw [e]
  simp only [State.order, releasePort_orders, releasePort?_orders]

/-- R98: what a requeue leaves in its slot, whether or not a promotion follows. -/
theorem requeue_order (hr : s.order o = some r) (v c) :
    ∃ x, (s.requeue o v c).order o = some x ∧ x.vehicle = none ∧ x.state = .queued ∧ x.flips = r.flips := by
  rw [requeue_eq v c hr]
  split
  · exact ⟨_, promotedTo_order .., rfl, rfl, rfl⟩
  · exact ⟨_, requeuedTo_order .., rfl, rfl, rfl⟩

theorem requeue_order_other (s : State) {o x : Slot} (v c) (hx : x ≠ o) : (s.requeue o v c).order x = s.order x := by
  cases hr : s.order o with
  | none => rw [State.requeue, hr]
  | some r =>
    rw [requeue_eq v c hr]
    split
    · rw [promotedTo_order_other _ _ hx, requeuedTo_order_other _ _ _ _ hx]
    · exact requeuedTo_order_other _ _ _ _ hx

/-! ## All the laws -/

namespace LawfulBut

variable {d : Debt}

/-- In SETUP there is no order (R8). -/
theorem ne_setup_of_order (h : LawfulBut d s) (hr : s.order o = some r) : s.mode ≠ .setup := fun hm => by
  rw [(h.site.setup hm).2 o] at hr; cases hr

/-- In SETUP every vehicle is OFFLINE (R8). -/
theorem ne_setup_of_state (h : LawfulBut d s) (hv : (s.vehicle v).state ≠ .offline) : s.mode ≠ .setup :=
  fun hm => hv ((h.site.setup hm).1 v)

theorem ofBookOnly (h : LawfulBut d s) (e : BookOnly s t) {c : CrewDebt} {k : BookDebt} (hbook : Book k t) (hcrew : Crew c t)
    (hother : ∀ x, x ≠ o → t.order x = s.order x) (hsetup : s.mode = .setup → t.order o = none)
    (few : ∀ r, t.order o = some r → r.flips.length ≤ 2) : LawfulBut { d with crew := c, book := k } t := by
  refine h.ofBook hbook hcrew e.sameBlocks e.sameVehicles (fun hm x => ?_) e.sameMode e.sameCommitted e.sameMap e.sameBays
    fun x r hr => ?_
  · rcases eq_or_ne x o with rfl | hx
    · exact hsetup (e.sameMode ▸ hm)
    · exact (hother x hx).trans ((h.site.setup (e.sameMode ▸ hm)).2 x)
  · rcases eq_or_ne x o with rfl | hx
    · exact few r hr
    · exact h.few.2.2 x r (hother x hx ▸ hr)

/-- The order in a slot names no vehicle any more; a vehicle that named it is to be told. -/
theorem unname (h : LawfulBut d s) (e : BookOnly s t) {g u : VehicleId → Slot → Prop} (hbook : Book d.book t)
    (hother : ∀ x, x ≠ o → t.order x = s.order x) (hnone : ∀ w, ¬ t.Names o w) (hsetup : s.mode = .setup → t.order o = none)
    (few : ∀ r, t.order o = some r → r.flips.length ≤ 2) (hg : ∀ w x, x ≠ o → d.crew.gone w x → g w x)
    (hgo : ∀ w, (s.vehicle w).order = some o → g w o) (hu : ∀ w x, x ≠ o → u w x → d.crew.unnamed w x) :
    LawfulBut { d with crew := { d.crew with gone := g, unnamed := u } } t :=
  h.ofBookOnly e hbook (h.crew.reorder e.vehicle hother rfl (fun _ => id) (fun _ => id) hg (fun _ _ _ => id) hu (fun w hw => .inr (hgo w hw))
    (fun w hn => absurd hn (hnone w)) (fun w _ => hnone w) (fun w _ hn => absurd hn (hnone w))
    fun w r _ _ hr hw => absurd ⟨r, hr, hw⟩ (hnone w)) hother hsetup few

theorem freeOrder (h : LawfulBut d s) (hkept : ∀ x, ¬ d.book.kept o x) {g u : VehicleId → Slot → Prop}
    (hg : ∀ w x, x ≠ o → d.crew.gone w x → g w x) (hgo : ∀ w, (s.vehicle w).order = some o → g w o)
    (hu : ∀ w x, x ≠ o → u w x → d.crew.unnamed w x) :
    LawfulBut { d with crew := { d.crew with gone := g, unnamed := u } } (s.freeOrder o) := by
  have hnone : (s.freeOrder o).order o = none := setOrder_same ..
  refine h.unname (.freeOrder s o) (h.book.freeOrder hkept) (fun x hx => setOrder_other _ _ hx) (fun w ⟨r, hr, _⟩ => ?_)
    (fun _ => hnone) (fun r hr => ?_) hg hgo hu <;> (rw [hnone] at hr; cases hr)

theorem endOrder (h : LawfulBut d s) (hr : s.order o = some r) (hq : r.state ≠ .queued) (k c) {g u : VehicleId → Slot → Prop}
    (hg : ∀ w x, x ≠ o → d.crew.gone w x → g w x) (hgo : ∀ w, (s.vehicle w).order = some o → g w o)
    (hu : ∀ w x, x ≠ o → u w x → d.crew.unnamed w x) :
    LawfulBut { d with crew := { d.crew with gone := g, unnamed := u } } (s.endOrder o k c) := by
  unfold State.endOrder
  rw [hr]
  refine (h.noteOrder o r k c).freeOrder (h.book.not_kept hr (.inl hq)) hg (fun w hw => hgo w ?_) hu
  rw [noteOrder_at_vehicle] at hw; exact hw

theorem requeue (h : LawfulBut d s) (hr : s.order o = some r) (hq : r.state ≠ .queued) (v c) {g u : VehicleId → Slot → Prop}
    (hg : ∀ w x, x ≠ o → d.crew.gone w x → g w x) (hgo : ∀ w, (s.vehicle w).order = some o → g w o)
    (hu : ∀ w x, x ≠ o → u w x → d.crew.unnamed w x) :
    LawfulBut { d with crew := { d.crew with gone := g, unnamed := u } } (s.requeue o v c) := by
  obtain ⟨x, hx, hxv, -, hxf⟩ := requeue_order hr v c
  refine h.unname (.requeue ..) (h.book.requeue hr hq v c) (fun y hy => requeue_order_other s v c hy) (fun w ⟨y, hy, hw⟩ => ?_)
    (fun hm => absurd hm (h.ne_setup_of_order hr)) (fun y hy => ?_) hg hgo hu
  · rw [hx] at hy
    rw [← Option.some.inj hy, hxv] at hw; cases hw
  · rw [hx] at hy
    rw [← Option.some.inj hy, hxf]; exact h.few.2.2 o r hr

/-- An order rewritten in place that keeps its state and its vehicle. -/
theorem rewrite (h : LawfulBut d s) {r' : OrderRec} (hr : s.order o = some r) (hsound : r'.Sound) (hstate : r'.state = r.state)
    (hvehicle : r'.vehicle = r.vehicle) (hcls : r'.state = .queued → r'.cls = r.cls) (hseq : r'.submitSeq = r.submitSeq)
    (hres : ∀ p k, r'.Reserves p k ↔ r.Reserves p k) (hflips : r'.flips.length ≤ 2) (hkept : ∀ x, ¬ d.book.kept o x) :
    LawfulBut d (s.setOrder o (some r')) := by
  have hcrew : Crew d.crew (s.setOrder o (some r')) := by
    refine h.crew.touch h.crew.good h.crew.pinned (fun _ => rfl) (fun _ => rfl) fun x => ?_
    rw [setOrder_read]; split
    · next e => subst e; rw [hr, Option.map_some, Option.map_some, hstate, hvehicle]
    · rfl
  refine h.ofBookOnly (.setOrder ..) (h.book.rewrite hr hsound (by rw [hstate]) hcls hseq hres hkept) hcrew
    (fun x hx => setOrder_other _ _ hx) (fun hm => absurd hm (h.ne_setup_of_order hr)) fun x hx => ?_
  rw [setOrder_same] at hx
  exact Option.some.inj hx ▸ hflips

theorem suspend (h : LawfulBut d s) (hr : s.order o = some r) (hq : r.state ≠ .queued) : LawfulBut d (s.suspend o) := by
  have hs := h.book.sound o r hr
  unfold State.suspend
  rw [hr]
  exact (h.rewrite hr (r' := { r with suspended := true }) ⟨hs.idle, hs.dest, hs.alt, hs.source⟩ rfl rfl (fun _ => rfl) rfl
    (fun _ _ => Iff.rfl) (h.few.2.2 o r hr) (h.book.not_kept hr (.inl hq))).noteOrder ..

theorem unsuspend (h : LawfulBut d s) (hq : ∀ r, s.order o = some r → r.state ≠ .queued) : LawfulBut d (s.unsuspend o) := by
  unfold State.unsuspend
  cases hr : s.order o with
  | none => exact h
  | some r =>
    have hs := h.book.sound o r hr
    exact (h.rewrite hr (r' := { r with suspended := false }) ⟨hs.idle, hs.dest, hs.alt, hs.source⟩ rfl rfl (fun _ => rfl) rfl
      (fun _ _ => Iff.rfl) (h.few.2.2 o r hr) (h.book.not_kept hr (.inl (hq r hr)))).noteOrder ..

/-- More owed, less watched. -/
theorem mono {d' : Debt} (h : LawfulBut d s) (hrail : Rail d'.rail s) (hcrew : Crew d'.crew s) (hbook : Book d'.book s)
    (hopen : d'.mapOpen = d.mapOpen) : LawfulBut d' s :=
  ⟨hrail, hcrew, hbook, hopen ▸ h.site, h.few⟩

end LawfulBut

end Sys2Proof.Machine
end

section
/-! Readers that keep the laws whatever an event owes, and the repair of a block (R37, R132, R137). -/

namespace Sys2Proof.Machine

variable {s : State} {d : Debt} {v : VehicleId} {b : BlockId} {rd : Reader} {inert : Prop}

/-! ## Readers -/

/-- What the reads within a repair or an event do to the laws. An inert reader, the one at nesting depth 0, reads nothing; any
other leaves a vehicle record it has read with a check word that agrees. -/
structure Reader.KeepsLaws (rd : Reader) (inert : Prop) : Prop where
  laws : ∀ (d : Debt) (r : RecRef) (s : State), (∀ v, d.crew.inert v → inert) → LawfulBut d s → LawfulBut d (rd r s).1
  clean : ∀ (d : Debt) (v : VehicleId) (s : State), ¬ inert → (∀ v, ¬ d.crew.inert v) → LawfulBut d s →
    ((rd (.vehicle v) s).1.vehicle v).flips = []

theorem Reader.KeepsLaws.readAll (k : rd.KeepsLaws inert) (hd : ∀ v, d.crew.inert v → inert) :
    ∀ (rs : List RecRef) {s : State}, LawfulBut d s → LawfulBut d (readAll rd rs s).1
  | [], _, h => h
  | r :: rs, _, h => k.readAll hd rs (k.laws d r _ hd h)

theorem Reader.KeepsLaws.readUntilBad (k : rd.KeepsLaws inert) (hd : ∀ v, d.crew.inert v → inert) :
    ∀ (rs : List RecRef) {s : State}, LawfulBut d s → LawfulBut d (readUntilBad rd rs s).1
  | [], _, h => h
  | r :: rs, s, h => by
    have hread := k.laws d r s hd h
    rw [Machine.readUntilBad]
    dsimp only
    split
    · exact hread
    · exact k.readUntilBad hd rs hread

/-! ## The waits at a block that becomes FROZEN (R37) -/

namespace LawfulBut

theorem dropWaitAt (h : LawfulBut d s) (hiced : d.rail.iced b) {late : VehicleId → BlockId → Prop}
    (hlate : ∀ w c, d.rail.overdue w c → late w c ∨ (w = v ∧ c = b)) :
    LawfulBut { d with rail := { d.rail with overdue := late } } (s.dropWaitAt b v) := by
  unfold State.dropWaitAt
  dsimp only
  split
  · next hw =>
    have hcrew : Crew d.crew (s.setVehicle v { s.vehicle v with waitingOn := none }) :=
      h.crew.revise ((h.crew.steady v).wait _ (h.crew.good v)) (h.crew.pinned v) rfl rfl
    have hrail : Rail { d.rail with overdue := late } (s.setVehicle v { s.vehicle v with waitingOn := none }) := by
      refine h.rail.clearWait rfl rfl id (fun w c hne ho => (hlate w c ho).resolve_right fun e => hne e.1) fun c w hc e => ?_
      rcases h.rail.entry c w hc with hwait | hs
      · rw [e, hw] at hwait
        rw [← Option.some.inj hwait, h.rail.still b (h.rail.iced b hiced)] at hc
        exact absurd hc List.not_mem_nil
      · exact e ▸ hs
    refine LawfulBut.notifyOwner ?_ _ _
    refine h.ofRail hrail hcrew (fun w => ?_) rfl rfl rfl rfl rfl rfl rfl (fewFlips_setVehicle h.few v (h.few.2.1 v))
    rw [setVehicle_read]; split
    · next e => rw [e]
    · rfl
  · next hw =>
    refine h.mono (h.rail.mono rfl (fun w c hwait ho => (hlate w c ho).resolve_right ?_) (fun _ _ => id) (fun _ => id)
      fun _ => le_rfl) h.crew h.book rfl
    rintro ⟨rfl, rfl⟩
    exact hw hwait

/-- What is owed while the waits at a block end: these vehicles may still name it. -/
def freezing (d : Debt) (b : BlockId) (vs : List VehicleId) : Debt :=
  { d with rail := { d.rail with
    overdue := fun w c => d.rail.overdue w c ∨ (c = b ∧ w ∈ vs)
    iced := fun c => d.rail.iced c ∨ c = b } }

theorem dropWaits (k : rd.KeepsLaws inert) (hd : ∀ v, d.crew.inert v → inert) (b : BlockId) : ∀ (vs : List VehicleId) {s : State},
    LawfulBut (freezing d b vs) s → LawfulBut (freezing d b []) (State.dropWaits rd b vs s)
  | [], _, h => h
  | v :: vs, s, h => by
    have hread := k.laws (freezing d b (v :: vs)) (.vehicle v) s hd h
    have hdrop := hread.dropWaitAt (v := v) (b := b) (late := (freezing d b vs).rail.overdue) (.inr rfl) fun w c ho => by
      rcases ho with ho | ⟨hc, hw⟩
      · exact .inl (.inl ho)
      · exact (List.mem_cons.mp hw).elim (fun e => .inr ⟨e, hc⟩) fun e => .inl (.inr ⟨hc, e⟩)
    exact dropWaits k hd b vs hdrop

/-- R37: the block stays FROZEN, and no wait at it is left. -/
theorem freeze (k : rd.KeepsLaws inert) (hd : ∀ v, d.crew.inert v → inert) (h : LawfulBut d s) (b : BlockId) (vs : List VehicleId)
    (hvs : ∀ w, (s.vehicle w).waitingOn = some b → w ∈ vs ∨ d.rail.overdue w b) :
    LawfulBut { d with rail := { d.rail with iced := fun c => d.rail.iced c ∨ c = b } } (s.freeze rd b vs) := by
  have hrail : Rail (freezing d b vs).rail
      (s.updBlock b fun r => { r with holder := .unknown, frozen := true, waiters := [] }) :=
    h.rail.ice rfl rfl rfl (fun _ _ => .inl) (fun w hw => (hvs w hw).elim (fun e => .inr ⟨rfl, e⟩) .inl) fun _ => id
  have hice : LawfulBut (freezing d b vs) (s.updBlock b fun r => { r with holder := .unknown, frozen := true, waiters := [] }) :=
    h.ofRail hrail (h.crew.congr (fun _ => rfl) fun _ => rfl) (fun _ => rfl) rfl rfl rfl rfl rfl rfl rfl
      (fewFlips_setBlock h.few b (h.few.1 b))
  have hdropped := dropWaits k hd b vs hice
  exact hdropped.mono (hdropped.rail.mono rfl (fun w c _ ho => ho.resolve_right fun e => List.not_mem_nil e.2) (fun _ _ => id)
    (fun _ => id) fun _ => le_rfl) hdropped.crew hdropped.book rfl

/-- What is watched no longer. -/
theorem unwatch {iced : BlockId → Prop} (h : LawfulBut { d with rail := { d.rail with iced := iced } } s)
    (hiced : ∀ c, d.rail.iced c → iced c) : LawfulBut d s :=
  h.mono (h.rail.mono rfl (fun _ _ _ => id) (fun _ _ => id) hiced fun _ => le_rfl) h.crew h.book rfl

/-- R137: the block is FROZEN at the end of its repair. -/
theorem freezeFixed (k : rd.KeepsLaws inert) (hd : ∀ v, d.crew.inert v → inert) (h : LawfulBut d s) (b : BlockId) :
    LawfulBut { d with rail := { d.rail with iced := fun c => d.rail.iced c ∨ c = b } } (s.repairBlock rd b) := by
  have hfixed : LawfulBut d (s.updBlock b fun r => { r with fixed := s.static b, flips := [] }) :=
    h.ofRail (h.rail.setBlock rfl rfl rfl) (h.crew.congr (fun _ => rfl) fun _ => rfl) (fun _ => rfl) rfl rfl rfl rfl rfl rfl rfl
      (fewFlips_setBlock h.few b (Nat.zero_le _))
  exact hfixed.freeze k hd b allVehicles fun w _ => .inl (mem_allVehicles w)

theorem repairBlock (k : rd.KeepsLaws inert) (hd : ∀ v, d.crew.inert v → inert) (h : LawfulBut d s) (b : BlockId) :
    LawfulBut d (s.repairBlock rd b) :=
  (h.freezeFixed k hd b).unwatch fun _ => .inl

end LawfulBut

/-! ## A vehicle record in the middle of its rebuild (R138) -/

/-- R138: STALLED with cause INTEGRITY, without order and wait. -/
structure VehicleRec.Bare (r : VehicleRec) : Prop where
  regular : r.Regular
  state : r.state = .stalled
  cause : r.cause = some .integrity
  saved : r.saved = none
  order : r.order = none
  wait : r.waitingOn = none

theorem steady_bare : Steady VehicleRec.Bare :=
  ⟨fun _ h => ⟨h.regular.wait, h.state, h.cause, h.saved, h.order, rfl⟩,
    fun _ n h => ⟨h.regular.seq n, h.state, h.cause, h.saved, h.order, h.wait⟩, fun _ _ h ho => absurd h.order ho⟩

theorem lost_bare : VehicleRec.lost.Bare := by
  refine ⟨⟨nofun, fun _ => .inr ⟨rfl, rfl⟩, fun h => absurd rfl h, iff_of_true (Option.some_ne_none _) rfl, fun h => absurd rfl h,
    ?_, nofun, fun h => absurd rfl h, iff_of_true rfl rfl, iff_of_false (fun h => h rfl) ?_⟩, rfl, rfl, rfl, rfl, rfl⟩ <;>
    simp [VehicleRec.lost, VehicleRec.reset]

/-- The record of `v` is bare, its orders still name it. -/
def Debt.bare (d : Debt) (v : VehicleId) : Debt :=
  { d with crew := { d.crew with
    pin := Function.update d.crew.pin v (some VehicleRec.Bare)
    orphan := fun w o => d.crew.orphan w o ∨ w = v } }

/-- The same, the blocks `L` held by it and its entries in the lists of `bs` still in place. -/
def Debt.rebuilding (d : Debt) (v : VehicleId) (bs L : List BlockId) : Debt :=
  { d.bare v with rail := { d.rail with
    lost := Function.update d.rail.lost v (some L)
    stray := fun w c => d.rail.stray w c ∨ (w = v ∧ c ∈ bs) } }

theorem Debt.bare_good (d : Debt) (v : VehicleId) : (d.bare v).crew.good v = VehicleRec.Bare := by
  simp [CrewDebt.good, Debt.bare]

theorem Debt.rebuilding_good (d : Debt) (v : VehicleId) (bs L : List BlockId) :
    (d.rebuilding v bs L).crew.good v = VehicleRec.Bare := d.bare_good v

theorem LawfulBut.lose (h : LawfulBut d s) (hlost : d.rail.lost v = none) (hm : s.mode ≠ .setup) :
    LawfulBut (d.rebuilding v allBlocks (s.vehicle v).holds) (s.setVehicle v .lost) where
  rail := by
    have hstray := h.rail.mono (d' := { d.rail with stray := fun w c => d.rail.stray w c ∨ (w = v ∧ c ∈ allBlocks) }) rfl
      (fun _ _ _ => id) (fun _ _ => .inl) (fun _ => id) fun _ => le_rfl
    exact hstray.lose hlost rfl rfl rfl (fun _ _ => id) fun c => .inr ⟨rfl, mem_allBlocks c⟩
  crew := by
    refine h.crew.setVehicle (fun w hw => Function.update_of_ne hw _ _) (fun _ _ => id) (fun _ _ _ => id) (fun _ _ _ => .inl)
      (fun _ _ => id) ?_ ?_ (fun _ => .inl rfl) (fun _ _ => id) (fun o ho => by cases ho) (fun o _ => .inr (.inr rfl))
      fun o x _ ho => absurd (.inr rfl) ho
    · rw [d.rebuilding_good]; exact lost_bare
    · rw [d.rebuilding_good]; exact steady_bare
  book := h.book.congr (fun _ => rfl) rfl fun _ => rfl
  site := h.site.setVehicle fun e => absurd e hm
  few := fewFlips_setVehicle h.few v (Nat.zero_le _)

end Sys2Proof.Machine
end

section
/-! The rebuild of a vehicle record keeps the laws (R138 to R140). -/

namespace Sys2Proof.Machine

variable {s : State} {d : Debt} {v : VehicleId} {b : BlockId} {rd : Reader} {inert : Prop} {L found : List BlockId}

/-! ## The pass over the blocks (R139) -/

/-- A block that the vehicle does not hold leaves the list of those it may hold. -/
theorem LawfulBut.unlist {bs : List BlockId} (h : LawfulBut (d.rebuilding v bs L) s) (hb : (s.block b).holder ≠ .vehicle v) :
    LawfulBut (d.rebuilding v bs (L.filter (· ≠ b))) s := by
  have hrail := h.rail.unlist (v := v) (L := L) (b := b) (Function.update_self ..) hb
  refine h.mono ?_ h.crew h.book rfl
  simpa only [Debt.rebuilding, Function.update_idem] using hrail

/-- The vehicle's entry leaves the list of one block. -/
theorem LawfulBut.removeStray {bs : List BlockId} (h : LawfulBut (d.rebuilding v (b :: bs) L) s) :
    LawfulBut (d.rebuilding v bs L) (s.removeEntry b v) := by
  have hwait : (s.vehicle v).waitingOn = none := by
    have hgood := h.crew.good v
    rw [d.rebuilding_good] at hgood
    exact hgood.wait
  have hrail : Rail (d.rebuilding v bs L).rail (s.removeEntry b v) := by
    refine h.rail.removeEntry (late := d.rail.overdue) (stray := (d.rebuilding v bs L).rail.stray) (fun _ _ => id)
      (fun e => by rw [hwait] at e; cases e) fun w c hs hne => ?_
    rcases hs with hs | ⟨hw, hc⟩
    · exact .inl hs
    · rcases List.mem_cons.mp hc with hc | hc
      · exact absurd hc (hne.resolve_left fun e => e hw)
      · exact .inr ⟨hw, hc⟩
  exact h.ofRail hrail (h.crew.congr (fun _ => rfl) fun _ => rfl) (fun _ => rfl) rfl rfl rfl rfl rfl rfl rfl
    (fewFlips_setBlock h.few b (h.few.1 b))

/-- What has been found of the vehicle's blocks, those of `bs` still to be looked at. -/
structure Found (L bs found : List BlockId) : Prop where
  nodup : found.Nodup
  past : ∀ x ∈ found, x ∉ bs
  mem : ∀ x, x ∉ bs → (x ∈ L ↔ x ∈ found)

theorem passBlock_lawful (k : rd.KeepsLaws inert) (hd : ∀ v, d.crew.inert v → inert) {bs : List BlockId} {wait : Option BlockId}
    (h : LawfulBut (d.rebuilding v (b :: bs) L) s) (hn : (b :: bs).Nodup) (hf : Found L (b :: bs) found) :
    ∃ L', LawfulBut (d.rebuilding v bs L') (State.passBlock rd v b (s, found, wait)).1 ∧
      Found L' bs (State.passBlock rd v b (s, found, wait)).2.1 := by
  obtain ⟨hb, -⟩ := List.nodup_cons.mp hn
  have hread := k.laws (d.rebuilding v (b :: bs) L) (.block b) s hd h
  generalize hu : (rd (.block b) s).1 = u at hread
  have hremoved := hread.removeStray
  have hstate : (State.passBlock rd v b (s, found, wait)).1 = u.removeEntry b v := by
    unfold State.passBlock
    dsimp only
    rw [hu]
    by_cases he : (u.block b).waiters.any (·.isOf v) = true
    · rw [if_pos he]
    · rw [if_neg he, removeEntry_absent (Bool.not_eq_true _ ▸ he)]
  have hfound : (State.passBlock rd v b (s, found, wait)).2.1 =
      if (u.block b).holder = .vehicle v then b :: found else found := by
    unfold State.passBlock
    dsimp only
    rw [hu]
  have hholder : ((u.removeEntry b v).block b).holder = (u.block b).holder := by
    rw [State.removeEntry, State.updBlock, setBlock_same]
  have hmem (x) (hx : x ∉ bs) (hne : x ≠ b) : x ∈ L ↔ x ∈ found :=
    hf.mem x fun e => (List.mem_cons.mp e).elim hne hx
  rw [hstate, hfound]
  by_cases hheld : (u.block b).holder = .vehicle v
  · rw [if_pos hheld]
    have hbL : b ∈ L := by
      have hfrozen : (u.block b).frozen = false := by
        by_contra e
        rw [Bool.not_eq_false, hread.rail.frozen b, hheld] at e
        cases e
      have := (hread.rail.held b v hfrozen).mp hheld
      rwa [Rail.listed_lost (L := L) (Function.update_self ..)] at this
    refine ⟨L, hremoved, List.nodup_cons.mpr ⟨fun e => hf.past b e List.mem_cons_self, hf.nodup⟩, fun x hx => ?_, fun x hx => ?_⟩
    · rcases List.mem_cons.mp hx with rfl | hx
      · exact hb
      · exact fun e => hf.past x hx (List.mem_cons_of_mem _ e)
    · rcases eq_or_ne x b with rfl | hne
      · exact iff_of_true hbL List.mem_cons_self
      · rw [List.mem_cons, or_iff_right hne]; exact hmem x hx hne
  · rw [if_neg hheld]
    refine ⟨_, hremoved.unlist (hholder ▸ hheld), hf.nodup, fun x hx e => hf.past x hx (List.mem_cons_of_mem _ e), fun x hx => ?_⟩
    rw [List.mem_filter]
    rcases eq_or_ne x b with rfl | hne
    · exact iff_of_false (fun e => by simp at e) fun e => hf.past x e List.mem_cons_self
    · simp only [hmem x hx hne, ne_eq, hne, not_false_eq_true, decide_true, and_true]

theorem pass_lawful (k : rd.KeepsLaws inert) (hd : ∀ v, d.crew.inert v → inert) : ∀ (bs : List BlockId) {s : State}
    {L found : List BlockId} {wait : Option BlockId}, LawfulBut (d.rebuilding v bs L) s → bs.Nodup → Found L bs found →
      ∃ L', LawfulBut (d.rebuilding v [] L') (State.pass rd v bs (s, found, wait)).1 ∧
        Found L' [] (State.pass rd v bs (s, found, wait)).2.1
  | [], _, L, _, _, h, _, hf => ⟨L, h, hf⟩
  | b :: bs, s, L, found, wait, h, hn, hf => by
    obtain ⟨L', h', hf'⟩ := passBlock_lawful (wait := wait) k hd h hn hf
    rw [State.pass]
    generalize State.passBlock rd v b (s, found, wait) = acc at h' hf'
    obtain ⟨u, found', wait'⟩ := acc
    exact pass_lawful k hd bs h' (List.nodup_cons.mp hn).2 hf'

/-! ## The holding list (R139) -/

/-- R139: the blocks of a broken chain become FROZEN, and the vehicle holds none of them. -/
theorem freezeChain_lawful (k : rd.KeepsLaws inert) (hd : ∀ v, d.crew.inert v → inert) (f : Finder) : ∀ (bs : List BlockId) {s : State}
    {L : List BlockId}, LawfulBut (d.rebuilding v [] L) s →
      LawfulBut (d.rebuilding v [] (L.filter (· ∉ bs))) (State.freezeChain rd f v bs s)
  | [], s, L, h => by
    have e : L.filter (· ∉ ([] : List BlockId)) = L := List.filter_eq_self.mpr fun x _ => by simp
    rw [e]; exact h
  | b :: bs, s, L, h => by
    have hfrozen := LawfulBut.freeze (d := d.rebuilding v [] L) k hd h b (s.block b).waiting fun w hw =>
      (h.rail.waits w b hw).imp_left fun ⟨x, hx, e⟩ => List.mem_map.mpr ⟨x, hx, e⟩
    have hholder := (hfrozen.rail.frozen b).mp (hfrozen.rail.iced b (.inr rfl))
    have hun := (hfrozen.unwatch fun _ => .inl).unlist (b := b) fun e => by rw [hholder] at e; cases e
    have hrest := freezeChain_lawful k hd f bs (hun.notifyIntegrity .chain (.block b) f (some v))
    rw [List.filter_filter] at hrest
    have e : (L.filter fun x => decide (x ∉ bs) && decide (x ≠ b)) = L.filter (· ∉ b :: bs) :=
      List.filter_congr fun x _ => by simp [Bool.and_comm]
    rw [e] at hrest
    exact hrest

/-- R138, R139: the vehicle has its holding list and its owning link. -/
theorem LawfulBut.rehold {r : VehicleRec} (h : LawfulBut (d.rebuilding v [] L) s) (hlost : d.rail.lost v = none)
    (hmem : ∀ c, c ∈ r.holds ↔ c ∈ L) (hnodup : r.holds.Nodup)
    (hlinked : ∀ x ∈ r.holds.zip r.holds.tail, x.2 ∈ (s.static x.1).succs) (hbare : r.Bare)
    (hflips : r.flips = (s.vehicle v).flips) (hm : s.mode ≠ .setup) : LawfulBut (d.bare v) (s.setVehicle v r) where
  rail := by
    have hwas : (s.vehicle v).waitingOn = none := by
      have hgood := h.crew.good v
      rw [d.rebuilding_good] at hgood
      exact hgood.wait
    have hrail := h.rail.rehold (v := v) (L := L) (r := r) (Function.update_self ..) hmem hnodup hlinked hwas hbare.wait
    refine hrail.mono ?_ (fun _ _ _ => id) (fun w c hs => hs.resolve_right fun e => List.not_mem_nil e.2) (fun _ => id)
      fun _ => le_rfl
    show d.rail.lost = Function.update (Function.update d.rail.lost v (some L)) v none
    rw [Function.update_idem, ← hlost, Function.update_eq_self]
  crew := by
    have hgood := h.crew.good v
    rw [d.rebuilding_good] at hgood
    refine h.crew.revise ?_ (fun hp => (h.crew.pinned v hp).imp_left hflips.trans) (hbare.order.trans hgood.order.symm)
      (hbare.state.trans hgood.state.symm)
    rw [d.rebuilding_good]; exact hbare
  book := h.book.congr (fun _ => rfl) rfl fun _ => rfl
  site := h.site.setVehicle fun e => absurd e hm
  few := fewFlips_setVehicle h.few v (hflips ▸ h.few.2.1 v)

theorem setVehicle_vehicle (s : State) (v : VehicleId) : s.setVehicle v (s.vehicle v) = s := by
  simp [State.setVehicle, State.vehicle]

/-- A vehicle that is found to hold nothing. -/
theorem LawfulBut.rehold_nil (h : LawfulBut (d.rebuilding v [] []) s) (hlost : d.rail.lost v = none) (hm : s.mode ≠ .setup) :
    LawfulBut (d.bare v) s := by
  have hgood := h.crew.good v
  rw [d.rebuilding_good] at hgood
  have hholds := (h.rail.lost v [] (Function.update_self ..)).1
  have hset := h.rehold (r := s.vehicle v) hlost (fun c => by rw [hholds]) (hholds ▸ List.nodup_nil)
    (by rw [hholds]; exact fun x hx => absurd hx List.not_mem_nil) hgood rfl hm
  rwa [setVehicle_vehicle] at hset

theorem rebuildHolds_lawful (k : rd.KeepsLaws inert) (hd : ∀ v, d.crew.inert v → inert) (f : Finder)
    (h : LawfulBut (d.rebuilding v [] L) s) (hlost : d.rail.lost v = none) (hm : s.mode ≠ .setup) (hn : found.Nodup)
    (hmem : ∀ x, x ∈ L ↔ x ∈ found) (hk : rd.Keeps) : LawfulBut (d.bare v) (s.rebuildHolds rd f v found) := by
  have hgood := h.crew.good v
  rw [d.rebuilding_good] at hgood
  unfold State.rebuildHolds
  split
  · have hL : L = [] := List.eq_nil_iff_forall_not_mem.mpr fun x hx => List.not_mem_nil ((hmem x).mp hx)
    subst hL
    exact h.rehold_nil hlost hm
  · next hne =>
    split
    · next chain hchain =>
      obtain ⟨hnodup, hchainMem, hlinked, -⟩ := oneChain_some hchain
      have hmem' (c) : c ∈ chain ↔ c ∈ L := (hchainMem c).trans (hmem c).symm
      have hchainNe : chain ≠ [] := fun e => by
        refine hne (List.eq_nil_iff_forall_not_mem.mpr fun x hx => ?_)
        have := (hchainMem x).mpr hx
        rw [e] at this; exact List.not_mem_nil this
      obtain ⟨c, rest, rfl⟩ := List.exists_cons_of_ne_nil hchainNe
      have howner : s.bayOwner c ≠ none := by
        have hc : c ∈ (d.rebuilding v [] L).rail.listed s v := by
          rw [Rail.listed_lost (L := L) (Function.update_self ..)]
          exact (hmem' c).mp List.mem_cons_self
        exact h.site.owned (fun e => hm (h.site.opened e)) (.inl hm) c (h.rail.used v c hc)
      refine h.rehold hlost hmem' hnodup hlinked ⟨?_, hgood.state, hgood.cause, hgood.saved, hgood.order, hgood.wait⟩ rfl hm
      have hreg := hgood.regular
      refine ⟨fun e => ?_, fun e => (hchainNe e).elim, hreg.waits, hreg.cause, hreg.saved, hreg.savedSome, hreg.savedKind,
        hreg.offer, iff_of_false howner hchainNe, hreg.order⟩
      exact absurd (hgood.state.symm.trans e) VState.noConfusion
    · have hfrozen := freezeChain_lawful k hd f found h
      have e : L.filter (· ∉ found) = [] := List.filter_eq_nil_iff.mpr fun x hx => by simpa using (hmem x).mp hx
      rw [e] at hfrozen
      exact hfrozen.rehold_nil hlost ((Keeps.freezeChain hk f v found (Keeps.refl s)).mode ▸ hm)

/-! ## The order (R74, R140) -/

theorem orderOf_some {o : Slot} (h : s.orderOf v = some o) : s.Names o v := by
  have := List.find?_some h
  cases hr : s.order o with
  | none => rw [hr] at this; cases this
  | some r => rw [hr] at this; exact ⟨r, hr, of_decide_eq_true this⟩

theorem orderOf_none (h : s.orderOf v = none) (o : Slot) : ¬ s.Names o v := fun ⟨r, hr, hv⟩ => by
  have hlive : o ∈ s.liveSlots := List.mem_filter.mpr ⟨List.mem_finRange o, by rw [hr]; rfl⟩
  have := List.find?_eq_none.mp h o hlive
  rw [hr] at this
  exact this (decide_eq_true hv)

/-- What is owed of one vehicle is paid: its record is as the laws have it, and so is its order. -/
theorem Crew.settle {d d' : CrewDebt} (h : Crew d s) {r : VehicleRec} (hpin : ∀ w, w ≠ v → d'.pin w = d.pin w)
    (horphan : ∀ w o, w ≠ v → d.orphan w o → d'.orphan w o) (hapart : d'.apart = d.apart)
    (hgone : ∀ w o, w ≠ v → d.gone w o → d'.gone w o) (hunnamed : ∀ w o, d'.unnamed w o → d.unnamed w o)
    (hinert : ∀ w, w ≠ v → d.inert w → d'.inert w) (hnone : d'.pin v = none) (hregular : r.Regular) (hnamed : ∀ o, s.Names o v ↔ r.order = some o)
    (hfits : ∀ o x, s.order o = some x → x.vehicle = some v → Fits x.state r.state) : Crew d' (s.setVehicle v r) := by
  have hgood : d'.good v = VehicleRec.Regular := by rw [CrewDebt.good, hnone]; rfl
  refine h.setVehicle hpin (fun w _ => by rw [hapart]; exact id) hgone horphan hunnamed (by rw [hgood]; exact hregular)
    (by rw [hgood]; exact steady_regular) (fun e => absurd hnone e) hinert (fun o ho => .inl ((hnamed o).mpr ho))
    (fun o hn => .inl ((hnamed o).mp hn)) fun o x _ _ => hfits o x

end Sys2Proof.Machine
end

section
/-! A vehicle rebuilt whole (R138 to R140). -/

namespace Sys2Proof.Machine

variable {s : State} {d : Debt} {v : VehicleId} {rd : Reader} {inert : Prop}

/-- R140: nothing is owed of a vehicle once its orders are settled. -/
theorem LawfulBut.settle (h : LawfulBut (d.bare v) s) {r : VehicleRec} (hnone : d.crew.pin v = none) (hregular : r.Regular)
    (hnamed : ∀ o, s.Names o v ↔ r.order = some o)
    (hfits : ∀ o x, s.order o = some x → x.vehicle = some v → Fits x.state r.state) (hholds : r.holds = (s.vehicle v).holds)
    (hwait : r.waitingOn = (s.vehicle v).waitingOn) (hflips : r.flips = (s.vehicle v).flips)
    (hstate : r.state = (s.vehicle v).state) : LawfulBut d (s.setVehicle v r) := by
  have hcrew : Crew d.crew (s.setVehicle v r) :=
    h.crew.settle (fun w hw => (Function.update_of_ne hw _ _).symm) (fun w o hw ho => ho.resolve_right hw) rfl
      (fun _ _ _ => id) (fun _ _ => id) (fun _ _ => id) hnone hregular hnamed hfits
  exact LawfulBut.setVehicle h hcrew hholds hwait hflips fun hm => hstate.trans ((h.site.setup hm).1 v)

theorem LawfulBut.bare_good (h : LawfulBut (d.bare v) s) : (s.vehicle v).Bare := by
  have hgood := h.crew.good v
  rwa [d.bare_good] at hgood

theorem rebuildOrder_lawful (h : LawfulBut (d.bare v) s) (hnone : d.crew.pin v = none) : LawfulBut d (s.rebuildOrder v) := by
  have hbare := h.bare_good
  have hreg := hbare.regular
  have hcarrier (c : Carrier) : { s.vehicle v with carrier := c }.Bare :=
    ⟨⟨hreg.away, hreg.empty, hreg.waits, hreg.cause, hreg.saved, hreg.savedSome, hreg.savedKind, hreg.offer, hreg.owner, hreg.order⟩,
      hbare.state, hbare.cause, hbare.saved, hbare.order, hbare.wait⟩
  unfold State.rebuildOrder
  cases hof : s.orderOf v with
  | none =>
    have hno := orderOf_none hof
    exact h.settle hnone (hcarrier _).regular
      (fun o => iff_of_false (hno o) fun e => Option.some_ne_none o (e.symm.trans hbare.order))
      (fun o x hx hxv => absurd ⟨x, hx, hxv⟩ (hno o)) rfl rfl rfl rfl
  | some o =>
    obtain ⟨r, hr, hrv⟩ := orderOf_some hof
    have hq : r.state ≠ .queued := fun e => by
      rw [(h.book.sound o r hr).idle.mp e] at hrv; cases hrv
    have honly (x) (hx : s.Names x v) : x = o := h.crew.once v x o hx ⟨r, hr, hrv⟩
    dsimp only
    split
    · next hcarrying =>
      have hstate : r.state = .carrying := by rw [hr] at hcarrying; exact of_decide_eq_true hcarrying
      have hset : LawfulBut d (s.setVehicle v { s.vehicle v with
          carrier := s.rebuiltCarrier v (s.order o), order := some o, saved := some .toDest }) := by
        refine h.settle hnone ?_ (fun x => ⟨fun hx => congrArg some (honly x hx).symm, fun e => ?_⟩) (fun x y hy hyv => ?_)
          rfl rfl rfl rfl
        · exact ⟨hreg.away, hreg.empty, hreg.waits, hreg.cause, fun _ => hbare.state, fun _ => Option.some_ne_none _,
            fun x e => .inr (.inr (.inr (Option.some.inj e).symm)), hreg.offer, hreg.owner,
            iff_of_true (Option.some_ne_none o) (.inr (.inr (.inr ⟨hbare.state, rfl⟩)))⟩
        · exact (Option.some.inj e) ▸ ⟨r, hr, hrv⟩
        · obtain rfl := honly x ⟨y, hy, hyv⟩
          rw [hr] at hy
          exact .inr (.inr ⟨Option.some.inj hy ▸ hstate, .inr hbare.state⟩)
      exact LawfulBut.suspend hset hr hq
    · have hset : LawfulBut (d.bare v) (s.setVehicle v { s.vehicle v with carrier := s.rebuiltCarrier v (s.order o) }) :=
        h.reviseVehicle (by rw [d.bare_good]; exact hcarrier _) rfl rfl rfl rfl rfl
      have hrequeued := hset.requeue hr hq v .stalled (g := d.crew.gone) (u := fun w x => d.crew.unnamed w x)
        (fun _ _ _ => id) (fun w hw => ?_) fun _ _ _ => id
      · have hno (x) : ¬ ((s.setVehicle v { s.vehicle v with carrier := s.rebuiltCarrier v (s.order o) }).requeue o v
            .stalled).Names x v := fun ⟨y, hy, hyv⟩ => by
          rcases eq_or_ne x o with rfl | hx
          · obtain ⟨z, hz, hzv, -⟩ := requeue_order (s := s.setVehicle v { s.vehicle v with
              carrier := s.rebuiltCarrier v (s.order x) }) hr v .stalled
            rw [hz] at hy
            rw [← Option.some.inj hy, hzv] at hyv; cases hyv
          · rw [requeue_order_other _ _ _ hx] at hy
            exact hx (honly x ⟨y, hy, hyv⟩)
        have hbare' := LawfulBut.bare_good (d := d) hrequeued
        have hdone := LawfulBut.settle (d := d) hrequeued hnone hbare'.regular
          (fun x => iff_of_false (hno x) fun e => Option.some_ne_none x (e.symm.trans hbare'.order))
          (fun x y hy hyv => absurd ⟨y, hy, hyv⟩ (hno x)) rfl rfl rfl rfl
        rw [setVehicle_vehicle] at hdone
        exact hdone.noteWithdraw ..
      · rcases eq_or_ne w v with rfl | hne
        · rw [setVehicle_same, hbare.order] at hw; cases hw
        · rw [setVehicle_other _ _ hne] at hw
          rcases h.crew.points w o hw with ⟨y, hy, hyw⟩ | hg
          · rw [hr] at hy
            rw [← Option.some.inj hy, hrv] at hyw
            exact absurd (Option.some.inj hyw).symm hne
          · exact hg

theorem suspend_at_vehicle (s : State) (o v) : (s.suspend o).vehicle v = s.vehicle v := by
  unfold State.suspend; split <;> simp

theorem rebuildOrder_flips (s : State) (v : VehicleId) : ((s.rebuildOrder v).vehicle v).flips = (s.vehicle v).flips := by
  unfold State.rebuildOrder
  split
  · rw [State.updVehicle, setVehicle_same]
  · dsimp only
    split
    · rw [suspend_at_vehicle, State.updVehicle, setVehicle_same]
    · rw [noteWithdraw_at_vehicle, requeue_at_vehicle, State.updVehicle, setVehicle_same]

/-- R140: the live orders read, the one found dealt with. -/
theorem finishRebuild_lawful (k : rd.KeepsLaws inert) (hinert : ∀ v, ¬ d.crew.inert v) (hpin : d.crew.pin v = none)
    (h : LawfulBut (d.bare v) s) :
    LawfulBut d (((readAll rd s.orderRefs s).1.rebuildOrder v).noteVehicle v .stalled) ∧
      ((((readAll rd s.orderRefs s).1.rebuildOrder v).noteVehicle v .stalled).vehicle v).flips = [] := by
  have hread := Reader.KeepsLaws.readAll (d := d.bare v) k (fun v e => absurd e (hinert v)) s.orderRefs h
  refine ⟨(rebuildOrder_lawful hread hpin).noteVehicle _ _, ?_⟩
  rw [noteVehicle_at_vehicle, rebuildOrder_flips]
  exact (hread.crew.pinned v (by simp [Debt.bare])).resolve_right (hinert v)

/-- R138 to R140: the laws are kept, and the record's check word agrees. -/
theorem repairVehicle_lawful (k : rd.KeepsLaws inert) (hk : rd.Keeps) (f : Finder) (h : LawfulBut d s)
    (hinert : ∀ v, ¬ d.crew.inert v) (hlost : d.rail.lost v = none) (hpin : d.crew.pin v = none) :
    LawfulBut d (s.repairVehicle rd f v) ∧ ((s.repairVehicle rd f v).vehicle v).flips = [] := by
  have hd : ∀ v, d.crew.inert v → inert := fun v e => absurd e (hinert v)
  unfold State.repairVehicle
  split
  · next hm =>
    have hregular : (s.vehicle v).Regular := by
      have hgood := h.crew.good v
      rwa [CrewDebt.good, hpin] at hgood
    have hoff := (h.site.setup hm).1 v
    have hwait : (s.vehicle v).waitingOn = none := by
      by_contra e; exact (hregular.waits e).1 hoff
    have horder : (s.vehicle v).order = none := by
      by_contra e
      have := hregular.order.mp e
      rw [hoff] at this
      simp at this
    refine ⟨⟨h.rail.setVehicle (hregular.away hoff).symm hwait.symm fun _ => rfl,
      h.crew.revise ?_ (fun _ => .inl rfl) horder.symm hoff.symm, h.book.congr (fun _ => rfl) rfl fun _ => rfl,
      h.site.setVehicle fun _ => rfl, fewFlips_setVehicle h.few v (Nat.zero_le _)⟩, by rw [setVehicle_same]; rfl⟩
    rw [CrewDebt.good, hpin]
    exact ⟨fun _ => rfl, fun _ => .inl rfl, fun e => absurd rfl e, iff_of_false (fun e => e rfl) VState.noConfusion,
      fun e => absurd rfl e, fun e => by simp [VehicleRec.reset] at e, nofun, fun e => absurd rfl e,
      iff_of_true rfl rfl, iff_of_false (fun e => e rfl) (by simp [VehicleRec.reset])⟩
  · next hm =>
    have hlose := h.lose hlost hm
    obtain ⟨L, hpass, hfound⟩ := pass_lawful (wait := none) k hd allBlocks hlose (by rw [allBlocks_eq]; exact List.nodup_finRange _)
      (found := []) ⟨List.nodup_nil, fun x hx => absurd hx List.not_mem_nil, fun x hx => absurd (mem_allBlocks x) hx⟩
    have hkeeps := Keeps.pass hk v allBlocks (s.setVehicle v .lost, [], none) ((Keeps.refl s).setVehicle v .lost)
    dsimp only
    generalize State.pass rd v allBlocks (s.setVehicle v .lost, [], none) = acc at hpass hfound hkeeps ⊢
    obtain ⟨u, found, wait⟩ := acc
    have hholds := rebuildHolds_lawful k hd f hpass hlost (hkeeps.mode ▸ hm) (List.nodup_reverse.mpr hfound.nodup)
      (fun x => (hfound.mem x List.not_mem_nil).trans List.mem_reverse.symm) hk
    cases wait with
    | none => exact finishRebuild_lawful k hinert hpin hholds
    | some b => exact finishRebuild_lawful k hinert hpin (hholds.notifyOwner _ _)

end Sys2Proof.Machine
end

section
/-! Entries to IDLE within an event (R59, R154), the repair of an order (R141), and checked reads (R132, R142). -/

namespace Sys2Proof.Machine

variable {s : State} {d : Debt} {v : VehicleId} {o : Slot} {rd : Reader} {inert : Prop}

/-! ## Renumbering (R154) -/

/-- Vehicle records that differ in their idle sequence alone. -/
theorem LawfulBut.renumbered (h : LawfulBut d s) (f : VehicleRec → VehicleRec)
    (hf : ∀ r, ∃ n, f r = { r with idleSeq := n }) (n : Word) :
    LawfulBut d { s with vehicles := s.vehicles.map f, idleSeq := n } := by
  have hread (w) : ({ s with vehicles := s.vehicles.map f, idleSeq := n } : State).vehicle w = f (s.vehicle w) := by
    simp [State.vehicle]
  have hsame {α : Type} (g : VehicleRec → α) (hg : ∀ r n, g { r with idleSeq := n } = g r) (w) :
      g (({ s with vehicles := s.vehicles.map f, idleSeq := n } : State).vehicle w) = g (s.vehicle w) := by
    obtain ⟨m, hm⟩ := hf (s.vehicle w)
    rw [hread, hm, hg]
  have hgood (w) : d.crew.good w (({ s with vehicles := s.vehicles.map f, idleSeq := n } : State).vehicle w) := by
    obtain ⟨m, hm⟩ := hf (s.vehicle w)
    rw [hread, hm]
    exact (h.crew.steady w).seq _ m (h.crew.good w)
  have hflips := hsame VehicleRec.flips fun _ _ => rfl
  have hcrew : Crew d.crew { s with vehicles := s.vehicles.map f, idleSeq := n } :=
    h.crew.touch hgood (fun w hw => (h.crew.pinned w hw).imp_left (hflips w).trans) (hsame VehicleRec.order fun _ _ => rfl)
      (hsame VehicleRec.state fun _ _ => rfl) fun _ => rfl
  exact ⟨h.rail.congr (fun _ => rfl) (fun _ => rfl) (fun _ => rfl) (hsame VehicleRec.holds fun _ _ => rfl)
      (hsame VehicleRec.waitingOn fun _ _ => rfl) (fun w hw => (hflips w).trans hw) rfl, hcrew,
    h.book.congr (fun _ => rfl) rfl fun _ => rfl,
    h.site.congr (hsame VehicleRec.state fun _ _ => rfl) (fun _ => Iff.rfl) rfl rfl rfl rfl,
    ⟨h.few.1, fun w => (congrArg List.length (hflips w)).trans_le (h.few.2.1 w), h.few.2.2⟩⟩

theorem LawfulBut.renumberIdle (k : rd.KeepsLaws inert) (hd : ∀ v, d.crew.inert v → inert) (h : LawfulBut d s) :
    LawfulBut d (s.renumberIdle rd).1 :=
  (k.readAll hd vehicleRefs h).renumbered _ (fun _ => ⟨_, rfl⟩) _

theorem LawfulBut.nextIdleSeq (k : rd.KeepsLaws inert) (hd : ∀ v, d.crew.inert v → inert) (h : LawfulBut d s) :
    LawfulBut d (s.nextIdleSeq rd).1 := by
  have hcount {u : State} (hu : LawfulBut d u) (n : Word) : LawfulBut d { u with idleSeq := n } :=
    hu.congr ⟨rfl, rfl, rfl, rfl, rfl, rfl, rfl, rfl, rfl⟩
  unfold State.nextIdleSeq
  split
  next u bad e =>
    split at e
    · have := h.renumberIdle k hd
      rw [e] at this
      exact hcount this _
    · obtain ⟨rfl, -⟩ := Prod.mk.inj e
      exact hcount h _

/-! ## A vehicle on its way to another state (R59, R141) -/

/-- A vehicle whose record satisfies `Q`, the order it names perhaps not its own any more; `i`: its check word does not
matter. -/
def Debt.detached (d : Debt) (v : VehicleId) (Q : VehicleRec → Prop) (i : Prop) : Debt :=
  { d with crew := { d.crew with
    pin := Function.update d.crew.pin v (some Q)
    gone := fun w o => d.crew.gone w o ∨ w = v
    inert := fun w => d.crew.inert w ∨ (w = v ∧ i) } }

theorem Debt.detached_good (d : Debt) (v : VehicleId) (Q : VehicleRec → Prop) (i : Prop) : (d.detached v Q i).crew.good v = Q := by
  simp [CrewDebt.good, Debt.detached]

variable {Q : VehicleRec → Prop} {i : Prop}

/-- The vehicle has arrived: it names no order, and no order is its own. -/
theorem LawfulBut.arrive (h : LawfulBut (d.detached v Q i) s) {r : VehicleRec} (hgood : d.crew.good v r)
    (hsteady : Steady (d.crew.good v)) (hpin : d.crew.pin v ≠ none → i → d.crew.inert v)
    (hfree : ∀ o, (s.vehicle v).order = some o → d.crew.unnamed v o) (horder : r.order = none)
    (hholds : r.holds = (s.vehicle v).holds) (hwait : r.waitingOn = (s.vehicle v).waitingOn)
    (hflips : r.flips = (s.vehicle v).flips) (hm : s.mode ≠ .setup) : LawfulBut d (s.setVehicle v r) := by
  have hnames (o) (hn : s.Names o v) : d.crew.orphan v o :=
    (h.crew.named v o hn).resolve_left fun ho => h.crew.unnamed v o (hfree o ho) hn
  have hcrew : Crew d.crew (s.setVehicle v r) := by
    refine h.crew.setVehicle (fun w hw => (Function.update_of_ne hw _ _).symm) (fun _ _ => id)
      (fun w o hw hg => hg.resolve_right hw) (fun _ _ _ => id) (fun _ _ => id) hgood hsteady (fun hp => ?_)
      (fun w hw hi => hi.resolve_right fun e => hw e.1) (fun o ho => by rw [horder] at ho; cases ho)
      (fun o hn => .inr (hnames o hn)) fun o x _ horph hx hxv => absurd (hnames o ⟨x, hx, hxv⟩) horph
    rcases h.crew.pinned v (by simp [Debt.detached]) with hf | hi | ⟨-, hi⟩
    · exact .inl (hflips.trans hf)
    · exact .inr hi
    · exact .inr (hpin hp hi)
  exact LawfulBut.setVehicle h hcrew hholds hwait hflips fun e => absurd e hm

theorem LawfulBut.detached_good (h : LawfulBut (d.detached v Q i) s) : Q (s.vehicle v) := by
  have hgood := h.crew.good v
  rwa [d.detached_good] at hgood

theorem LawfulBut.detached_repin {Q' : VehicleRec → Prop} (h : LawfulBut (d.detached v Q i) s) (hv : Q' (s.vehicle v))
    (hQ : Steady Q') : LawfulBut (d.detached v Q' i) s := by
  have hgood (w) (hw : w ≠ v) : (d.detached v Q' i).crew.good w = (d.detached v Q i).crew.good w := by
    simp [CrewDebt.good, Debt.detached, Function.update_of_ne hw]
  refine h.mono h.rail ⟨fun w => ?_, fun w => ?_, fun w hw => ?_, h.crew.points, h.crew.named, h.crew.once, h.crew.unnamed,
    h.crew.fits⟩ h.book rfl
  · rcases eq_or_ne w v with rfl | hw
    · rw [d.detached_good]; exact hv
    · rw [hgood w hw]; exact h.crew.good w
  · rcases eq_or_ne w v with rfl | hw
    · rw [d.detached_good]; exact hQ
    · rw [hgood w hw]; exact h.crew.steady w
  · rcases eq_or_ne w v with rfl | hne
    · exact h.crew.pinned w (by simp [Debt.detached])
    · refine h.crew.pinned w ?_
      simpa [Debt.detached, Function.update_of_ne hne] using hw

theorem VehicleRec.bereft_drain {r : VehicleRec} (n : Word) (h : r.drain = false) : (r.bereft n).drain = false := by
  unfold VehicleRec.bereft VehicleRec.parted VehicleRec.idled VehicleRec.loaded
  split <;> (try split) <;> simp_all

theorem Steady.and_drain {Q : VehicleRec → Prop} (hQ : Steady Q) : Steady fun r => Q r ∧ r.drain = false :=
  ⟨fun r h => ⟨hQ.wait r h.1, h.2⟩, fun r n h => ⟨hQ.seq r n h.1, h.2⟩,
    fun r n h ho => ⟨hQ.release r n h.1 ho, VehicleRec.bereft_drain n h.2⟩⟩

/-- R59: into IDLE, or WITHDRAWN, the idle sequences renumbered first when the counter is at its top. -/
theorem LawfulBut.enterIdle (k : rd.KeepsLaws inert) (hk : rd.Keeps) (hd : ∀ v, d.crew.inert v → inert) (hi : i → inert)
    (h : LawfulBut (d.detached v Q i) s) (hQ : Steady Q) (hgood : ∀ r n, Q r → d.crew.good v (r.idled n))
    (hsteady : Steady (d.crew.good v)) (hpin : d.crew.pin v ≠ none → i → d.crew.inert v)
    (hfree : ∀ r o, Q r → r.order = some o → d.crew.unnamed v o) (hm : s.mode ≠ .setup) :
    LawfulBut d (s.enterIdle rd v).1 := by
  have harrive {u : State} (hu : LawfulBut (d.detached v Q i) u) (hmu : u.mode ≠ .setup) (n : Word) :
      LawfulBut d (u.setVehicle v ((u.vehicle v).idled n)) := by
    have hv := hu.detached_good
    refine hu.arrive (hgood _ n hv) hsteady hpin (fun o => hfree _ o hv) ?_ ?_ ?_ ?_ hmu <;>
      (unfold VehicleRec.idled; split <;> rfl)
  unfold State.enterIdle
  split
  · next hdr =>
    have hset := harrive h hm 0
    rw [VehicleRec.idled, if_pos hdr] at hset
    exact hset
  · next hdr =>
    have hstays := h.detached_repin (Q' := fun r => Q r ∧ r.drain = false) ⟨h.detached_good, by simpa using hdr⟩ hQ.and_drain
    have hnext := LawfulBut.nextIdleSeq (d := d.detached v _ i) k
      (fun w hw => hw.elim (hd w) fun e => hi e.2) hstays
    have hmode := (Keeps.nextIdleSeq hk (Keeps.refl s)).mode
    generalize s.nextIdleSeq rd = acc at hnext hmode
    obtain ⟨u, n, bad⟩ := acc
    obtain ⟨hv, hdu⟩ := hnext.detached_good
    have hset := harrive (hnext.detached_repin hv hQ) (by rw [hmode]; exact hm) n
    rw [VehicleRec.idled, if_neg (by rw [hdu]; exact Bool.false_ne_true)] at hset
    exact hset.setTrigger

/-- R60: into LOADED_IDLE. -/
theorem LawfulBut.enterLoadedIdle (h : LawfulBut (d.detached v Q i) s) (c : Carrier)
    (hgood : ∀ r, Q r → d.crew.good v (r.loaded c)) (hsteady : Steady (d.crew.good v))
    (hpin : d.crew.pin v ≠ none → i → d.crew.inert v) (hfree : ∀ r o, Q r → r.order = some o → d.crew.unnamed v o)
    (hm : s.mode ≠ .setup) : LawfulBut d (s.enterLoadedIdle v c) :=
  (h.arrive (hgood _ h.detached_good) hsteady hpin (fun o => hfree _ o h.detached_good) rfl rfl rfl rfl hm).setTrigger

/-! ## A vehicle whose order is lost (R141 step 4) -/

/-- The record of a vehicle that has lost its order in the state `x`, before it moves. -/
def Parting (P : VehicleRec → Prop) (x : VehicleRec) (r : VehicleRec) : Prop :=
  ∃ r₀, P r₀ ∧ r₀.order ≠ none ∧ r₀.state = x.state ∧ r₀.carrier = x.carrier ∧ r₀.drain = x.drain ∧ r = r₀.parted

theorem steady_parting {P : VehicleRec → Prop} (hP : Steady P) (x : VehicleRec) : Steady (Parting P x) := by
  refine ⟨fun r ⟨r₀, h, ho, hs, hc, hdr, e⟩ => ⟨_, hP.wait r₀ h, ho, hs, hc, hdr, ?_⟩,
    fun r n ⟨r₀, h, ho, hs, hc, hdr, e⟩ => ⟨_, hP.seq r₀ n h, ho, hs, hc, hdr, ?_⟩, fun r n ⟨r₀, h, ho, hs, hc, hdr, e⟩ hr => ?_⟩
  · subst e; rfl
  · subst e; rfl
  · subst e; exact absurd rfl hr

/-- The vehicles of `vs` may name the freed slot `o`. -/
def Debt.freeing (d : Debt) (o : Slot) (vs : List VehicleId) : Debt :=
  { d with crew := { d.crew with
    gone := fun w x => d.crew.gone w x ∨ (x = o ∧ w ∈ vs)
    unnamed := fun w x => d.crew.unnamed w x ∨ x = o } }

/-- The vehicle forgets the freed order; its next state comes after. -/
theorem LawfulBut.part {vs : List VehicleId} (h : LawfulBut (d.freeing o (v :: vs)) s) (ho : (s.vehicle v).order = some o)
    (hi : (s.vehicle v).flips = [] ∨ i) (hm : (s.vehicle v).state ≠ .offline) :
    LawfulBut ((d.freeing o vs).detached v (Parting (d.crew.good v) (s.vehicle v)) i)
      (s.setVehicle v { s.vehicle v with order := none, offer := none }) := by
  have hnames (x) (hn : s.Names x v) : d.crew.orphan v x := by
    refine (h.crew.named v x hn).resolve_left fun e => ?_
    rw [ho] at e
    exact h.crew.unnamed v o (.inr rfl) (Option.some.inj e ▸ hn)
  have hcrew : Crew ((d.freeing o vs).detached v (Parting (d.crew.good v) (s.vehicle v)) i).crew
      (s.setVehicle v { s.vehicle v with order := none, offer := none }) := by
    refine h.crew.setVehicle (fun w hw => Function.update_of_ne hw _ _) (fun _ _ => id) (fun w x hw hg => ?_) (fun _ _ _ => id)
      (fun _ _ => id) ?_ ?_ (fun _ => hi.imp_right fun e => .inr ⟨rfl, e⟩) (fun _ _ => .inl) (fun x hx => by cases hx)
      (fun x hn => .inr (hnames x hn)) fun x y _ horph hy hyv => absurd (hnames x ⟨y, hy, hyv⟩) horph
    · exact .inl (hg.imp_right fun e => ⟨e.1, (List.mem_cons.mp e.2).resolve_left hw⟩)
    · rw [Debt.detached_good]
      exact ⟨s.vehicle v, h.crew.good v, by rw [ho]; exact Option.some_ne_none o, rfl, rfl, rfl, rfl⟩
    · rw [Debt.detached_good]; exact steady_parting (h.crew.steady v) _
  exact LawfulBut.setVehicle h hcrew rfl rfl rfl fun e => absurd e (h.ne_setup_of_state hm)

theorem Parting.order {P : VehicleRec → Prop} {x r : VehicleRec} (h : Parting P x r) : r.order = none := by
  obtain ⟨r₀, -, -, -, -, -, rfl⟩ := h; rfl

theorem Parting.idled {P : VehicleRec → Prop} {x r : VehicleRec} (h : Parting P x r) (hP : Steady P)
    (hx : (x.state = .offered ∧ x.carrier = .none) ∨ x.state = .toSource) (n : Word) : P (r.idled n) := by
  obtain ⟨r₀, hr, ho, hs, hc, -, rfl⟩ := h
  have hb := hP.release r₀ n hr ho
  rcases hx with ⟨hst, hca⟩ | hst
  · rwa [VehicleRec.bereft, hs, hst, hc, hca] at hb
  · rwa [VehicleRec.bereft, hs, hst] at hb

theorem Parting.loaded {P : VehicleRec → Prop} {x r : VehicleRec} (h : Parting P x r) (hP : Steady P)
    (hx : (x.state = .offered ∧ x.carrier ≠ .none) ∨ x.state = .toDest) : P (r.loaded x.carrier) := by
  obtain ⟨r₀, hr, ho, hs, hc, -, rfl⟩ := h
  have hb := hP.release r₀ 0 hr ho
  rcases hx with ⟨hst, hca⟩ | hst
  · rwa [VehicleRec.bereft, hs, hst, hc, if_neg hca] at hb
  · rwa [VehicleRec.bereft, hs, hst, hc] at hb

/-- A vehicle whose record does not move when its order is lost. -/
theorem LawfulBut.forget {vs : List VehicleId} (h : LawfulBut (d.freeing o (v :: vs)) s) (ho : (s.vehicle v).order = some o)
    (hgood : d.crew.good v (s.vehicle v).parted) : LawfulBut (d.freeing o vs) (s.setVehicle v (s.vehicle v).parted) := by
  have hnames (x) (hn : s.Names x v) : d.crew.orphan v x := by
    refine (h.crew.named v x hn).resolve_left fun e => ?_
    rw [ho] at e
    exact h.crew.unnamed v o (.inr rfl) (Option.some.inj e ▸ hn)
  have hcrew : Crew (d.freeing o vs).crew (s.setVehicle v (s.vehicle v).parted) := by
    refine h.crew.setVehicle (fun _ _ => rfl) (fun _ _ => id) (fun w x hw hg => ?_) (fun _ _ _ => id) (fun _ _ => id)
      hgood (h.crew.steady v) (h.crew.pinned v) (fun _ _ => id) (fun x hx => by cases hx) (fun x hn => .inr (hnames x hn))
      fun x y _ horph hy hyv => absurd (hnames x ⟨y, hy, hyv⟩) horph
    exact hg.imp_right fun e => ⟨e.1, (List.mem_cons.mp e.2).resolve_left hw⟩
  exact LawfulBut.setVehicle h hcrew rfl rfl rfl fun e => (h.site.setup e).1 v

theorem noteWithdraw_keeps_mode (s : State) (v o c) : (s.noteWithdraw v o c).mode = s.mode := by
  unfold State.noteWithdraw State.notifyOwner; split <;> simp

theorem releaseVehicleOf_lawful (k : rd.KeepsLaws inert) (hk : rd.Keeps) (hd : ∀ v, d.crew.inert v → inert)
    {vs : List VehicleId} (h : LawfulBut (d.freeing o (v :: vs)) s) (hclean : inert ∨ (s.vehicle v).flips = []) :
    LawfulBut (d.freeing o vs) (State.releaseVehicleOf rd o v s) := by
  have hsteady : Steady ((d.freeing o vs).crew.good v) := h.crew.steady v
  have hpin : (d.freeing o vs).crew.pin v ≠ none → (s.vehicle v).flips ≠ [] → (d.freeing o vs).crew.inert v :=
    fun hp hf => (h.crew.pinned v hp).resolve_left hf
  have hi : (s.vehicle v).flips ≠ [] → inert := fun hf => hclean.resolve_right hf
  unfold State.releaseVehicleOf
  dsimp only
  split
  · next ho =>
    have hpart (hm : (s.vehicle v).state ≠ .offline) :=
      (h.part (i := (s.vehicle v).flips ≠ []) ho (em _) hm).noteWithdraw v o .integrity
    have hm (hst : (s.vehicle v).state ≠ .offline) :
        ((s.setVehicle v { s.vehicle v with order := none, offer := none }).noteWithdraw v o .integrity).mode ≠ .setup := by
      rw [noteWithdraw_keeps_mode]; exact h.ne_setup_of_state hst
    have hbereft := hsteady.release _ 0 (h.crew.good v) (by rw [ho]; exact Option.some_ne_none o)
    have hidle (hst : (s.vehicle v).state ≠ .offline)
        (hx : ((s.vehicle v).state = .offered ∧ (s.vehicle v).carrier = .none) ∨ (s.vehicle v).state = .toSource) :=
      LawfulBut.enterIdle (d := d.freeing o vs) k hk hd hi (hpart hst) (steady_parting hsteady _)
        (fun r n hr => hr.idled hsteady hx n) hsteady hpin
        (fun r x hr hx => by rw [hr.order] at hx; cases hx) (hm hst)
    have hloaded (hst : (s.vehicle v).state ≠ .offline)
        (hx : ((s.vehicle v).state = .offered ∧ (s.vehicle v).carrier ≠ .none) ∨ (s.vehicle v).state = .toDest) :=
      LawfulBut.enterLoadedIdle (d := d.freeing o vs) (hpart hst) (s.vehicle v).carrier (fun r hr => hr.loaded hsteady hx)
        hsteady hpin (fun r x hr hx => by rw [hr.order] at hx; cases hx) (hm hst)
    split
    · next hst =>
      have hne : (s.vehicle v).state ≠ .offline := by rw [hst]; exact VState.noConfusion
      split
      · next hc => exact (hidle hne (.inl ⟨hst, hc⟩)).noteVehicle _ _
      · next hc => exact (hloaded hne (.inl ⟨hst, hc⟩)).noteVehicle _ _
    · next hst => exact (hidle (by rw [hst]; exact VState.noConfusion) (.inr hst)).noteVehicle _ _
    · next hst => exact (hloaded (by rw [hst]; exact VState.noConfusion) (.inr hst)).noteVehicle _ _
    · next hst =>
      have hne : (s.vehicle v).state ≠ .offline := by rw [hst]; exact VState.noConfusion
      split
      · next hsaved =>
        refine LawfulBut.arrive (d := d.freeing o vs) (hpart hne) ?_ hsteady hpin (fun x hx => ?_) ?_ rfl rfl rfl (hm hne)
        · rw [VehicleRec.bereft, hst, hsaved] at hbereft
          rw [noteWithdraw_at_vehicle, setVehicle_same]
          exact hbereft
        · rw [noteWithdraw_at_vehicle, setVehicle_same] at hx; cases hx
        · rw [noteWithdraw_at_vehicle, setVehicle_same]
      · next hsaved =>
        rw [VehicleRec.bereft, hst] at hbereft
        have hgood : (d.freeing o vs).crew.good v (s.vehicle v).parted := by simpa only [hsaved, if_false] using hbereft
        exact (h.forget ho hgood).noteWithdraw v o .integrity
    · next h1 h2 h3 h4 =>
      have e : (s.vehicle v).bereft 0 = (s.vehicle v).parted := by
        unfold VehicleRec.bereft
        split
        · next hst => exact absurd hst h1
        · next hst => exact absurd hst h2
        · next hst => exact absurd hst h3
        · next hst => exact absurd hst h4
        · rfl
      exact (h.forget ho (e ▸ hbereft)).noteWithdraw v o .integrity
  · next ho =>
    have hcrew : Crew (d.freeing o vs).crew (s.setVehicle v (s.vehicle v)) := by
      refine h.crew.setVehicle (fun _ _ => rfl) (fun _ _ => id) (fun w x hw hg => ?_) (fun _ _ _ => id) (fun _ _ => id)
        (h.crew.good v) hsteady (h.crew.pinned v) (fun _ _ => id) (fun x hx => ?_) (h.crew.named v) (h.crew.fits v)
      · exact hg.imp_right fun e => ⟨e.1, (List.mem_cons.mp e.2).resolve_left hw⟩
      · exact (h.crew.points v x hx).imp_right fun hg => hg.imp_right fun e => absurd (e.1 ▸ hx) ho
    have hset := LawfulBut.setVehicle h hcrew rfl rfl rfl fun e => (h.site.setup e).1 v
    rwa [setVehicle_vehicle] at hset

theorem releaseVehiclesOf_lawful (k : rd.KeepsLaws inert) (hk : rd.Keeps) (hinert : ∀ v, ¬ d.crew.inert v) :
    ∀ (vs : List VehicleId) {s : State}, LawfulBut (d.freeing o vs) s →
      LawfulBut (d.freeing o []) (State.releaseVehiclesOf rd o vs s)
  | [], _, h => h
  | v :: vs, s, h => by
    have hd : ∀ w, d.crew.inert w → inert := fun w e => absurd e (hinert w)
    have hread := k.laws (d.freeing o (v :: vs)) (.vehicle v) s hd h
    refine releaseVehiclesOf_lawful k hk hinert vs (releaseVehicleOf_lawful k hk hd hread ?_)
    by_cases hi : inert
    · exact .inl hi
    · exact .inr (k.clean (d.freeing o (v :: vs)) v s hi hinert h)

/-- R141: an order that no event holds as it is. -/
theorem repairOrder_lawful (k : rd.KeepsLaws inert) (hk : rd.Keeps) (hinert : ∀ v, ¬ d.crew.inert v) (h : LawfulBut d s)
    (hkept : ∀ x, ¬ d.book.kept o x) : LawfulBut d (s.repairOrder rd o) := by
  have hfree : LawfulBut (d.freeing o allVehicles) (s.freeOrder o) :=
    h.freeOrder hkept (fun _ _ _ => .inl) (fun w _ => .inr ⟨rfl, mem_allVehicles w⟩) fun w x hx hu => hu.resolve_right hx
  have hdone := releaseVehiclesOf_lawful k hk hinert allVehicles (hfree.notifyWhere (·.role = .scheduler) (.orderLost o s.fabClock))
  exact hdone.mono hdone.rail (hdone.crew.mono (fun _ _ => id) h.crew.steady hdone.crew.pinned (fun _ => id)
    (fun w x hg => hg.resolve_right fun e => List.not_mem_nil e.2) (fun _ _ => id) fun _ _ => .inl) hdone.book rfl

/-! ## Checked reads (R132, R142) -/

theorem checkBlock_correctable_or {x : BlockRec} (hf : x.flips ≠ []) (hn : x.flips.length ≤ 2) :
    checkBlock x = .correctable x ∨ checkBlock x = .uncorrectable := by
  have hpos := List.length_pos_iff.mpr hf
  unfold checkBlock
  rcases (by omega : x.flips.length = 1 ∨ x.flips.length = 2) with e | e <;> simp [e]

theorem checkVehicle_correctable_or {x : VehicleRec} (hf : x.flips ≠ []) (hn : x.flips.length ≤ 2) :
    checkVehicle x = .correctable x ∨ checkVehicle x = .uncorrectable := by
  have hpos := List.length_pos_iff.mpr hf
  unfold checkVehicle
  rcases (by omega : x.flips.length = 1 ∨ x.flips.length = 2) with e | e <;> simp [e]

theorem checkOrder_correctable_or {x : OrderRec} (hf : x.flips ≠ []) (hn : x.flips.length ≤ 2) :
    checkOrder x = .correctable x ∨ checkOrder x = .uncorrectable := by
  have hpos := List.length_pos_iff.mpr hf
  unfold checkOrder
  rcases (by omega : x.flips.length = 1 ∨ x.flips.length = 2) with e | e <;> simp [e]

theorem readWith_block (k : rd.KeepsLaws inert) (f : Finder) (hinert : ∀ v, ¬ d.crew.inert v) (b : BlockId)
    (h : LawfulBut d s) : LawfulBut d (s.readWith rd f (.block b)).1 := by
  unfold State.readWith
  dsimp only
  split
  · exact h
  · next hf =>
    rcases checkBlock_correctable_or hf (h.few.1 b) with e | e <;> rw [e]
    · have hset : LawfulBut d (s.setBlock b { s.block b with flips := [] }) :=
        h.ofRail (h.rail.setBlock rfl rfl rfl) (h.crew.congr (fun _ => rfl) fun _ => rfl) (fun _ => rfl) rfl rfl rfl rfl rfl rfl rfl
          (fewFlips_setBlock h.few b (Nat.zero_le _))
      exact hset.countCorrection _ _
    · exact ((h.captureError _ _ _).notifyIntegrity _ _ _ _).repairBlock k (fun w e => absurd e (hinert w)) b

/-- A vehicle record that its read does not leave alone is no event's own. -/
theorem LawfulBut.pin_none (h : LawfulBut d s) (hinert : ∀ v, ¬ d.crew.inert v) (hf : (s.vehicle v).flips ≠ []) :
    d.crew.pin v = none := by
  by_contra hp
  exact (h.crew.pinned v hp).elim hf (hinert v)

theorem LawfulBut.lost_none (h : LawfulBut d s) (hf : (s.vehicle v).flips ≠ []) : d.rail.lost v = none := by
  by_contra hl
  obtain ⟨L, hL⟩ := Option.ne_none_iff_exists'.mp hl
  exact hf (h.rail.lost v L hL).2

theorem CrewDebt.good_regular {c : CrewDebt} (hp : c.pin v = none) : c.good v = VehicleRec.Regular := by
  rw [CrewDebt.good, hp]; rfl

theorem readWith_vehicle (k : rd.KeepsLaws inert) (hk : rd.Keeps) (f : Finder) (hinert : ∀ v, ¬ d.crew.inert v) (v : VehicleId)
    (h : LawfulBut d s) :
    LawfulBut d (s.readWith rd f (.vehicle v)).1 ∧ ((s.readWith rd f (.vehicle v)).1.vehicle v).flips = [] := by
  unfold State.readWith
  dsimp only
  split
  · next hf => exact ⟨h, hf⟩
  · next hf =>
    have hpin := h.pin_none hinert hf
    rcases checkVehicle_correctable_or hf (h.few.2.1 v) with e | e <;> rw [e]
    · have hgood : d.crew.good v { s.vehicle v with flips := [] } := by
        have hgood := h.crew.good v
        rw [CrewDebt.good_regular hpin] at hgood ⊢
        obtain ⟨h1, h2, h3, h4, h5, h6, h7, h8, h9, h10⟩ := hgood
        exact ⟨h1, h2, h3, h4, h5, h6, h7, h8, h9, h10⟩
      have hset : LawfulBut d (s.setVehicle v { s.vehicle v with flips := [] }) :=
        ⟨h.rail.setVehicle rfl rfl fun _ => rfl, h.crew.revise hgood (fun _ => .inl rfl) rfl rfl,
          h.book.congr (fun _ => rfl) rfl fun _ => rfl, h.site.setVehicle fun hm => (h.site.setup hm).1 v,
          fewFlips_setVehicle h.few v (Nat.zero_le _)⟩
      refine ⟨hset.countCorrection _ _, ?_⟩
      show ((State.captureError _ _ _ _).vehicle v).flips = []
      rw [captureError_at_vehicle]
      exact congrArg VehicleRec.flips (setVehicle_same ..)
    · exact repairVehicle_lawful k hk f ((h.captureError _ _ _).notifyIntegrity _ _ _ _) hinert (h.lost_none hf) hpin

theorem readWith_order (k : rd.KeepsLaws inert) (hk : rd.Keeps) (f : Finder) (hinert : ∀ v, ¬ d.crew.inert v) (o : Slot)
    (h : LawfulBut d s) : LawfulBut d (s.readWith rd f (.order o)).1 := by
  unfold State.readWith
  dsimp only
  cases hr : s.order o with
  | none => exact h
  | some x =>
    dsimp only
    split
    · exact h
    · next hf =>
      have hkept := h.book.not_kept hr (.inr hf)
      rcases checkOrder_correctable_or hf (h.few.2.2 o x hr) with e | e <;> rw [e]
      · obtain ⟨h1, h2, h3, h4⟩ := h.book.sound o x hr
        have hset : LawfulBut d (s.setOrder o (some { x with flips := [] })) :=
          h.rewrite hr ⟨h1, h2, h3, h4⟩ rfl rfl (fun _ => rfl) rfl (fun _ _ => Iff.rfl) (Nat.zero_le _) hkept
        exact hset.countCorrection _ _
      · exact repairOrder_lawful k hk hinert ((h.captureError _ _ _).notifyIntegrity _ _ _ _) hkept

theorem readWith_lawful (k : rd.KeepsLaws inert) (hk : rd.Keeps) (f : Finder) (hinert : ∀ v, ¬ d.crew.inert v) (r : RecRef)
    (h : LawfulBut d s) : LawfulBut d (s.readWith rd f r).1 := by
  cases r with
  | block b => exact readWith_block k f hinert b h
  | vehicle v => exact (readWith_vehicle k hk f hinert v h).1
  | order o => exact readWith_order k hk f hinert o h

/-- R142: reads nested to any depth. At depth 0 nothing is read. -/
theorem readNested_keepsLaws : ∀ (n : Nat) (f : Finder), (readNested n f).KeepsLaws (n = 0)
  | 0, _ => ⟨fun _ _ _ _ h => h, fun _ _ _ hn => absurd rfl hn⟩
  | n + 1, f => by
    have k := readNested_keepsLaws n .access
    refine ⟨fun d r s hd h => readWith_lawful k (readNested_keeps n .access) f (fun v hi => Nat.succ_ne_zero n (hd v hi)) r h,
      fun d v s _ hinert h => (readWith_vehicle k (readNested_keeps n .access) f hinert v h).2⟩

theorem readOf_keepsLaws (f : Finder) : (readNested cascadeDepth f).KeepsLaws False := by
  obtain ⟨laws, clean⟩ := readNested_keepsLaws cascadeDepth f
  exact ⟨fun d r s hd => laws d r s fun v hi => (hd v hi).elim, fun d v s _ => clean d v s (by decide)⟩

theorem read_keepsLaws : read.KeepsLaws False := readOf_keepsLaws .access

end Sys2Proof.Machine
end

section
/-! The reads of an event (R132), and what an event owes of the one vehicle it is about. -/

namespace Sys2Proof.Machine

variable {s t u : State} {d : Debt} {v : VehicleId} {o : Slot} {b : BlockId}

/-! ## The laws across a read -/

namespace LawfulBut

theorem read (h : LawfulBut d s) (hi : ∀ v, ¬ d.crew.inert v) (r : RecRef) : LawfulBut d (Machine.read r s).1 :=
  read_keepsLaws.laws d r s hi h

theorem readBlock (h : LawfulBut d s) (hi : ∀ v, ¬ d.crew.inert v) (b : BlockId) : LawfulBut d (s.readBlock b).1 := h.read hi _
theorem readVehicle (h : LawfulBut d s) (hi : ∀ v, ¬ d.crew.inert v) (v : VehicleId) : LawfulBut d (s.readVehicle v).1 :=
  h.read hi _
theorem readOrder (h : LawfulBut d s) (hi : ∀ v, ¬ d.crew.inert v) (o : Slot) : LawfulBut d (s.readOrder o).1 := h.read hi _

theorem readAll (h : LawfulBut d s) (hi : ∀ v, ¬ d.crew.inert v) (rs : List RecRef) :
    LawfulBut d (Machine.readAll Machine.read rs s).1 :=
  read_keepsLaws.readAll hi rs h

theorem readUntilBad (h : LawfulBut d s) (hi : ∀ v, ¬ d.crew.inert v) (rs : List RecRef) :
    LawfulBut d (Machine.readUntilBad Machine.read rs s).1 :=
  read_keepsLaws.readUntilBad hi rs h

theorem readVehicle_flips (h : LawfulBut d s) (hi : ∀ v, ¬ d.crew.inert v) (v : VehicleId) :
    ((s.readVehicle v).1.vehicle v).flips = [] :=
  read_keepsLaws.clean d v s id hi h

theorem readOrderOf (h : LawfulBut d s) (hi : ∀ v, ¬ d.crew.inert v) (v : VehicleId) : LawfulBut d (s.readOrderOf v).1 := by
  unfold State.readOrderOf; split
  · exact h.readOrder hi _
  · exact h

end LawfulBut

/-! ## Reads that find nothing uncorrectable -/

/-- Records corrected and counted, nothing else that the laws or a request look at. -/
structure Corrected (s t : State) : Prop where
  block : ∀ b, ∃ f, t.block b = { s.block b with flips := f }
  vehicle : ∀ v, ∃ f, t.vehicle v = { s.vehicle v with flips := f } ∧ ((s.vehicle v).flips = [] → f = [])
  order : ∀ o, ∃ g : OrderRec → List Nat, t.order o = (s.order o).map (fun r => { r with flips := g r }) ∧
    ∀ r, r.flips = [] → g r = []
  ports : t.ports = s.ports
  queues : t.queues = s.queues

namespace Corrected

theorem refl (s : State) : Corrected s s :=
  ⟨fun _ => ⟨_, rfl⟩, fun _ => ⟨_, rfl, id⟩, fun o => ⟨OrderRec.flips, by cases s.order o <;> rfl, fun _ => id⟩, rfl, rfl⟩

theorem trans (h : Corrected s t) (g : Corrected t u) : Corrected s u := by
  refine ⟨fun b => ?_, fun v => ?_, fun o => ?_, g.ports.trans h.ports, g.queues.trans h.queues⟩
  · obtain ⟨f, e⟩ := h.block b
    obtain ⟨f', e'⟩ := g.block b
    exact ⟨f', by rw [e', e]⟩
  · obtain ⟨f, e, hf⟩ := h.vehicle v
    obtain ⟨f', e', hf'⟩ := g.vehicle v
    exact ⟨f', by rw [e', e], fun hs => hf' (by rw [e]; exact hf hs)⟩
  · obtain ⟨f, e, hf⟩ := h.order o
    obtain ⟨f', e', hf'⟩ := g.order o
    refine ⟨fun r => f' { r with flips := f r }, ?_, fun r hr => hf' _ (hf r hr)⟩
    rw [e', e]; cases s.order o <;> rfl

theorem holder (h : Corrected s t) (b) : (t.block b).holder = (s.block b).holder := by obtain ⟨f, e⟩ := h.block b; rw [e]
theorem frozen (h : Corrected s t) (b) : (t.block b).frozen = (s.block b).frozen := by obtain ⟨f, e⟩ := h.block b; rw [e]
theorem state (h : Corrected s t) (v) : (t.vehicle v).state = (s.vehicle v).state := by obtain ⟨f, e, -⟩ := h.vehicle v; rw [e]
theorem vehicleOrder (h : Corrected s t) (v) : (t.vehicle v).order = (s.vehicle v).order := by
  obtain ⟨f, e, -⟩ := h.vehicle v; rw [e]
theorem holds (h : Corrected s t) (v) : (t.vehicle v).holds = (s.vehicle v).holds := by
  obtain ⟨f, e, -⟩ := h.vehicle v; rw [e]

theorem flips (h : Corrected s t) (hv : (s.vehicle v).flips = []) : (t.vehicle v).flips = [] := by
  obtain ⟨f, e, hf⟩ := h.vehicle v; rw [e]; exact hf hv

/-- The order is the same but for a check word that agrees. -/
theorem sameOrder (h : Corrected s t) {r : OrderRec} (hr : s.order o = some r) (hf : r.flips = []) : t.order o = some r := by
  obtain ⟨g, e, hg⟩ := h.order o
  rw [e, hr, Option.map_some, hg r hf, ← hf]

end Corrected

theorem corrected_countCorrection (s : State) (r f) : Corrected s (s.countCorrection r f) := by
  refine ⟨fun b => ⟨(s.block b).flips, ?_⟩, fun v => ⟨(s.vehicle v).flips, ?_, id⟩, fun o => ⟨OrderRec.flips, ?_, fun _ => id⟩, ?_, ?_⟩
  · exact captureError_at_block ..
  · exact captureError_at_vehicle ..
  · exact (captureError_at_order ..).trans (by show s.order o = _; cases s.order o <;> rfl)
  · unfold State.countCorrection State.captureError; split <;> rfl
  · unfold State.countCorrection State.captureError; split <;> rfl

theorem corrected_setBlock (s : State) (b : BlockId) (f) : Corrected s (s.setBlock b { s.block b with flips := f }) := by
  refine ⟨fun c => ?_, fun v => ⟨_, rfl, id⟩, fun o => ⟨OrderRec.flips, by show s.order o = _; cases s.order o <;> rfl, fun _ => id⟩,
    rfl, rfl⟩
  rw [setBlock_read]; split
  · next e => exact ⟨f, by rw [e]⟩
  · exact ⟨_, rfl⟩

theorem corrected_setVehicle (s : State) (v : VehicleId) : Corrected s (s.setVehicle v { s.vehicle v with flips := [] }) := by
  refine ⟨fun b => ⟨_, rfl⟩, fun w => ?_, fun o => ⟨OrderRec.flips, by show s.order o = _; cases s.order o <;> rfl, fun _ => id⟩,
    rfl, rfl⟩
  rw [setVehicle_read]; split
  · next e => exact ⟨[], by rw [e], fun _ => rfl⟩
  · exact ⟨_, rfl, id⟩

theorem corrected_setOrder {r : OrderRec} (hr : s.order o = some r) : Corrected s (s.setOrder o (some { r with flips := [] })) := by
  refine ⟨fun b => ⟨_, rfl⟩, fun w => ⟨_, rfl, id⟩, fun x => ?_, rfl, rfl⟩
  rw [setOrder_read]; split
  · next e => subst e; exact ⟨fun _ => [], by rw [hr]; rfl, fun _ _ => rfl⟩
  · exact ⟨OrderRec.flips, by cases s.order x <;> rfl, fun _ => id⟩

/-- A read of a record with at most two bits flipped that finds it correctable, or clean. -/
theorem read_corrected (hf : s.fewFlips) (r : RecRef) (hb : (read r s).2 = false) : Corrected s (read r s).1 := by
  rw [read_step] at hb ⊢
  unfold State.readWith at hb ⊢
  cases r with
  | block b =>
    dsimp only at hb ⊢
    split at hb
    · next e => rw [if_pos e]; exact .refl s
    · next e =>
      rw [if_neg e]
      rcases checkBlock_correctable_or e (hf.1 b) with e' | e' <;> rw [e'] at hb ⊢
      · exact (corrected_setBlock s b []).trans (corrected_countCorrection ..)
      · cases hb
  | vehicle v =>
    dsimp only at hb ⊢
    split at hb
    · next e => rw [if_pos e]; exact .refl s
    · next e =>
      rw [if_neg e]
      rcases checkVehicle_correctable_or e (hf.2.1 v) with e' | e' <;> rw [e'] at hb ⊢
      · exact (corrected_setVehicle s v).trans (corrected_countCorrection ..)
      · cases hb
  | order o =>
    dsimp only at hb ⊢
    cases hr : s.order o with
    | none => exact .refl s
    | some x =>
      rw [hr] at hb
      dsimp only at hb ⊢
      split at hb
      · next e => rw [if_pos e]; exact .refl s
      · next e =>
        rw [if_neg e]
        rcases checkOrder_correctable_or e (hf.2.2 o x hr) with e' | e' <;> rw [e'] at hb ⊢
        · exact (corrected_setOrder hr).trans (corrected_countCorrection ..)
        · cases hb

/-- The order just read, when it was not found uncorrectable. -/
theorem readOrder_flips (hf : s.fewFlips) (hb : (s.readOrder o).2 = false) {r : OrderRec}
    (hr : (s.readOrder o).1.order o = some r) : r.flips = [] := by
  rw [State.readOrder, read_step] at hb hr
  unfold State.readWith at hb hr
  dsimp only at hb hr
  cases hx : s.order o with
  | none => rw [hx] at hr; cases hx.symm.trans hr
  | some x =>
    rw [hx] at hb hr
    dsimp only at hb hr
    split at hb
    · next e =>
      rw [if_pos e] at hr
      obtain rfl := Option.some.inj (hx.symm.trans hr)
      exact e
    · next e =>
      rw [if_neg e] at hr
      rcases checkOrder_correctable_or e (hf.2.2 o x hx) with e' | e' <;> rw [e'] at hb hr
      · have hsame : ((s.setOrder o (some { x with flips := [] })).countCorrection (.order o) .access).order o =
            some { x with flips := [] } := (captureError_at_order ..).trans (setOrder_same ..)
        obtain rfl := Option.some.inj (hsame.symm.trans hr)
        rfl
      · cases hb

theorem readUntilBad_corrected : ∀ (rs : List RecRef) {s : State}, LawfulBut .zero s →
    (readUntilBad read rs s).2 = false → Corrected s (readUntilBad read rs s).1
  | [], s, _, _ => .refl s
  | r :: rs, s, h, hb => by
    rw [readUntilBad] at hb ⊢
    dsimp only at hb ⊢
    split at hb
    · cases hb
    · next e =>
      rw [if_neg e]
      exact (read_corrected h.few r (by simpa using e)).trans (readUntilBad_corrected rs (h.read (fun _ => id) r) hb)

end Sys2Proof.Machine
end

section
/-! What an event owes of the one vehicle it is about, taken up, changed and paid. -/

namespace Sys2Proof.Machine

variable {s t : State} {d : Debt} {v : VehicleId} {o : Slot}

/-- The event has read the vehicle's record, of which `Q` now holds. `apart`: its state and its order's need not fit; `gone`: the
orders it may name that are not its own; `orphan`: the orders that may name it without its naming them; `unnamed`: which
orders do not name which vehicles. -/
def Debt.about (v : VehicleId) (Q : VehicleRec → Prop) (apart : Prop) (gone orphan : Slot → Prop)
    (unnamed : VehicleId → Slot → Prop) : Debt :=
  { Debt.zero with crew :=
    { pin := Function.update (fun _ => none) v (some Q)
      apart := fun w => w = v ∧ apart
      gone := fun w o => w = v ∧ gone o
      orphan := fun w o => w = v ∧ orphan o
      unnamed := unnamed
      inert := fun _ => False } }

/-- The event has its vehicle's record in hand, nothing else. -/
abbrev Debt.hold (v : VehicleId) (Q : VehicleRec → Prop) : Debt :=
  .about v Q False (fun _ => False) (fun _ => False) fun _ _ => False

/-- Watched and still owed of a vehicle whose record is regular again. -/
def Debt.owing (v : VehicleId) (orphan : Slot → Prop) (unnamed : VehicleId → Slot → Prop) : Debt :=
  { Debt.zero with crew :=
    { Debt.zero.crew with
      orphan := fun w o => w = v ∧ orphan o
      unnamed := unnamed } }

section About

variable {Q Q' : VehicleRec → Prop} {a a' : Prop} {g g' p p' : Slot → Prop}
  {u u' : VehicleId → Slot → Prop}

theorem about_good : (Debt.about v Q a g p u).crew.good v = Q := by simp [CrewDebt.good, Debt.about]

theorem about_good_other {w : VehicleId} (hw : w ≠ v) : (Debt.about v Q a g p u).crew.good w = VehicleRec.Regular := by
  simp [CrewDebt.good, Debt.about, Function.update_of_ne hw]

theorem about_pin_other {w : VehicleId} (hw : w ≠ v) : (Debt.about v Q a g p u).crew.pin w = none := by
  simp [Debt.about, Function.update_of_ne hw]

theorem zero_good (w : VehicleId) : Debt.zero.crew.good w = VehicleRec.Regular := rfl

theorem about_inert (w : VehicleId) : ¬ (Debt.about v Q a g p u).crew.inert w := id

namespace LawfulBut

theorem regular (h : LawfulBut .zero s) (v : VehicleId) : (s.vehicle v).Regular := h.crew.good v

theorem held (h : LawfulBut (.about v Q a g p u) s) : Q (s.vehicle v) := by
  have hgood := h.crew.good v
  rwa [about_good] at hgood

theorem held_steady (h : LawfulBut (.about v Q a g p u) s) : Steady Q := by
  have hsteady := h.crew.steady v
  rwa [about_good] at hsteady

theorem held_flips (h : LawfulBut (.about v Q a g p u) s) : (s.vehicle v).flips = [] :=
  (h.crew.pinned v (by simp [Debt.about])).resolve_right id

/-- The event takes the vehicle in hand. -/
theorem take (h : LawfulBut .zero s) (hf : (s.vehicle v).flips = []) (hQ : Steady Q) (hv : Q (s.vehicle v)) :
    LawfulBut (.hold v Q) s := by
  refine h.mono h.rail ⟨fun w => ?_, fun w => ?_, fun w hw => .inl ?_, fun w x hx => (h.crew.points w x hx).imp_right False.elim,
    fun w x hx => (h.crew.named w x hx).imp_right False.elim, h.crew.once, fun w x hu => hu.elim,
    fun w x r ha hp => h.crew.fits w x r id id⟩ h.book rfl
  · rcases eq_or_ne w v with rfl | hne
    · rw [about_good]; exact hv
    · rw [about_good_other hne]; exact h.crew.good w
  · rcases eq_or_ne w v with rfl | hne
    · rw [about_good]; exact hQ
    · rw [about_good_other hne]; exact steady_regular
  · rcases eq_or_ne w v with rfl | hne
    · exact hf
    · exact absurd (about_pin_other hne) hw

/-- More is owed, less watched, and something else is known of the vehicle. -/
theorem about_mono (h : LawfulBut (.about v Q a g p u) s) (hQ : Steady Q') (hv : Q' (s.vehicle v)) (ha : a → a')
    (hg : ∀ o, g o → g' o) (hp : ∀ o, p o → p' o) (hu : ∀ w o, u' w o → u w o ∨ ¬ s.Names o w) :
    LawfulBut (.about v Q' a' g' p' u') s := by
  refine h.mono h.rail ⟨fun w => ?_, fun w => ?_, fun w hw => .inl ?_,
    fun w x hx => (h.crew.points w x hx).imp_right fun e => ⟨e.1, hg x e.2⟩,
    fun w x hx => (h.crew.named w x hx).imp_right fun e => ⟨e.1, hp x e.2⟩, h.crew.once,
    fun w x e => (hu w x e).elim (h.crew.unnamed w x) id,
    fun w x r hna hnp => h.crew.fits w x r (fun e => hna ⟨e.1, ha e.2⟩) fun e => hnp ⟨e.1, hp x e.2⟩⟩ h.book rfl
  · rcases eq_or_ne w v with rfl | hne
    · rw [about_good]; exact hv
    · rw [about_good_other hne, ← about_good_other hne]; exact h.crew.good w
  · rcases eq_or_ne w v with rfl | hne
    · rw [about_good]; exact hQ
    · rw [about_good_other hne]; exact steady_regular
  · rcases eq_or_ne w v with rfl | hne
    · exact h.held_flips
    · exact absurd (about_pin_other hne) hw

theorem repin (h : LawfulBut (.about v Q a g p u) s) (hQ : Steady Q') (hv : Q' (s.vehicle v)) :
    LawfulBut (.about v Q' a g p u) s :=
  h.about_mono hQ hv id (fun _ => id) (fun _ => id) fun _ _ => .inl

/-- The event writes its vehicle's record, the holding list and the wait as they are. -/
theorem writeVehicle (h : LawfulBut (.about v Q a g p u) s) {r : VehicleRec} (hQ : Steady Q') (hv : Q' r)
    (hholds : r.holds = (s.vehicle v).holds) (hwait : r.waitingOn = (s.vehicle v).waitingOn)
    (hflips : r.flips = (s.vehicle v).flips) (hm : s.mode = .setup → r.state = .offline)
    (hpoints : ∀ o, r.order = some o → s.Names o v ∨ g' o) (hnamed : ∀ o, s.Names o v → r.order = some o ∨ p' o)
    (hun : ∀ w o, u' w o → u w o)
    (hfits : ∀ o x, ¬ a' → ¬ p' o → s.order o = some x → x.vehicle = some v → Fits x.state r.state) :
    LawfulBut (.about v Q' a' g' p' u') (s.setVehicle v r) := by
  have hcrew : Crew (Debt.about v Q' a' g' p' u').crew (s.setVehicle v r) := by
    refine h.crew.setVehicle (fun w hw => ?_) (fun w hw e => absurd e.1 hw) (fun w _ hw e => absurd e.1 hw)
      (fun w _ hw e => absurd e.1 hw) hun (by rw [about_good]; exact hv) (by rw [about_good]; exact hQ)
      (fun _ => .inl (hflips.trans h.held_flips)) (fun _ _ => id) (fun x hx => (hpoints x hx).imp_right fun e => ⟨rfl, e⟩)
      (fun x hx => (hnamed x hx).imp_right fun e => ⟨rfl, e⟩)
      fun x y ha hp => hfits x y (fun e => ha ⟨rfl, e⟩) fun e => hp ⟨rfl, e⟩
    exact (about_pin_other hw).trans (about_pin_other hw).symm
  exact LawfulBut.setVehicle h hcrew hholds hwait hflips hm

/-- The record is regular again, the vehicle's orders its own. -/
theorem settleVehicle (h : LawfulBut (.about v Q a g p u) s) {r : VehicleRec} (hr : r.Regular)
    (hholds : r.holds = (s.vehicle v).holds) (hwait : r.waitingOn = (s.vehicle v).waitingOn)
    (hflips : r.flips = (s.vehicle v).flips) (hm : s.mode = .setup → r.state = .offline)
    (hnamed : ∀ o, s.Names o v ↔ r.order = some o)
    (hfits : ∀ o x, s.order o = some x → x.vehicle = some v → Fits x.state r.state) : LawfulBut .zero (s.setVehicle v r) := by
  have hcrew : Crew Debt.zero.crew (s.setVehicle v r) :=
    h.crew.setVehicle (fun w hw => (about_pin_other hw).symm) (fun w hw e => absurd e.1 hw) (fun w _ hw e => absurd e.1 hw)
      (fun w _ hw e => absurd e.1 hw) (fun _ _ => False.elim) hr steady_regular (fun hp => absurd rfl hp) (fun _ _ => id)
      (fun x hx => .inl ((hnamed x).mpr hx)) (fun x hx => .inl ((hnamed x).mp hx)) fun x y _ _ => hfits x y
  exact LawfulBut.setVehicle h hcrew hholds hwait hflips hm

/-- The event lets go of its vehicle. -/
theorem letGo (h : LawfulBut (.about v Q a g p u) s) (hr : (s.vehicle v).Regular) (hm : s.mode = .setup → (s.vehicle v).state = .offline)
    (hnamed : ∀ o, s.Names o v ↔ (s.vehicle v).order = some o)
    (hfits : ∀ o x, s.order o = some x → x.vehicle = some v → Fits x.state (s.vehicle v).state) : LawfulBut .zero s := by
  have hset := h.settleVehicle hr rfl rfl rfl hm hnamed hfits
  rwa [setVehicle_vehicle] at hset

theorem hold_names (h : LawfulBut (.hold v Q) s) (o : Slot) : s.Names o v ↔ (s.vehicle v).order = some o :=
  ⟨fun hn => (h.crew.named v o hn).resolve_right And.right, fun ho => (h.crew.points v o ho).resolve_right And.right⟩

theorem hold_fits (h : LawfulBut (.hold v Q) s) (o : Slot) (r) (hr : s.order o = some r) (hv : r.vehicle = some v) :
    Fits r.state (s.vehicle v).state := h.crew.fits v o r And.right And.right hr hv

/-- A regular record is let go of as it is. -/
theorem release_hold (h : LawfulBut (.hold v Q) s) (hr : (s.vehicle v).Regular) : LawfulBut .zero s :=
  h.letGo hr (fun hm => (h.site.setup hm).1 v) h.hold_names h.hold_fits

/-! ## Into IDLE and LOADED_IDLE (R59, R60) -/

theorem detached_of_about (h : LawfulBut (.about v Q False g p u) s) : LawfulBut ((Debt.owing v p u).detached v Q False) s := by
  refine h.mono h.rail ⟨fun w => ?_, fun w => ?_, fun w hw => .inl ?_,
    fun w x hx => (h.crew.points w x hx).imp_right fun e => .inr e.1, h.crew.named, h.crew.once, h.crew.unnamed,
    fun w x r _ hp => h.crew.fits w x r And.right hp⟩ h.book rfl
  · rcases eq_or_ne w v with rfl | hne
    · rw [Debt.detached_good]; exact h.held
    · have e : ((Debt.owing v p u).detached v Q False).crew.good w = VehicleRec.Regular := by
        simp [CrewDebt.good, Debt.detached, Debt.owing, Debt.zero, Function.update_of_ne hne]
      rw [e, ← about_good_other hne]; exact h.crew.good w
  · rcases eq_or_ne w v with rfl | hne
    · rw [Debt.detached_good]; exact h.held_steady
    · have e : ((Debt.owing v p u).detached v Q False).crew.good w = VehicleRec.Regular := by
        simp [CrewDebt.good, Debt.detached, Debt.owing, Debt.zero, Function.update_of_ne hne]
      rw [e]; exact steady_regular
  · rcases eq_or_ne w v with rfl | hne
    · exact h.held_flips
    · exact absurd (by simp [Debt.detached, Debt.owing, Debt.zero, Function.update_of_ne hne]) hw

theorem intoIdle (h : LawfulBut (.about v Q False g p u) s) (hgood : ∀ r n, Q r → (r.idled n).Regular)
    (hfree : ∀ r o, Q r → r.order = some o → u v o) (hm : s.mode ≠ .setup) :
    LawfulBut (.owing v p u) (s.enterIdle Machine.read v).1 := by
  exact LawfulBut.enterIdle (d := .owing v p u) read_keepsLaws read_keeps (fun _ => id) id h.detached_of_about h.held_steady hgood
    steady_regular (fun hp => absurd rfl hp) hfree hm

theorem intoLoadedIdle (h : LawfulBut (.about v Q False g p u) s) (c : Carrier) (hgood : ∀ r, Q r → (r.loaded c).Regular)
    (hfree : ∀ r o, Q r → r.order = some o → u v o) (hm : s.mode ≠ .setup) : LawfulBut (.owing v p u) (s.enterLoadedIdle v c) :=
  LawfulBut.enterLoadedIdle (d := .owing v p u) h.detached_of_about c hgood steady_regular (fun hp => absurd rfl hp)
    hfree hm

/-- What is still owed of a vehicle comes to nothing when no order names it amiss. -/
theorem owing_zero (h : LawfulBut (.owing v p u) s) (hp : ∀ o, p o → ¬ s.Names o v) : LawfulBut .zero s := by
  refine h.mono h.rail ⟨h.crew.good, h.crew.steady, h.crew.pinned, h.crew.points, fun w x hx => .inl ?_, h.crew.once,
    fun _ _ => False.elim, fun w x r _ _ hr hw => h.crew.fits w x r id (fun e => ?_) hr hw⟩ h.book rfl
  · exact (h.crew.named w x hx).resolve_right fun e => hp x e.2 (e.1 ▸ hx)
  · exact hp x e.2 (e.1 ▸ ⟨r, hr, hw⟩)

end LawfulBut

end About

/-! ## A vehicle ready to be IDLE -/

/-- The record is regular once its state says so, and it names at most the orders of `F`. -/
structure VehicleRec.Ready (F : Slot → Prop) (r : VehicleRec) : Prop where
  holds : r.holds ≠ []
  owner : r.owner ≠ none
  cause : r.cause = none
  saved : r.saved = none
  offer : r.offer = none
  order : ∀ o, r.order = some o → F o

theorem steady_ready (F : Slot → Prop) : Steady (VehicleRec.Ready F) := by
  refine ⟨fun r h => ⟨h.holds, h.owner, h.cause, h.saved, h.offer, h.order⟩,
    fun r n h => ⟨h.holds, h.owner, h.cause, h.saved, h.offer, h.order⟩, fun r n h _ => ?_⟩
  obtain ⟨holds, owner, cause, saved, offer, order⟩ := h
  unfold VehicleRec.bereft VehicleRec.parted VehicleRec.idled VehicleRec.loaded
  split <;> (try split) <;> (try split) <;> constructor <;> simp_all

theorem VehicleRec.Ready.idled {F : Slot → Prop} {r : VehicleRec} (h : r.Ready F) (n : Word) : (r.idled n).Regular := by
  obtain ⟨holds, owner, cause, saved, offer, order⟩ := h
  unfold VehicleRec.idled
  split <;> constructor <;> simp_all

theorem VehicleRec.Ready.loaded {F : Slot → Prop} {r : VehicleRec} (h : r.Ready F) (c : Carrier) : (r.loaded c).Regular := by
  obtain ⟨holds, owner, cause, saved, offer, order⟩ := h
  unfold VehicleRec.loaded
  constructor <;> simp_all

/-- A working vehicle without an offer running. -/
theorem VehicleRec.Regular.ready {F : Slot → Prop} {r : VehicleRec} (h : r.Regular) (haway : r.state ≠ .offline)
    (hstalled : r.state ≠ .stalled) (hoffered : r.state ≠ .offered) (hF : ∀ o, r.order = some o → F o) : r.Ready F := by
  have hholds : r.holds ≠ [] := fun e => (h.empty e).elim haway fun e => hstalled e.1
  refine ⟨hholds, fun e => hholds (h.owner.mp e), ?_, ?_, ?_, hF⟩
  · by_contra e; exact hstalled (h.cause.mp e)
  · by_contra e; exact hstalled (h.saved e)
  · by_contra e; exact hoffered (h.offer e)

end Sys2Proof.Machine
end

section
/-! The shapes a request's body is built of keep the laws, and so do the handshake's operations on a vehicle and the order it
works (R116 to R128). -/

namespace Sys2Proof.Machine

variable {s t : State} {v : VehicleId} {o : Slot} {r : OrderRec}

/-! ## Writes that the laws do not see -/

theorem VehicleRec.Regular.same {r r' : VehicleRec} (h : r.Regular) (hstate : r'.state = r.state) (hholds : r'.holds = r.holds)
    (hcause : r'.cause = r.cause) (hsaved : r'.saved = r.saved) (hwait : r'.waitingOn = r.waitingOn)
    (hoffer : r'.offer = r.offer) (howner : r'.owner = r.owner) (horder : r'.order = r.order) : r'.Regular := by
  obtain ⟨h1, h2, h3, h4, h5, h6, h7, h8, h9, h10⟩ := h
  constructor <;> simp only [hstate, hholds, hcause, hsaved, hwait, hoffer, howner, horder] <;> assumption

namespace LawfulBut

/-- A vehicle record that changes in its countdowns, its sequence, its drain mark, its carrier or its timed-out offer. -/
theorem quietVehicle (h : LawfulBut .zero s) {r : VehicleRec} (hstate : r.state = (s.vehicle v).state)
    (hholds : r.holds = (s.vehicle v).holds) (hcause : r.cause = (s.vehicle v).cause) (hsaved : r.saved = (s.vehicle v).saved)
    (hwait : r.waitingOn = (s.vehicle v).waitingOn) (hoffer : r.offer = (s.vehicle v).offer)
    (howner : r.owner = (s.vehicle v).owner) (horder : r.order = (s.vehicle v).order) (hflips : r.flips = (s.vehicle v).flips) :
    LawfulBut .zero (s.setVehicle v r) :=
  h.reviseVehicle (d := .zero) ((h.regular v).same hstate hholds hcause hsaved hwait hoffer howner horder) hholds hwait hflips horder
    hstate

theorem restartSilence (h : LawfulBut .zero s) (v : VehicleId) : LawfulBut .zero (s.restartSilence v) := by
  unfold State.restartSilence
  split
  · exact h
  · show LawfulBut .zero (s.setVehicle v (if _ then _ else _))
    split
    · rwa [setVehicle_vehicle]
    · exact h.quietVehicle rfl rfl rfl rfl rfl rfl rfl rfl rfl

theorem accepted (h : LawfulBut .zero s) (v c f) : LawfulBut .zero (s.accepted v c f).1 := h.restartSilence v

/-- R64: the owning link of a vehicle that has a block. -/
theorem setOwner (h : LawfulBut .zero s) (hholds : (s.vehicle v).holds ≠ []) (hm : s.mode ≠ .setup) :
    LawfulBut .zero (s.setOwner v) := by
  obtain ⟨b, rest, hb⟩ := List.exists_cons_of_ne_nil hholds
  have hbm : b ∈ (s.vehicle v).holds := by rw [hb]; exact List.mem_cons_self
  have howner : (s.vehicle v).position.bind s.bayOwner ≠ none := by
    rw [VehicleRec.position, hb]
    exact h.site.owned id (.inl hm) b (h.rail.used v b hbm)
  obtain ⟨h1, h2, h3, h4, h5, h6, h7, h8, -, h10⟩ := h.regular v
  exact h.reviseVehicle (d := .zero) ⟨h1, h2, h3, h4, h5, h6, h7, h8, iff_of_false howner hholds, h10⟩ rfl rfl rfl rfl rfl

end LawfulBut

/-! ## The shapes of a body -/

/-- The laws after a body. -/
abbrev Lawfully (x : State × Answer) : Prop := LawfulBut .zero x.1

theorem inRange_lawful {α : Type} {x : Option α} {go : α → State × Answer} (h : LawfulBut .zero s)
    (hgo : ∀ a, x = some a → Lawfully (go a)) : Lawfully (inRange x s go) := by
  cases x with
  | none => exact h
  | some a => exact hgo a rfl

theorem withVehicle_lawful {damaged : State → List Byte} {go : State → State × Answer} (h : LawfulBut .zero s)
    (hgo : ∀ t, LawfulBut .zero t → (t.vehicle v).flips = [] → Corrected s t → Keeps s t → Lawfully (go t)) :
    Lawfully (s.withVehicle v damaged go) := by
  have hread := h.readVehicle (fun _ => id) v
  unfold State.withVehicle
  dsimp only
  split
  · exact hread
  · next e =>
    exact hgo _ hread (h.readVehicle_flips (fun _ => id) v) (read_corrected h.few _ (Bool.eq_false_iff.mpr e))
      ((Keeps.refl s).readVehicle v)

theorem withOwned_lawful {l : LinkId} {damaged : State → List Byte} {go : State → State × Answer} (h : LawfulBut .zero s)
    (hgo : ∀ t, LawfulBut .zero t → (t.vehicle v).flips = [] → (t.vehicle v).owner = some l → Lawfully (go t)) :
    Lawfully (s.withOwned l v damaged go) := by
  refine withVehicle_lawful h fun t ht hf _ _ => ?_
  split
  · next e => exact hgo t ht hf e
  · exact ht

/-- A vehicle in hand that works an order: each names the other. -/
structure Held (v : VehicleId) (o : Slot) (r : OrderRec) (Q : VehicleRec → Prop) (s : State) : Prop where
  laws : LawfulBut (.hold v Q) s
  order : (s.vehicle v).order = some o
  record : s.order o = some r

namespace Held

variable {Q : VehicleRec → Prop} (w : Held v o r Q s)
include w

theorem vehicle : r.vehicle = some v := by
  obtain ⟨x, hx, hxv⟩ := (w.laws.hold_names o).mpr w.order
  rw [w.record] at hx
  exact Option.some.inj hx ▸ hxv

theorem working : r.state ≠ .queued := fun e => by
  have hv := (w.laws.book.sound o r w.record).idle.mp e
  rw [w.vehicle] at hv; cases hv

theorem fits : Fits r.state (s.vehicle v).state := w.laws.hold_fits o r w.record w.vehicle

theorem named_iff (x : Slot) : s.Names x v ↔ x = o := by
  rw [w.laws.hold_names, w.order, Option.some.injEq, eq_comm]

theorem only (y : VehicleId) (hy : (s.vehicle y).order = some o) : y = v := by
  rcases w.laws.crew.points y o hy with ⟨x, hx, hxy⟩ | hg
  · rw [w.record] at hx
    obtain rfl := Option.some.inj hx
    exact Option.some.inj (hxy.symm.trans w.vehicle)
  · exact hg.1

theorem ne_setup : s.mode ≠ .setup := w.laws.ne_setup_of_order w.record

theorem in_service : (s.vehicle v).state ≠ .offline := by
  rcases w.fits with ⟨-, e⟩ | ⟨-, e⟩ | ⟨-, e | e⟩ <;> rw [e] <;> exact VState.noConfusion

end Held

/-- A vehicle and its order as the laws have them, both read. -/
structure Work (v : VehicleId) (o : Slot) (r : OrderRec) (s : State) : Prop where
  laws : LawfulBut .zero s
  flips : (s.vehicle v).flips = []
  order : (s.vehicle v).order = some o
  record : s.order o = some r
  clean : r.flips = []

theorem Work.hold {Q : VehicleRec → Prop} (w : Work v o r s) (hQ : Steady Q) (hv : Q (s.vehicle v)) : Held v o r Q s :=
  ⟨w.laws.take w.flips hQ hv, w.order, w.record⟩

theorem Work.held (w : Work v o r s) : Held v o r VehicleRec.Regular s := w.hold steady_regular (w.laws.regular v)

theorem withOrderOf_lawful {damaged : State → List Byte} {go : OrderRec → State → State × Answer} (h : LawfulBut .zero s)
    (hf : (s.vehicle v).flips = []) (ho : (s.vehicle v).order = some o)
    (hgo : ∀ r t, Work v o r t → (t.vehicle v).state = (s.vehicle v).state → Lawfully (go r t)) :
    Lawfully (s.withOrderOf v o damaged go) := by
  have hread := h.readOrder (fun _ => id) o
  unfold State.withOrderOf
  dsimp only
  split
  · exact hread.accepted v _ _
  · next e =>
    have hcorr : Corrected s (s.readOrder o).1 := read_corrected h.few (.order o) (Bool.eq_false_iff.mpr e)
    split
    · next r hr =>
      exact hgo r _ ⟨hread, hcorr.flips hf, (hcorr.vehicleOrder v).trans ho, hr, readOrder_flips h.few (Bool.eq_false_iff.mpr e) hr⟩
        (hcorr.state v)
    · exact hread

theorem withOffer_lawful {l : LinkId} {go : OrderRec → State → State × Answer} (h : LawfulBut .zero s)
    (hgo : ∀ r t, Work v o r t → (t.vehicle v).state = .offered → Lawfully (go r t)) : Lawfully (s.withOffer l v o go) := by
  refine withOwned_lawful h fun t ht hf _ => ?_
  split
  · next e => exact withOrderOf_lawful ht hf e.2 fun r u hw hst => hgo r u hw (hst.trans e.1)
  · split
    · exact ht.accepted v _ _
    · exact ht

theorem withWork_lawful {l : LinkId} {must : VState} {damaged : State → List Byte} {go : Slot → OrderRec → State → State × Answer}
    (h : LawfulBut .zero s)
    (hgo : ∀ o r t, Work v o r t → (t.vehicle v).state = must → Lawfully (go o r t)) :
    Lawfully (s.withWork l v must damaged go) := by
  refine withOwned_lawful h fun t ht hf _ => ?_
  split
  · next o ho =>
    split
    · next e => exact withOrderOf_lawful ht hf ho fun r u hw hst => hgo o r u hw (hst.trans e)
    · exact ht
  · exact ht

/-! ## The vehicle's order leaves it -/

theorem endOrder_order_other (s : State) {o x : Slot} (k c) (hx : x ≠ o) : (s.endOrder o k c).order x = s.order x := by
  unfold State.endOrder
  split
  · rfl
  · exact setOrder_other _ _ hx

namespace Held

variable {Q : VehicleRec → Prop}

/-- The order does not name the vehicle any more, nor does another. -/
theorem unnamed_all (w : Held v o r Q s)
    (h : LawfulBut { Debt.hold v Q with crew :=
      { (Debt.hold v Q).crew with gone := fun y z => y = v ∧ z = o, unnamed := fun y z => y = v ∧ z = o } } t)
    (hother : ∀ z, z ≠ o → t.order z = s.order z) :
    LawfulBut (.about v Q False (· = o) (fun _ => False) fun y _ => y = v) t := by
  refine h.mono h.rail ⟨h.crew.good, h.crew.steady, h.crew.pinned, h.crew.points, h.crew.named, h.crew.once, fun y z hu hn => ?_,
    h.crew.fits⟩ h.book rfl
  obtain rfl : y = v := hu
  rcases eq_or_ne z o with rfl | hz
  · exact h.crew.unnamed _ z ⟨rfl, rfl⟩ hn
  · obtain ⟨x, hx, hxv⟩ := hn
    rw [hother z hz] at hx
    exact hz ((w.named_iff z).mp ⟨x, hx, hxv⟩)

/-- R98: the order is back in the book; its vehicle still names the slot. -/
theorem requeued (w : Held v o r Q s) (x c) :
    LawfulBut (.about v Q False (· = o) (fun _ => False) fun y _ => y = v) (s.requeue o x c) :=
  w.unnamed_all (w.laws.requeue w.record w.working x c (fun _ _ _ e => e.2.elim)
    (fun y hy => ⟨w.only y hy, rfl⟩) fun _ _ hz e => absurd e.2 hz) fun _ hz => requeue_order_other _ _ _ hz

/-- R100: the order is gone; its vehicle still names the slot. -/
theorem ended (w : Held v o r Q s) (k c) :
    LawfulBut (.about v Q False (· = o) (fun _ => False) fun y _ => y = v) (s.endOrder o k c) :=
  w.unnamed_all (w.laws.endOrder w.record w.working k c (fun _ _ _ e => e.2.elim)
    (fun y hy => ⟨w.only y hy, rfl⟩) fun _ _ hz e => absurd e.2 hz) fun _ hz => endOrder_order_other _ _ _ hz

end Held

end Sys2Proof.Machine
end

section
/-! The transfer handshake keeps the laws (R116 to R130). -/

namespace Sys2Proof.Machine

variable {s t : State} {v : VehicleId} {o : Slot} {r r' : OrderRec}

/-! ## A worked order rewritten (R86, R103) -/

/-- A worked order becomes another, its ports with it. -/
theorem Book.rework {d : BookDebt} (h : Book d s) (hr : s.order o = some r) (hq : r.state ≠ .queued) (hr' : t.order o = some r')
    (horder : ∀ x, x ≠ o → t.order x = s.order x) (hqueues : t.queues = s.queues) (hsound : r'.Sound) (hq' : r'.state ≠ .queued)
    (hqueued : ¬ d.queued o) (hmine : ∀ p k, (t.port p).reservation = some ⟨o, k⟩ ↔ r'.Reserves p k)
    (hother : ∀ p x k, x ≠ o → ((t.port p).reservation = some ⟨x, k⟩ ↔ (s.port p).reservation = some ⟨x, k⟩))
    (hfree : ∀ p, d.free p → (t.port p).reservation = none) : Book d t := by
  have hout := h.releasePorts hr hq
  have e := (BookOnly.releasePort? s o r.source).trans (.releasePort _ o r.destInUse)
  have hsame (x) : ((s.releasePort? o r.source).releasePort o r.destInUse).order x = s.order x := by
    simp only [State.order, releasePort_orders, releasePort?_orders]
  have hq₀ : ((s.releasePort? o r.source).releasePort o r.destInUse).queues = s.queues := by
    have hp (u : State) (p) : (u.releasePort o p).queues = u.queues := by rw [releasePort_match]; split <;> [split <;> rfl; rfl]
    rw [hp]
    cases r.source with
    | none => rfl
    | some p => exact hp s p
  refine hout.working_book hr' (fun x hx => (horder x hx).trans (hsame x).symm) (hqueues.trans hq₀.symm) hsound hq' (h.not_vacant hr)
    (h.not_kept hr (.inl hq)) hqueued hmine (fun p x k hx => ?_) hfree
  rw [hother p x k hx, h.reserved p x k, hout.reserved p x k, hsame x]
  exact (and_iff_right hx).symm

/-- The vehicle and its order go on together. -/
theorem Held.advance {Q : VehicleRec → Prop} {x : VehicleRec} (w : Held v o r Q s) (e : BookOnly s t) (hbook : Book Debt.zero.book t)
    (hr' : t.order o = some r') (horder : ∀ y, y ≠ o → t.order y = s.order y) (hvehicle : r'.vehicle = some v)
    (hf : r'.flips.length ≤ 2) (hx : x.Regular) (hholds : x.holds = (s.vehicle v).holds)
    (hwait : x.waitingOn = (s.vehicle v).waitingOn) (hflips : x.flips = (s.vehicle v).flips) (hxo : x.order = some o)
    (hfits : Fits r'.state x.state) : LawfulBut .zero (t.setVehicle v x) := by
  have hnames (y) : t.Names o y ↔ y = v := by
    refine ⟨fun ⟨z, hz, hzy⟩ => ?_, ?_⟩
    · rw [hr'] at hz
      obtain rfl := Option.some.inj hz
      exact Option.some.inj (hzy.symm.trans hvehicle)
    · rintro rfl; exact ⟨r', hr', hvehicle⟩
  have hcrew : Crew (Debt.about v Q True (fun _ => False) (fun _ => False) fun _ _ => False).crew t := by
    refine w.laws.crew.reorder (d' := (Debt.about v Q True (fun _ => False) (fun _ => False) fun _ _ => False).crew) (o := o)
      e.vehicle horder rfl (fun _ => id) (fun y hy => hy.2.elim) (fun _ _ _ => id) (fun _ _ _ => id) (fun _ _ _ => id)
      (fun y hy => .inl ((hnames y).mpr (w.only y hy))) (fun y hy => .inl ?_) (fun _ hu => hu.elim) (fun y z hy hz => ?_)
      fun y z ha _ hz hzy => absurd ⟨(hnames y).mp ⟨z, hz, hzy⟩, trivial⟩ ha
    · rw [(hnames y).mp hy]; exact w.order
    · rw [(hnames y).mp hy] at hz
      exact (w.named_iff z).mp hz
  have hall : LawfulBut (.about v Q True (fun _ => False) (fun _ => False) fun _ _ => False) t :=
    w.laws.ofBookOnly e (o := o) hbook hcrew horder (fun hm => absurd hm w.ne_setup) fun z hz => by
      rw [hr'] at hz; exact Option.some.inj hz ▸ hf
  have hv := e.vehicle v
  refine hall.settleVehicle hx (hholds.trans (by rw [hv])) (hwait.trans (by rw [hv])) (hflips.trans (by rw [hv]))
    (fun hm => absurd (e.sameMode.symm.trans hm) w.ne_setup) (fun y => ?_) fun y z hz hzv => ?_
  · rw [hxo, Option.some.injEq]
    refine ⟨fun ⟨z, hz, hzv⟩ => ?_, ?_⟩
    · by_contra hne
      rw [horder y (Ne.symm hne)] at hz
      exact hne ((w.named_iff y).mp ⟨z, hz, hzv⟩).symm
    · rintro rfl; exact (hnames v).mpr rfl
  · rcases eq_or_ne y o with rfl | hne
    · rw [hr'] at hz
      exact Option.some.inj hz ▸ hfits
    · rw [horder y hne] at hz
      exact absurd ((w.named_iff y).mp ⟨z, hz, hzv⟩) hne

namespace Work

theorem state_of (w : Work v o r s) :
    ((s.vehicle v).state = .offered → r.state = .offered) ∧ ((s.vehicle v).state = .toSource → r.state = .toSource) ∧
      ((s.vehicle v).state = .toDest → r.state = .carrying) := by
  rcases w.held.fits with ⟨e, e'⟩ | ⟨e, e'⟩ | ⟨e, e' | e'⟩ <;> rw [e, e'] <;> simp

/-! ## ACCEPT (R117) -/

theorem takeOffer (w : Work v o r s) (hst : (s.vehicle v).state = .offered) : LawfulBut .zero (s.takeOffer v o r) := by
  have hro := w.state_of.1 hst
  have hreg := w.laws.regular v
  obtain ⟨h1, h2, h3, h4⟩ := w.laws.book.sound o r w.record
  have hv := w.held.vehicle
  have key {x : OState} {y : VState} (hx : x ≠ .queued) (hfits : Fits x y) (hy : y = .toSource ∨ y = .toDest)
      (hres : ∀ p k, { r with state := x }.Reserves p k ↔ r.Reserves p k) :
      LawfulBut .zero ((s.setOrder o (some { r with state := x })).setVehicle v { s.vehicle v with offer := none, state := y }) := by
    have hsound : { r with state := x }.Sound :=
      ⟨iff_of_false hx (by rw [hv]; exact Option.some_ne_none v), h2, h3, h4⟩
    refine w.held.advance (.setOrder ..) (w.laws.book.rewrite w.record hsound (iff_of_false hx w.held.working)
      (fun e => absurd e hx) rfl hres fun _ => id) (setOrder_same ..) (fun z hz => setOrder_other _ _ hz) hv
      (w.laws.few.2.2 o r w.record) ?_ rfl rfl rfl w.order hfits
    have hholds : (s.vehicle v).holds ≠ [] := fun e => by
      have := hreg.empty e; rw [hst] at this; simp at this
    have hcause : (s.vehicle v).cause = none := by by_contra e; have := hreg.cause.mp e; rw [hst] at this; cases this
    have hsaved : (s.vehicle v).saved = none := by by_contra e; have := hreg.saved e; rw [hst] at this; cases this
    have howner := hreg.owner
    have ho := w.order
    rcases hy with rfl | rfl <;> constructor <;> simp_all
  have hgo := key (x := if r.source.isSome then .toSource else .carrying) (y := if r.source.isSome then .toSource else .toDest)
    (by split <;> exact OState.noConfusion)
    (by split; exacts [.inr (.inl ⟨rfl, rfl⟩), .inr (.inr ⟨rfl, .inl rfl⟩)]) (by split; exacts [.inl rfl, .inr rfl]) fun p k => by
      cases hs : r.source <;> simp [OrderRec.Reserves, OrderRec.destInUse, hs, hro]
  exact (hgo.noteOrder ..).noteVehicle ..

/-! ## An offer withdrawn (R119) -/

theorem withdrawOffer (w : Work v o r s) (hst : (s.vehicle v).state = .offered) (c : OrderCause) :
    LawfulBut .zero (s.withdrawOffer v o c).1 := by
  have hreg := w.laws.regular v
  have hready : ((s.vehicle v).offerOver o c).Ready (· = o) := by
    have hholds : (s.vehicle v).holds ≠ [] := fun e => by
      have := hreg.empty e; rw [hst] at this; simp at this
    refine ⟨hholds, fun e => hholds (hreg.owner.mp e), ?_, ?_, rfl, fun x hx => ?_⟩
    · by_contra e; have := hreg.cause.mp e; rw [hst] at this; cases this
    · by_contra e; have := hreg.saved e; rw [hst] at this; cases this
    · exact Option.some.inj (hx.symm.trans w.order)
  have hset : LawfulBut (.hold v (VehicleRec.Ready (· = o))) (s.setVehicle v ((s.vehicle v).offerOver o c)) := by
    refine w.held.laws.writeVehicle (steady_ready _) hready rfl rfl rfl (fun hm => absurd hm w.held.ne_setup)
      (fun x hx => .inl ((w.held.laws.hold_names x).mpr hx)) (fun x hx => .inl ((w.held.laws.hold_names x).mp hx))
      (fun _ _ => id) fun x y _ _ => w.held.laws.hold_fits x y
  have hheld : Held v o r (VehicleRec.Ready (· = o)) (s.setVehicle v ((s.vehicle v).offerOver o c)) :=
    ⟨hset, by rw [setVehicle_same]; exact w.order, w.record⟩
  have hout := hheld.requeued v c
  have hm : ((s.setVehicle v ((s.vehicle v).offerOver o c)).requeue o v c).mode ≠ .setup := by
    rw [(BookOnly.requeue _ o v c).sameMode]; exact w.held.ne_setup
  have hfinish {u : State} {un : VehicleId → Slot → Prop} (hu : LawfulBut (.owing v (fun _ => False) un) u) :
      LawfulBut .zero ((if c = .timeout then u.noteWithdraw v o .timeout else u).noteVehicle v .offered) := by
    have hz := hu.owing_zero fun _ => False.elim
    refine LawfulBut.noteVehicle ?_ _ _
    split
    · exact hz.noteWithdraw ..
    · exact hz
  unfold State.withdrawOffer
  by_cases hb : s.boundTo o v = true
  · simp only [hb, if_true]
    exact hfinish (hout.intoLoadedIdle _ (fun r hr => hr.loaded _) (fun _ _ _ _ => rfl) hm)
  · simp only [hb]
    exact hfinish (hout.intoIdle (fun r n hr => hr.idled n) (fun _ _ _ _ => rfl) hm)

end Work

end Sys2Proof.Machine
end

section
/-! PICK_DONE, DROP_DONE and DROP_FAIL keep the laws (R122 to R128), and so do the bodies of the handshake's requests. -/

namespace Sys2Proof.Machine

variable {s t : State} {v : VehicleId} {o : Slot} {r : OrderRec}

/-! ## A carrier bound (R66, R92, R125) -/

theorem queuedNaming_some {c : Carrier} (h : s.queuedNaming c = some o) : ∃ r, s.order o = some r ∧ r.state = .queued := by
  have := List.find?_some h
  cases hr : s.order o with
  | none => rw [hr] at this; cases this
  | some r =>
    rw [hr] at this
    simp only [Bool.and_eq_true, decide_eq_true_eq] at this
    exact ⟨r, rfl, this.1⟩

/-- A QUEUED order that stays so in its class. -/
theorem LawfulBut.rewriteQueued {r' : OrderRec} (h : LawfulBut .zero s) (hr : s.order o = some r) (hq : r.state = .queued)
    (hq' : r'.state = .queued) (hsound : r'.Sound) (hvehicle : r'.vehicle = r.vehicle) (hcls : r'.cls = r.cls)
    (hseq : r'.submitSeq = r.submitSeq) (hflips : r'.flips = r.flips) : LawfulBut .zero (s.setOrder o (some r')) :=
  h.rewrite (d := .zero) hr hsound (hq'.trans hq.symm) hvehicle (fun _ => hcls) hseq
    (fun p k => iff_of_false (not_reserves_of_queued hq' p k) (not_reserves_of_queued hq p k))
    (hflips ▸ h.few.2.2 o r hr) fun _ => id

theorem LawfulBut.bindCarrier (h : LawfulBut .zero s) (v : VehicleId) (c : Carrier) : LawfulBut .zero (s.bindCarrier v c).1 := by
  unfold State.bindCarrier
  split
  · split
    · next x hx =>
      obtain ⟨r, hr, hq⟩ := queuedNaming_some hx
      have hs := h.book.sound x r hr
      have hset := h.rewriteQueued (r' := { r with source := none, bound := some v }) hr hq hq
        ⟨hs.idle, nofun, hs.alt, .inl rfl⟩ rfl rfl rfl rfl
      show LawfulBut .zero (s.setOrder x ((s.order x).map _))
      rw [hr]
      exact hset
    · exact h
  · exact h

/-! ## PICK_DONE -/

namespace Work

theorem pick (w : Work v o r s) (hst : (s.vehicle v).state = .toSource) : LawfulBut .zero (s.pick v o r) := by
  have hro := w.state_of.2.1 hst
  have hreg := w.laws.regular v
  obtain ⟨h1, h2, h3, h4⟩ := w.laws.book.sound o r w.record
  have hv := w.held.vehicle
  have hdest (p) (hp : r.source = some p) : r.destInUse ≠ p := by
    unfold OrderRec.destInUse
    split
    · cases ha : r.alt with
      | none => exact fun e => h2 (hp.trans (congrArg some e.symm))
      | some q =>
        refine fun e => (h4.resolve_left (by rw [hp]; exact Option.some_ne_none p)) ?_
        rw [hp, ha]; exact congrArg some e.symm
    · exact fun e => h2 (hp.trans (congrArg some e.symm))
  have hread (p) := releasePort?_reservation s o r.source p
  have hres (p k) : (s.port p).reservation = some ⟨o, k⟩ ↔ r.Reserves p k := by
    rw [w.laws.book.reserved p o k]
    refine ⟨fun ⟨y, hy, e⟩ => ?_, fun e => ⟨r, w.record, e⟩⟩
    rw [w.record] at hy
    exact Option.some.inj hy ▸ e
  have e : BookOnly s ((s.releasePort? o r.source).setOrder o (some { r with state := .carrying })) :=
    (BookOnly.releasePort? s o r.source).trans (.setOrder ..)
  have hother (y) (hy : y ≠ o) : ((s.releasePort? o r.source).setOrder o (some { r with state := .carrying })).order y = s.order y := by
    rw [setOrder_other _ _ hy]; simp only [State.order, releasePort?_orders]
  have hqueues : (s.releasePort? o r.source).queues = s.queues := by
    cases r.source with
    | none => rfl
    | some p => show (s.releasePort o p).queues = s.queues; rw [releasePort_match]; split <;> [split <;> rfl; rfl]
  have hbook : Book Debt.zero.book ((s.releasePort? o r.source).setOrder o (some { r with state := .carrying })) := by
    refine w.laws.book.rework w.record w.held.working (setOrder_same ..) hother hqueues
      ⟨iff_of_false OState.noConfusion (by rw [hv]; exact Option.some_ne_none v), h2, h3, h4⟩ OState.noConfusion id (fun p k => ?_)
      (fun p x k hx => ?_) fun p hp => hp.elim
    · show ((s.releasePort? o r.source).port p).reservation = some ⟨o, k⟩ ↔ _
      rw [hread]
      split
      · next hp =>
        refine iff_of_false nofun ?_
        rintro (⟨-, hs, -⟩ | ⟨-, -, hd⟩)
        · exact hs.elim OState.noConfusion OState.noConfusion
        · exact hdest p hp.1 hd
      · next hp =>
        rw [hres]
        refine ⟨?_, ?_⟩
        · rintro (⟨rfl, hs, hsrc⟩ | ⟨rfl, -, hd⟩)
          · exact absurd ⟨hsrc, (names_iff _ _).mpr ⟨_, (hres p .pick).mpr (.inl ⟨rfl, hs, hsrc⟩), rfl⟩⟩ hp
          · exact .inr ⟨rfl, OState.noConfusion, hd⟩
        · rintro (⟨-, hs, -⟩ | ⟨rfl, -, hd⟩)
          · exact hs.elim OState.noConfusion OState.noConfusion
          · exact .inr ⟨rfl, w.held.working, hd⟩
    · show ((s.releasePort? o r.source).port p).reservation = some ⟨x, k⟩ ↔ _
      rw [hread]
      split
      · next hp =>
        refine iff_of_false nofun fun e => ?_
        obtain ⟨y, hy, ey⟩ := (names_iff _ _).mp hp.2
        rw [e] at hy
        exact hx ((congrArg Reservation.slot (Option.some.inj hy)).trans ey)
      · rfl
  have hset := w.held.advance (x := { s.vehicle v with state := .toDest, carrier := r.carrier }) e hbook (setOrder_same ..) hother hv
    (w.laws.few.2.2 o r w.record) ?_ rfl rfl rfl w.order (.inr (.inr ⟨rfl, .inl rfl⟩))
  · have hveh : ((s.releasePort? o r.source).setOrder o (some { r with state := .carrying })).vehicle v = s.vehicle v := e.vehicle v
    unfold State.pick
    dsimp only
    rw [State.updVehicle, hveh]
    exact (hset.noteOrder ..).noteVehicle ..
  · have hholds : (s.vehicle v).holds ≠ [] := fun e => by
      have := hreg.empty e; rw [hst] at this; simp at this
    have hcause : (s.vehicle v).cause = none := by by_contra e; have := hreg.cause.mp e; rw [hst] at this; cases this
    have hsaved : (s.vehicle v).saved = none := by by_contra e; have := hreg.saved e; rw [hst] at this; cases this
    have hoffer : (s.vehicle v).offer = none := by by_contra e; have := hreg.offer e; rw [hst] at this; cases this
    have howner := hreg.owner
    have ho := w.order
    constructor <;> simp_all

/-- A vehicle at work without an offer running is ready to be IDLE. -/
theorem ready (w : Work v o r s) (hst : (s.vehicle v).state = .toSource ∨ (s.vehicle v).state = .toDest) :
    (s.vehicle v).Ready (· = o) := by
  refine (w.laws.regular v).ready ?_ ?_ ?_ fun x hx => Option.some.inj (hx.symm.trans w.order) <;>
    rcases hst with e | e <;> rw [e] <;> exact VState.noConfusion

theorem endIdle (w : Work v o r s) (hst : (s.vehicle v).state = .toSource ∨ (s.vehicle v).state = .toDest) (k c) :
    LawfulBut .zero ((s.endOrder o k c).enterIdle read v).1 := by
  have hheld := w.hold (steady_ready _) (w.ready hst)
  have hm : (s.endOrder o k c).mode ≠ .setup := by rw [(BookOnly.endOrder ..).sameMode]; exact w.held.ne_setup
  exact ((hheld.ended k c).intoIdle (fun r n hr => hr.idled n) (fun _ _ _ _ => rfl) hm).owing_zero fun _ => False.elim

theorem endLoaded (w : Work v o r s) (hst : (s.vehicle v).state = .toSource ∨ (s.vehicle v).state = .toDest) (k c x) :
    LawfulBut .zero ((s.endOrder o k c).enterLoadedIdle v x) := by
  have hheld := w.hold (steady_ready _) (w.ready hst)
  have hm : (s.endOrder o k c).mode ≠ .setup := by rw [(BookOnly.endOrder ..).sameMode]; exact w.held.ne_setup
  exact ((hheld.ended k c).intoLoadedIdle x (fun r hr => hr.loaded x) (fun _ _ _ _ => rfl) hm).owing_zero fun _ => False.elim

theorem pickEmpty (w : Work v o r s) (hst : (s.vehicle v).state = .toSource) : LawfulBut .zero (s.pickEmpty v o).1 :=
  (w.endIdle (.inl hst) ..).noteVehicle ..

theorem deliver (w : Work v o r s) (hst : (s.vehicle v).state = .toDest) : LawfulBut .zero (s.deliver v o).1 :=
  (w.endIdle (.inr hst) ..).noteVehicle ..

theorem refuseDrop (w : Work v o r s) (hst : (s.vehicle v).state = .toDest) : LawfulBut .zero (s.refuseDrop v o) :=
  (w.endLoaded (.inr hst) ..).noteVehicle ..

end Work

/-- R125: after the search, the order is the vehicle's still, or it is gone. -/
theorem pickOther_lawful (h : LawfulBut (.about v (VehicleRec.Ready (· = o)) False (fun _ => False) (fun _ => False)
      fun w x => w ≠ v ∧ x = o) s) (hm : s.mode ≠ .setup) (c : Carrier) : LawfulBut .zero (s.pickOther v o c).1 := by
  have hended : LawfulBut (.about v (VehicleRec.Ready (· = o)) False (· = o) (fun _ => False) fun w x => w = v ∧ x = o)
      (s.endOrder o .failed (some .carrierMismatch)) := by
    unfold State.endOrder
    split
    · next ho =>
      refine h.about_mono h.held_steady h.held id (fun _ => False.elim) (fun _ => id) fun w x e => .inr ?_
      rintro ⟨y, hy, -⟩
      rw [e.2, ho] at hy; cases hy
    · refine LawfulBut.freeOrder (h.noteOrder ..) (fun _ => id) (fun _ _ _ e => e.2.elim) (fun w hw => ⟨?_, rfl⟩)
        fun w x hx e => absurd e.2 hx
      rw [noteOrder_at_vehicle] at hw
      by_contra hne
      exact h.crew.unnamed w o ⟨hne, rfl⟩ ((h.crew.points w o hw).resolve_right And.right)
  have hmode : (s.endOrder o .failed (some .carrierMismatch)).mode ≠ .setup := by rw [(BookOnly.endOrder ..).sameMode]; exact hm
  have hloaded (x) := (hended.intoLoadedIdle x (fun r hr => hr.loaded x) (fun r y hr hy => ⟨rfl, hr.order y hy⟩)
    hmode).owing_zero fun _ => False.elim
  exact ((hloaded _).bindCarrier v _).noteVehicle ..

theorem LawfulBut.readPickSearch {d : Debt} (h : LawfulBut d s) (hi : ∀ v, ¬ d.crew.inert v) (c : Carrier) :
    LawfulBut d (s.readPickSearch c).1 := by
  unfold State.readPickSearch
  split
  · exact (h.readAll hi _).readAll hi _
  · exact h

/-! ## DROP_FAIL -/

theorem Work.turn (w : Work v o r s) {p : PortId} (hp : s.turnTarget r = some p) : LawfulBut .zero (s.turn v o r p) := by
  obtain ⟨halt, hpalt, hfree⟩ : r.altInUse = false ∧ r.alt = some p ∧ (s.port p).reservation = none := by
    unfold State.turnTarget at hp
    split at hp
    · cases hp
    · next e =>
      obtain ⟨e1, e2⟩ := Option.filter_eq_some_iff.mp hp
      simp only [State.usable, Bool.and_eq_true, Option.isNone_iff_eq_none] at e2
      exact ⟨by simpa using e, e1, e2.2⟩
  obtain ⟨h1, h2, h3, h4⟩ := w.laws.book.sound o r w.record
  have hv := w.held.vehicle
  have hdest : r.destInUse = r.dest := by simp [OrderRec.destInUse, halt]
  have hdest' : { r with altInUse := true }.destInUse = p := by simp [OrderRec.destInUse, hpalt]
  have hne : p ≠ r.dest := fun e => h3 (hpalt.trans (congrArg some e))
  have hres (q k) : (s.port q).reservation = some ⟨o, k⟩ ↔ r.Reserves q k := by
    rw [w.laws.book.reserved q o k]
    refine ⟨fun ⟨y, hy, e⟩ => ?_, fun e => ⟨r, w.record, e⟩⟩
    rw [w.record] at hy
    exact Option.some.inj hy ▸ e
  have e : BookOnly s (((s.releasePort o r.destInUse).reserve p o .drop).setOrder o (some { r with altInUse := true })) :=
    ((BookOnly.releasePort s o r.destInUse).trans (.setPort ..)).trans (.setOrder ..)
  have hother (y) (hy : y ≠ o) :
      (((s.releasePort o r.destInUse).reserve p o .drop).setOrder o (some { r with altInUse := true })).order y = s.order y := by
    rw [setOrder_other _ _ hy]
    show (s.releasePort o r.destInUse).order y = _
    simp only [State.order, releasePort_orders]
  have hqueues : (s.releasePort o r.destInUse).queues = s.queues := by rw [releasePort_match]; split <;> [split <;> rfl; rfl]
  have hread (q) : ((((s.releasePort o r.destInUse).reserve p o .drop).setOrder o (some { r with altInUse := true })).port q).reservation =
      if q = p then some ⟨o, .drop⟩ else if q = r.dest ∧ (s.port q).names o = true then none else (s.port q).reservation := by
    show (((s.releasePort o r.destInUse).reserve p o .drop).port q).reservation = _
    rw [reserve_reservation, releasePort_reservation, hdest]
    by_cases hq : q = p
    · rw [if_pos hq, if_pos hq]
    · rw [if_neg hq, if_neg hq]
      by_cases hd : q = r.dest
      · subst hd; rfl
      · rw [if_neg fun e => hd e.1, if_neg fun e => hd e.1]
  have hbook : Book Debt.zero.book (((s.releasePort o r.destInUse).reserve p o .drop).setOrder o (some { r with altInUse := true })) := by
    refine w.laws.book.rework w.record w.held.working (setOrder_same ..) hother hqueues ⟨h1, h2, h3, h4⟩ w.held.working id
      (fun q k => ?_) (fun q x k hx => ?_) fun q hq => hq.elim
    · rw [hread]
      split
      · next hq =>
        subst hq
        refine ⟨fun e => .inr ⟨(congrArg Reservation.kind (Option.some.inj e)).symm, w.held.working, hdest'⟩, ?_⟩
        rintro (⟨-, -, hs⟩ | ⟨rfl, -, -⟩)
        · rw [hpalt] at h4
          exact absurd hs (h4.elim (fun e => by rw [e]; nofun) id)
        · rfl
      · next hq =>
        have hmid : (if q = r.dest ∧ (s.port q).names o = true then none else (s.port q).reservation) = some ⟨o, k⟩ ↔
            k = .pick ∧ (r.state = .offered ∨ r.state = .toSource) ∧ r.source = some q := by
          split
          · next hd =>
            refine iff_of_false nofun fun e => h2 ?_
            rw [e.2.2, hd.1]
          · next hd =>
            rw [hres]
            refine ⟨fun e => e.resolve_right fun e => hd ⟨?_, (names_iff _ _).mpr ⟨_, (hres q k).mpr (.inr e), rfl⟩⟩, .inl⟩
            rw [← e.2.2, hdest]
        rw [hmid]
        exact ⟨.inl, fun e => e.resolve_right fun e => hq (e.2.2.symm.trans hdest')⟩
    · rw [hread]
      split
      · next hq =>
        subst hq
        rw [hfree]
        exact iff_of_false (fun e => hx (congrArg Reservation.slot (Option.some.inj e)).symm) nofun
      · split
        · next hd =>
          refine iff_of_false nofun fun e => ?_
          obtain ⟨y, hy, ey⟩ := (names_iff _ _).mp hd.2
          rw [e] at hy
          exact hx ((congrArg Reservation.slot (Option.some.inj hy)).trans ey)
        · rfl
  have hveh := e.vehicle v
  have hset := w.held.advance (x := s.vehicle v) e hbook (setOrder_same ..) hother hv (w.laws.few.2.2 o r w.record)
    (w.laws.regular v) rfl rfl rfl w.order w.held.fits
  rw [← hveh, setVehicle_vehicle] at hset
  exact (hset.noteReroute ..).noteOrder ..

end Sys2Proof.Machine
end

section
/-! A request keeps the laws when its body does; the requests of the handshake, and those that read and report. -/

namespace Sys2Proof.Machine

variable {s t : State}

theorem request_lawful {h : Hdr} {kind : ReqKind} {body : State → State × Answer} (hs : LawfulBut .zero s)
    (hb : ∀ t, LawfulBut .zero t → ReqKind.allowedIn kind t.mode = true → Lawfully (body t))
    (ht : s.request h kind body = .next t) : LawfulBut .zero t := by
  simp only [State.request, Host.Outcome.next.injEq] at ht
  subst ht
  refine LawfulBut.endEvent ?_
  unfold State.takeFrame
  split
  · exact hs
  · have hhunt := hs.receiverToHunt h.link
    dsimp only
    split
    · exact hhunt.attend ..
    · refine LawfulBut.placeReply ?_ _ _ _ _
      unfold State.carryOut
      split
      · exact hhunt
      · split
        · exact hhunt
        · next hm =>
          split
          · exact hhunt
          · exact hb _ hhunt (by simpa using hm)

/-! ## The handshake -/

section Handshake

variable {h : Hdr}

theorem execAccept_lawful {v o p d c} (hs : LawfulBut .zero s) (ht : execAccept h v o p d c s = .next t) : LawfulBut .zero t := by
  refine request_lawful hs (fun u hu _ => ?_) ht
  refine inRange_lawful hu fun v _ => inRange_lawful hu fun o _ => inRange_lawful hu fun p _ => inRange_lawful hu fun d _ =>
    inRange_lawful hu fun c _ => withOffer_lawful hu fun r x w hst => ?_
  dsimp only
  split
  · exact (w.takeOffer hst).accepted ..
  · split <;> exact (w.withdrawOffer hst _).accepted ..

theorem execDecline_lawful {v o} (hs : LawfulBut .zero s) (ht : execDecline h v o s = .next t) : LawfulBut .zero t := by
  refine request_lawful hs (fun u hu _ => ?_) ht
  exact inRange_lawful hu fun v _ => inRange_lawful hu fun o _ => withOffer_lawful hu fun r x w hst =>
    (w.withdrawOffer hst _).accepted ..

theorem execPickDone_lawful {v c} (hs : LawfulBut .zero s) (ht : execPickDone h v c s = .next t) : LawfulBut .zero t := by
  refine request_lawful hs (fun u hu _ => ?_) ht
  refine inRange_lawful hu fun v _ => inRange_lawful hu fun c _ => withWork_lawful hu fun o r x w hst => ?_
  split
  · exact w.laws
  · split
    · exact (w.pick hst).accepted ..
    · split
      · exact (w.pickEmpty hst).accepted ..
      · have hheld := w.hold (steady_ready _) (w.ready (.inl hst))
        have hwatch := hheld.laws.about_mono (u' := fun y z => y ≠ v ∧ z = o) hheld.laws.held_steady hheld.laws.held id
          (fun _ => id) (fun _ => id) fun y z e => .inr fun hn => e.1 ?_
        · have hread := hwatch.readPickSearch (fun _ => id) c
          have hm : (x.readPickSearch c).1.mode ≠ .setup := by
            rw [((Keeps.refl x).readPickSearch c).mode]; exact w.held.ne_setup
          exact (pickOther_lawful hread hm c).accepted ..
        · obtain ⟨a, ha, hay⟩ := hn
          rw [e.2, w.record] at ha
          obtain rfl := Option.some.inj ha
          exact Option.some.inj (hay.symm.trans w.held.vehicle)

theorem execDropDone_lawful {v} (hs : LawfulBut .zero s) (ht : execDropDone h v s = .next t) : LawfulBut .zero t := by
  refine request_lawful hs (fun u hu _ => ?_) ht
  refine inRange_lawful hu fun v _ => withWork_lawful hu fun o r x w hst => ?_
  split
  · exact w.laws
  · exact (w.deliver hst).accepted ..

theorem execDropFail_lawful {v} (hs : LawfulBut .zero s) (ht : execDropFail h v s = .next t) : LawfulBut .zero t := by
  refine request_lawful hs (fun u hu _ => ?_) ht
  refine inRange_lawful hu fun v _ => withWork_lawful hu fun o r x w hst => ?_
  split
  · next p hp => exact (w.turn hp).accepted ..
  · exact (w.refuseDrop hst).accepted ..

end Handshake

/-! ## Reports and settings -/

namespace LawfulBut

variable {d : Debt}

theorem updLink (h : LawfulBut d s) (l f) : LawfulBut d (s.updLink l f) := h.congr ⟨rfl, rfl, rfl, rfl, rfl, rfl, rfl, rfl, rfl⟩

/-- Settings that the laws do not name. -/
theorem settings (h : LawfulBut d s) (hb : t.blocks = s.blocks) (hv : t.vehicles = s.vehicles) (ho : t.orders = s.orders)
    (hp : t.ports = s.ports) (hq : t.queues = s.queues) (hm : t.mode = s.mode) (hc : t.committed = s.committed) (hmap : t.map = s.map)
    (hbays : t.bays = s.bays) : LawfulBut d t := h.congr ⟨hb, hv, ho, hp, hq, hm, hc, hmap, hbays⟩

theorem searchTag (l tag) : ∀ (os : List Slot) {s : State}, LawfulBut .zero s → LawfulBut .zero (State.searchTag l tag os s).1
  | [], _, h => h
  | o :: os, s, h => by
    have hread := h.readOrder (fun _ => id) o
    unfold State.searchTag
    dsimp only
    split
    · exact hread
    · exact searchTag l tag os hread

end LawfulBut

section Reports

variable {h : Hdr}

theorem execStatus_lawful (hs : LawfulBut .zero s) (ht : execStatus h s = .next t) : LawfulBut .zero t :=
  request_lawful hs (fun _ hu _ => (hu.readAll (fun _ => id) _).readAll (fun _ => id) _) ht

theorem execClearAttention_lawful {m} (hs : LawfulBut .zero s) (ht : execClearAttention h m s = .next t) : LawfulBut .zero t :=
  request_lawful hs (fun _ hu _ => inRange_lawful hu fun _ _ => hu.settings rfl rfl rfl rfl rfl rfl rfl rfl rfl) ht

theorem execSetNoticeMask_lawful {l m} (hs : LawfulBut .zero s) (ht : execSetNoticeMask h l m s = .next t) : LawfulBut .zero t := by
  refine request_lawful hs (fun u hu _ => inRange_lawful hu fun l _ => inRange_lawful hu fun m _ => ?_) ht
  split
  · exact hu
  · exact hu.settings rfl rfl rfl rfl rfl rfl rfl rfl rfl

theorem execQueryVehicle_lawful {v} (hs : LawfulBut .zero s) (ht : execQueryVehicle h v s = .next t) : LawfulBut .zero t :=
  request_lawful hs (fun _ hu _ => inRange_lawful hu fun v _ => hu.readVehicle (fun _ => id) v) ht

theorem execQueryBlock_lawful {b} (hs : LawfulBut .zero s) (ht : execQueryBlock h b s = .next t) : LawfulBut .zero t :=
  request_lawful hs (fun _ hu _ => inRange_lawful hu fun b _ => hu.readBlock (fun _ => id) b) ht

theorem execQueryPort_lawful {p} (hs : LawfulBut .zero s) (ht : execQueryPort h p s = .next t) : LawfulBut .zero t :=
  request_lawful hs (fun _ hu _ => inRange_lawful hu fun _ _ => hu) ht

theorem execQueryOrder_lawful {x y} (hs : LawfulBut .zero s) (ht : execQueryOrder h x y s = .next t) : LawfulBut .zero t := by
  refine request_lawful hs (fun u hu _ => ?_) ht
  split
  · exact inRange_lawful hu fun o _ => hu.readOrder (fun _ => id) o
  · split
    · have hsearch := hu.searchTag h.link y u.liveSlots
      split <;> (next e => rw [e] at hsearch; exact hsearch)
    · exact hu

theorem execSetClock_lawful {w} (hs : LawfulBut .zero s) (ht : execSetClock h w s = .next t) : LawfulBut .zero t :=
  request_lawful hs (fun _ hu _ => hu.settings rfl rfl rfl rfl rfl rfl rfl rfl rfl) ht

theorem execReadCapture_lawful (hs : LawfulBut .zero s) (ht : execReadCapture h s = .next t) : LawfulBut .zero t :=
  request_lawful hs (fun _ hu _ => hu) ht

theorem execClearCapture_lawful (hs : LawfulBut .zero s) (ht : execClearCapture h s = .next t) : LawfulBut .zero t :=
  request_lawful hs (fun _ hu _ => hu.settings rfl rfl rfl rfl rfl rfl rfl rfl rfl) ht

theorem execSetWeights_lawful {w} (hs : LawfulBut .zero s) (ht : execSetWeights h w s = .next t) : LawfulBut .zero t := by
  refine request_lawful hs (fun u hu _ => ?_) ht
  split
  · exact hu
  · exact hu.settings rfl rfl rfl rfl rfl rfl rfl rfl rfl

theorem execSetLinkRate_lawful {l r} (hs : LawfulBut .zero s) (ht : execSetLinkRate h l r s = .next t) : LawfulBut .zero t :=
  request_lawful hs (fun _ hu _ => inRange_lawful hu fun _ _ => inRange_lawful hu fun _ _ => hu.settings rfl rfl rfl rfl rfl rfl rfl rfl rfl) ht

theorem execHeartbeat_lawful {v} (hs : LawfulBut .zero s) (ht : execHeartbeat h v s = .next t) : LawfulBut .zero t :=
  request_lawful hs (fun _ hu _ => inRange_lawful hu fun v _ => withOwned_lawful hu fun _ hx _ _ => hx.restartSilence v) ht

/-! ## DRAIN and RESTORE (R78, R79) -/

theorem drainVehicle_lawful {v : VehicleId} (hs : LawfulBut .zero s) (haway : (s.vehicle v).state ≠ .offline) :
    LawfulBut .zero (s.drainVehicle v) := by
  have hreg := hs.regular v
  unfold State.drainVehicle
  split
  · next hst =>
    have hm := hs.ne_setup_of_state haway
    have hnone : (s.vehicle v).order = none := by
      by_contra e
      have := hreg.order.mp e
      rw [hst] at this; simp at this
    have hcrew : Crew Debt.zero.crew (s.setVehicle v { s.vehicle v with state := .withdrawn }) := by
      refine hs.crew.setVehicle (fun _ _ => rfl) (fun _ _ => id) (fun _ _ _ => id) (fun _ _ _ => id) (fun _ _ => id) ?_ steady_regular
        (fun hp => absurd rfl hp) (fun _ _ => id) (hs.crew.points v) (hs.crew.named v) fun o x _ _ hx hxv => ?_
      · show VehicleRec.Regular _
        obtain ⟨h1, h2, h3, h4, h5, h6, h7, h8, h9, h10⟩ := hreg
        constructor <;> simp_all
      · have := (hs.crew.named v o ⟨x, hx, hxv⟩).resolve_right id
        rw [hnone] at this; cases this
    exact LawfulBut.noteVehicle (LawfulBut.setVehicle hs hcrew rfl rfl rfl fun e => absurd e hm) ..
  · exact hs
  · exact hs.quietVehicle rfl rfl rfl rfl rfl rfl rfl rfl rfl

theorem restoreVehicle_lawful {v : VehicleId} (hs : LawfulBut .zero s) (hf : (s.vehicle v).flips = []) :
    LawfulBut .zero (s.restoreVehicle v).1 := by
  have hset : LawfulBut .zero (s.setVehicle v { s.vehicle v with drain := false }) :=
    hs.quietVehicle rfl rfl rfl rfl rfl rfl rfl rfl rfl
  unfold State.restoreVehicle
  dsimp only
  split
  · next hst =>
    have hst' : ((s.setVehicle v { s.vehicle v with drain := false }).vehicle v).state = .withdrawn := by
      rw [setVehicle_same]; exact hst
    have hreg := hset.regular v
    have hnone : ((s.setVehicle v { s.vehicle v with drain := false }).vehicle v).order = none := by
      by_contra e
      have := hreg.order.mp e
      rw [hst'] at this; simp at this
    have hready : ((s.setVehicle v { s.vehicle v with drain := false }).vehicle v).Ready fun _ => False := by
      refine hreg.ready ?_ ?_ ?_ fun x hx => Option.some_ne_none x (hx.symm.trans hnone) <;> rw [hst'] <;> exact VState.noConfusion
    have htake := hset.take (v := v) (by rw [setVehicle_same]; exact hf) (steady_ready _) hready
    have hm : s.mode ≠ .setup := hs.ne_setup_of_state (v := v) (by rw [hst]; exact VState.noConfusion)
    exact ((htake.intoIdle (fun r n hr => hr.idled n) (fun r o hr ho => hr.order o ho) hm).owing_zero fun _ => False.elim).noteVehicle ..
  · exact hset

theorem execDrain_lawful {v} (hs : LawfulBut .zero s) (ht : execDrain h v s = .next t) : LawfulBut .zero t := by
  refine request_lawful hs (fun u hu _ => inRange_lawful hu fun v _ => withVehicle_lawful hu fun x hx _ _ _ => ?_) ht
  split
  · exact hx
  · next e => exact drainVehicle_lawful hx e

theorem execRestore_lawful {v} (hs : LawfulBut .zero s) (ht : execRestore h v s = .next t) : LawfulBut .zero t := by
  refine request_lawful hs (fun u hu _ => inRange_lawful hu fun v _ => withVehicle_lawful hu fun x hx hf _ _ => ?_) ht
  split
  · exact hx
  · exact restoreVehicle_lawful hx hf

end Reports

end Sys2Proof.Machine
end

section
/-! Grants, arbiters, releases and the end of a wait keep the laws (R21, R31, R35, R43 to R48). -/

namespace Sys2Proof.Machine

variable {s t : State} {d : Debt} {v : VehicleId} {b : BlockId}

/-! ## Vehicle records with another holding list -/

theorem VehicleRec.Regular.rehold {r : VehicleRec} (h : r.Regular) (hr : r.holds ≠ []) {L : List BlockId} (hL : L ≠ []) :
    { r with holds := L }.Regular := by
  obtain ⟨h1, h2, h3, h4, h5, h6, h7, h8, h9, h10⟩ := h
  exact ⟨fun e => absurd (h1 e) hr, fun e => absurd e hL, h3, h4, h5, h6, h7, h8, h9.trans (iff_of_false hr hL), h10⟩

/-- The event's own vehicle changes in what its record says of blocks alone. -/
theorem Crew.rehand {Q Q' : VehicleRec → Prop} {a : Prop} {g p : Slot → Prop} {u : VehicleId → Slot → Prop}
    (h : Crew (Debt.about v Q a g p u).crew s) (hother : ∀ w, w ≠ v → t.vehicle w = s.vehicle w)
    (horders : ∀ o, t.order o = s.order o) (hQ : Steady Q') (hv : Q' (t.vehicle v))
    (horder : (t.vehicle v).order = (s.vehicle v).order) (hstate : (t.vehicle v).state = (s.vehicle v).state)
    (hflips : (t.vehicle v).flips = (s.vehicle v).flips) : Crew (Debt.about v Q' a g p u).crew t := by
  have hnames := names_congr horders
  have horder' (w) : (t.vehicle w).order = (s.vehicle w).order := by
    rcases eq_or_ne w v with rfl | hw
    · exact horder
    · rw [hother w hw]
  refine ⟨fun w => ?_, fun w => ?_, fun w hw => ?_, fun w o ho => ?_, fun w o hn => ?_, fun w o o' hn hn' => ?_, fun w o hu => ?_,
    fun w o r ha hp hr hrv => ?_⟩
  · rcases eq_or_ne w v with rfl | hw
    · rw [about_good]; exact hv
    · rw [about_good_other hw, hother w hw, ← about_good_other hw]; exact h.good w
  · rcases eq_or_ne w v with rfl | hw
    · rw [about_good]; exact hQ
    · rw [about_good_other hw]; exact steady_regular
  · rcases eq_or_ne w v with rfl | hne
    · rw [hflips]; exact h.pinned w (by simp [Debt.about])
    · exact absurd (about_pin_other hne) hw
  · rw [hnames]; exact h.points w o (horder' w ▸ ho)
  · rw [horder']; exact h.named w o ((hnames o w).mp hn)
  · exact h.once w o o' ((hnames o w).mp hn) ((hnames o' w).mp hn')
  · rw [hnames]; exact h.unnamed w o hu
  · have hfits := h.fits w o r ha hp (horders o ▸ hr) hrv
    rcases eq_or_ne w v with rfl | hw
    · rwa [hstate]
    · rwa [hother w hw]

/-! ## A grant (R23, R31) -/

theorem Crew.grant {d : CrewDebt} (h : Crew d s) (hgood : d.good v { s.vehicle v with holds := (s.vehicle v).holds ++ [b] }) :
    Crew d (s.grant b v) :=
  have hblock : Crew d (s.updBlock b fun r => { r with holder := .vehicle v }) := h.congr (fun _ => rfl) fun _ => rfl
  hblock.revise hgood (h.pinned v) rfl rfl

theorem LawfulBut.grant (h : LawfulBut d s) {c : CrewDebt} (hcrew : Crew c (s.grant b v)) (hlost : d.rail.lost v = none)
    (hfree : (s.block b).holder = .none) (hwait : (s.vehicle v).waitingOn = none) (hlen : (s.vehicle v).holds.length ≤ 5)
    (hused : s.used b = true) (hfront : ∀ x, (s.vehicle v).holds.getLast? = some x → b ∈ (s.static x).succs)
    (hentry : ∀ w ∈ (s.block b).waiters, w.vehicle ≠ v) : LawfulBut { d with crew := c } (s.grant b v) where
  rail := h.rail.grant hlost hfree rfl rfl rfl rfl hwait hwait id hlen hused hfront hentry
  crew := hcrew
  book := h.book.congr (fun _ => rfl) rfl fun _ => rfl
  site := h.site.congr (fun w => by
    show (((s.updBlock b _).updVehicle v _).vehicle w).state = _
    rw [State.updVehicle, setVehicle_read]
    split
    · next e => rw [e]; rfl
    · rfl) (fun _ => Iff.rfl) rfl rfl rfl rfl
  few := fewFlips_setVehicle (fewFlips_setBlock h.few b (by exact h.few.1 b)) v (by exact h.few.2.1 v)

/-! ## The arbiter (R43 to R48) -/

namespace LawfulBut

theorem readWaiter (h : LawfulBut d s) (hi : ∀ v, ¬ d.crew.inert v) (v : VehicleId) : LawfulBut d (s.readWaiter v).1 := by
  have hread := h.readVehicle hi v
  unfold State.readWaiter
  dsimp only
  split
  · exact hread.readOrder hi _
  · exact hread

theorem readWaiters (hi : ∀ v, ¬ d.crew.inert v) : ∀ (ws : List Waiter) {s : State}, LawfulBut d s →
    LawfulBut d (State.readWaiters ws s).1
  | [], _, h => h
  | w :: ws, _, h => readWaiters hi ws (h.readWaiter hi w.vehicle)

end LawfulBut

theorem foldl_better_mem {ws : List Waiter} : ∀ (xs : List Waiter) (w : Waiter), w ∈ ws → (∀ x ∈ xs, x ∈ ws) →
    xs.foldl s.better w ∈ ws
  | [], _, hw, _ => hw
  | x :: xs, w, hw, hxs =>
    foldl_better_mem xs _ ((better_mem (s := s) w x).elim (fun e => by rw [e]; exact hw) fun e => by rw [e]; exact hxs x List.mem_cons_self) fun y hy => hxs y (List.mem_cons_of_mem x hy)

theorem winner_mem {ws : List Waiter} {w : Waiter} (h : s.winner ws = some w) : w ∈ ws := by
  cases ws with
  | nil => cases h
  | cons x xs =>
    obtain rfl := Option.some.inj h
    exact foldl_better_mem xs x List.mem_cons_self fun y hy => List.mem_cons_of_mem x hy

/-- No vehicle that an event has in hand waits at the block. -/
def Debt.NoneWaits (d : Debt) (b : BlockId) : Prop :=
  d.rail = Debt.zero.rail ∧ (∀ v, ¬ d.crew.inert v) ∧ ∀ v Q, d.crew.pin v = some Q → ∀ r, Q r → r.waitingOn ≠ some b

/-- R21: a wait that has been served ends. -/
theorem LawfulBut.clearWait (h : LawfulBut d s) (hrail : d.rail.overdue = (fun _ _ => False) ∧ d.rail.stray = fun _ _ => False)
    (hw : (s.vehicle v).waitingOn = none ∨ (s.vehicle v).waitingOn = some b) :
    Rail d.rail ((s.removeEntry b v).setVehicle v { s.vehicle v with waitingOn := none }) := by
  have hremoved := h.rail.removeEntry (v := v) (b := b) (late := fun w c => w = v ∧ c = b) (stray := d.rail.stray)
    (fun w c e => by rw [hrail.1] at e; exact e.elim) (fun _ => ⟨rfl, rfl⟩) fun _ _ e _ => e
  have hcleared := hremoved.clearWait (v := v) (r := { s.vehicle v with waitingOn := none }) (late := d.rail.overdue) rfl rfl id
    (fun w c hne e => absurd e.1 hne) fun c w hmem hwv => by
      have hmem' : w ∈ (s.block c).waiters ∧ (w.vehicle ≠ v ∨ c ≠ b) := by
        rw [State.removeEntry, State.updBlock, setBlock_read] at hmem
        split at hmem
        · next e => simpa [Waiter.isOf, e] using hmem
        · next e => exact ⟨hmem, .inr e⟩
      rcases h.rail.entry c w hmem'.1 with e | e
      · rw [hwv] at e
        rcases hw with hn | hs
        · rw [hn] at e; cases e
        · rw [hs] at e
          exact absurd (Option.some.inj e).symm (hmem'.2.resolve_left fun x => x hwv)
      · rw [hrail.2] at e; exact e.elim
  exact hcleared

theorem award_lawful (hd : d.NoneWaits b) (h : LawfulBut d s) {w : Waiter} (hw : w ∈ (s.block b).waiters)
    (hfree : (s.block b).holder = .none) : LawfulBut d (s.award b w) := by
  obtain ⟨hrail, -, hpin⟩ := hd
  have hwait : (s.vehicle w.vehicle).waitingOn = some b :=
    (h.rail.entry b w hw).resolve_right (by rw [hrail]; exact id)
  have hnone : d.crew.pin w.vehicle = none := by
    by_contra hne
    obtain ⟨Q, hQ⟩ := Option.ne_none_iff_exists'.mp hne
    have hgood := h.crew.good w.vehicle
    rw [CrewDebt.good, hQ] at hgood
    exact hpin w.vehicle Q hQ _ hgood hwait
  have hgood := CrewDebt.good_regular hnone
  have hreg : (s.vehicle w.vehicle).Regular := by rw [← hgood]; exact h.crew.good w.vehicle
  obtain ⟨hlen, hused, front, hfront, hsucc⟩ := h.rail.reach w.vehicle b hwait
  have hholds : (s.vehicle w.vehicle).holds ≠ [] := fun e => by rw [e] at hfront; cases hfront
  have hcleared : LawfulBut d ((s.removeEntry b w.vehicle).setVehicle w.vehicle { s.vehicle w.vehicle with waitingOn := none }) := by
    refine h.ofRail (h.clearWait (by rw [hrail]; exact ⟨rfl, rfl⟩) (.inr hwait)) ?_ (fun x => ?_) rfl rfl rfl rfl rfl rfl rfl
      (fewFlips_setVehicle (fewFlips_setBlock h.few b (by exact h.few.1 b)) _ (by exact h.few.2.1 w.vehicle))
    · have hcrew : Crew d.crew (s.removeEntry b w.vehicle) := h.crew.congr (fun _ => rfl) fun _ => rfl
      exact hcrew.revise (by rw [hgood]; exact hreg.wait) (fun hp => absurd hnone hp) rfl rfl
    · rw [setVehicle_read]; split
      · next e => rw [e]
      · rfl
  have hgranted := hcleared.grant (b := b) (v := w.vehicle) (c := d.crew) ?_ (by rw [hrail]; rfl) ?_ ?_ ?_ hused ?_ ?_
  · exact LawfulBut.notifyOwner hgranted _ _
  · refine hcleared.crew.grant ?_
    rw [hgood, setVehicle_same]
    exact hreg.wait.rehold hholds (by simp)
  · show ((s.removeEntry b w.vehicle).block b).holder = .none
    rw [State.removeEntry, State.updBlock, setBlock_same]; exact hfree
  · rw [setVehicle_same]
  · rw [setVehicle_same]; exact hlen
  · rw [setVehicle_same]
    intro x hx
    obtain rfl := Option.some.inj (hfront.symm.trans hx)
    exact hsucc
  · show ∀ x ∈ ((s.removeEntry b w.vehicle).block b).waiters, x.vehicle ≠ w.vehicle
    rw [State.removeEntry, State.updBlock, setBlock_same]
    intro x hx
    simpa [Waiter.isOf] using (List.mem_filter.mp hx).2

theorem arbitrate_lawful (hd : d.NoneWaits b) (h : LawfulBut d s) : LawfulBut d (s.arbitrate b).1 := by
  have hread := h.readBlock hd.2.1 b
  unfold State.arbitrate
  split
  · exact h
  · dsimp only
    split
    · exact hread
    · have hwaiters := LawfulBut.readWaiters hd.2.1 ((s.readBlock b).1.block b).waiters hread
      split
      · next hc =>
        split
        · next w hw =>
          refine award_lawful hd hwaiters (winner_mem hw) ?_
          simp only [BlockRec.contested, Bool.and_eq_true, decide_eq_true_eq] at hc
          exact hc.1.1
        · exact hwaiters
      · exact hwaiters

theorem noneWaits_zero (b : BlockId) : Debt.zero.NoneWaits b := ⟨rfl, fun _ => id, fun _ _ hp => nomatch hp⟩

theorem LawfulBut.askArbiters : ∀ (bs : List BlockId) {s : State}, LawfulBut .zero s → LawfulBut .zero (s.askArbiters bs)
  | [], _, h => h
  | b :: bs, _, h => askArbiters bs (arbitrate_lawful (noneWaits_zero b) h)

end Sys2Proof.Machine
end

section
/-! Runs of releases and the end of a wait, the event's own vehicle in hand (R31, R35, R36, R41). -/

namespace Sys2Proof.Machine

variable {s t : State} {d : Debt} {v : VehicleId} {b : BlockId} {Q Q' : VehicleRec → Prop} {a : Prop} {g p : Slot → Prop}
  {u : VehicleId → Slot → Prop}

theorem noneWaits_about (h : ∀ r, Q r → r.waitingOn ≠ some b) : (Debt.about v Q a g p u).NoneWaits b := by
  refine ⟨rfl, fun _ => id, fun w K hK => ?_⟩
  rcases eq_or_ne w v with rfl | hw
  · have : (Debt.about w Q a g p u).crew.pin w = some Q := by simp [Debt.about]
    rw [this] at hK
    exact Option.some.inj hK ▸ h
  · rw [about_pin_other hw] at hK; cases hK

/-! ## One release (R31) -/

theorem release_lawful (h : LawfulBut (.about v Q a g p u) s)
    (hb : (s.vehicle v).holds.head? = some b ∨ (s.vehicle v).holds.getLast? = some b)
    (hreach : (s.vehicle v).waitingOn = none ∨ ((s.vehicle v).holds.filter (· ≠ b)).getLast? = (s.vehicle v).holds.getLast?)
    (hQ : Steady Q') (hv : Q' { s.vehicle v with holds := (s.vehicle v).holds.filter (· ≠ b) })
    (hwait : ∀ r, Q' r → r.waitingOn ≠ some b) : LawfulBut (.about v Q' a g p u) (s.release v b).1 := by
  have hfree {x : BlockRec} (hx : ((s.block b).frozen = true ∧ x = s.block b) ∨
      ((s.block b).frozen = false ∧ x = { s.block b with holder := .none })) :
      LawfulBut (.about v Q' a g p u)
        ((s.setVehicle v { s.vehicle v with holds := (s.vehicle v).holds.filter (· ≠ b) }).setBlock b x) := by
    have hrail := h.rail.release (v := v) (b := b) (x := x) (r := { s.vehicle v with holds := (s.vehicle v).holds.filter (· ≠ b) })
      rfl hb (hx.imp (fun e => ⟨e.1, by rw [e.2]⟩) fun e => ⟨e.1, by rw [e.2]⟩) (hx.elim (fun e => by rw [e.2]) fun e => by rw [e.2])
      (hx.elim (fun e => by rw [e.2]) fun e => by rw [e.2]) rfl rfl id hreach
    have hread (w) : ((s.setVehicle v { s.vehicle v with holds := (s.vehicle v).holds.filter (· ≠ b) }).setBlock b x).vehicle w =
        if w = v then { s.vehicle v with holds := (s.vehicle v).holds.filter (· ≠ b) } else s.vehicle w := setVehicle_read ..
    have hcrew := Crew.rehand (t := (s.setVehicle v { s.vehicle v with holds := (s.vehicle v).holds.filter (· ≠ b) }).setBlock b x)
      h.crew (fun w hw => by rw [hread, if_neg hw]) (fun _ => rfl) hQ (by rw [hread, if_pos rfl]; exact hv)
      (by rw [hread, if_pos rfl]) (by rw [hread, if_pos rfl]) (by rw [hread, if_pos rfl])
    exact ⟨hrail, hcrew, h.book.congr (fun _ => rfl) rfl fun _ => rfl,
      h.site.congr (fun w => by rw [hread]; split; exacts [by rename_i e; rw [e], rfl]) (fun _ => Iff.rfl) rfl rfl rfl rfl,
      fewFlips_setBlock (fewFlips_setVehicle h.few v (by exact h.few.2.1 v)) b
        (hx.elim (fun e => by rw [e.2]; exact h.few.1 b) fun e => by rw [e.2]; exact h.few.1 b)⟩
  unfold State.release
  dsimp only
  split
  · next hf =>
    have hset := hfree (x := s.block b) (.inl ⟨hf, rfl⟩)
    have e := setBlock_block (s.setVehicle v { s.vehicle v with holds := (s.vehicle v).holds.filter (· ≠ b) }) b
    rw [setVehicle_at_block] at e
    rw [e] at hset
    exact hset
  · next hf => exact arbitrate_lawful (noneWaits_about hwait) (hfree (.inr ⟨by simpa using hf, rfl⟩))

/-! ## Runs of releases (R41) -/

/-- What is known of the vehicle by its holding list, and kept as a block leaves it. -/
structure Releasing (P : List BlockId → VehicleRec → Prop) : Prop where
  steady : ∀ L, Steady (P L)
  holds : ∀ L r, P L r → r.holds = L

/-- The blocks leave the list one after another, each at one of its ends. -/
def Peels (P : List BlockId → VehicleRec → Prop) : List BlockId → List BlockId → Prop
  | _, [] => True
  | L, b :: bs => (L.head? = some b ∨ L.getLast? = some b) ∧
      (∀ r, P L r → (r.waitingOn = none ∨ (L.filter (· ≠ b)).getLast? = L.getLast?) ∧
        P (L.filter (· ≠ b)) { r with holds := L.filter (· ≠ b) }) ∧
      (∀ r, P (L.filter (· ≠ b)) r → r.waitingOn ≠ some b) ∧ Peels P (L.filter (· ≠ b)) bs

theorem release_peel {P : List BlockId → VehicleRec → Prop} {L bs : List BlockId} (hP : Releasing P) (hp : Peels P L (b :: bs))
    (h : LawfulBut (.about v (P L) a g p u) s) :
    LawfulBut (.about v (P (L.filter (· ≠ b))) a g p u) (s.release v b).1 := by
  obtain ⟨hend, hstep, hwait, -⟩ := hp
  have hL := hP.holds L _ h.held
  obtain ⟨hreach, hv⟩ := hstep _ h.held
  exact release_lawful h (by rw [hL]; exact hend) (by rw [hL]; exact hreach) (hP.steady _) (by rw [hL]; exact hv) hwait

theorem releaseUntil_lawful {P : List BlockId → VehicleRec → Prop} (hP : Releasing P) : ∀ (bs : List BlockId) {L : List BlockId}
    {s : State}, Peels P L bs → LawfulBut (.about v (P L) a g p u) s →
    ∃ L', LawfulBut (.about v (P L') a g p u) (State.releaseUntil s v bs).1
  | [], L, _, _, h => ⟨L, h⟩
  | b :: bs, L, s, hp, h => by
    have hread := h.readBlock (fun _ => id) b
    unfold State.releaseUntil
    dsimp only
    split
    · exact ⟨L, hread⟩
    · exact releaseUntil_lawful hP bs hp.2.2.2 (release_peel hP hp hread)

theorem releaseEvery_lawful {P : List BlockId → VehicleRec → Prop} (hP : Releasing P) : ∀ (bs : List BlockId) {L : List BlockId}
    {s : State}, Peels P L bs → LawfulBut (.about v (P L) a g p u) s →
    LawfulBut (.about v (P (bs.foldl (fun L b => L.filter (· ≠ b)) L)) a g p u) (State.releaseEvery s v bs).1
  | [], _, _, _, h => h
  | b :: bs, L, s, hp, h => by
    have hread := h.readBlock (fun _ => id) b
    unfold State.releaseEvery
    exact releaseEvery_lawful hP bs hp.2.2.2 (release_peel hP hp hread)

theorem foldl_filter_ne {α : Type} [DecidableEq α] : ∀ (bs L : List α),
    bs.foldl (fun L b => L.filter (· ≠ b)) L = L.filter (· ∉ bs)
  | [], L => by simp
  | b :: bs, L => by
    rw [List.foldl_cons, foldl_filter_ne bs, List.filter_filter]
    refine List.filter_congr fun x _ => ?_
    simp [Bool.and_comm]

/-! ## Which lists peel -/

theorem filter_ne_cons {α : Type} [DecidableEq α] {x : α} {L : List α} (hn : (x :: L).Nodup) : (x :: L).filter (· ≠ x) = L := by
  rw [List.filter_cons_of_neg (by simp)]
  exact List.filter_eq_self.mpr fun y hy => by
    have := (List.nodup_cons.mp hn).1
    simp only [ne_eq, decide_eq_true_eq]
    rintro rfl; exact this hy

theorem filter_ne_concat {α : Type} [DecidableEq α] {x : α} {L : List α} (hn : (L ++ [x]).Nodup) :
    (L ++ [x]).filter (· ≠ x) = L := by
  rw [List.filter_append, List.filter_cons_of_neg (by simp), List.filter_nil, List.append_nil]
  exact List.filter_eq_self.mpr fun y hy => by
    simp only [ne_eq, decide_eq_true_eq]
    rintro rfl
    exact (List.disjoint_of_nodup_append hn) hy List.mem_cons_self

theorem getLast?_cons_of_ne_nil {α : Type} {x : α} {L : List α} (h : L ≠ []) : (x :: L).getLast? = L.getLast? := by
  obtain ⟨y, L, rfl⟩ := List.exists_cons_of_ne_nil h
  simp [List.getLast?_cons_cons]

/-- The blocks behind one that the vehicle has, rear first. -/
theorem peels_behind {P : List BlockId → VehicleRec → Prop} (hdrop : ∀ L r L', P L r → L' ≠ [] → P L' { r with holds := L' }) :
    ∀ (L : List BlockId), L.Nodup → b ∈ L → (∀ x ∈ L, ∀ K r, P K r → r.waitingOn ≠ some x) → Peels P L (L.takeWhile (· ≠ b))
  | [], _, hb, _ => absurd hb List.not_mem_nil
  | x :: L, hn, hb, hwait => by
    rcases eq_or_ne x b with rfl | hx
    · rw [List.takeWhile_cons_of_neg (by simp)]; trivial
    · have hbL : b ∈ L := (List.mem_cons.mp hb).resolve_left (Ne.symm hx)
      have hne : L ≠ [] := List.ne_nil_of_mem hbL
      rw [List.takeWhile_cons_of_pos (by simpa using hx)]
      rw [Peels, filter_ne_cons hn]
      exact ⟨.inl rfl, fun r hr => ⟨.inr (getLast?_cons_of_ne_nil hne).symm, hdrop _ r L hr hne⟩,
        fun r => hwait x List.mem_cons_self L r, peels_behind hdrop L (List.nodup_cons.mp hn).2 hbL
          fun y hy => hwait y (List.mem_cons_of_mem x hy)⟩

/-- Blocks of the front, front first, the rear one kept. -/
theorem peels_ahead {P : List BlockId → VehicleRec → Prop} (hdrop : ∀ L r L', P L r → L' ≠ [] → P L' { r with holds := L' })
    (hnone : ∀ L r, P L r → r.waitingOn = none) :
    ∀ (n : Nat) (M : List BlockId), M.Nodup → n < M.length → Peels P M.reverse (M.take n)
  | 0, M, _, _ => by rw [List.take_zero]; trivial
  | n + 1, [], _, hlt => absurd hlt (Nat.not_lt_zero _)
  | n + 1, x :: M, hn, hlt => by
    have hne : M.reverse ≠ [] := fun e => by
      rw [List.reverse_eq_nil_iff] at e
      rw [e] at hlt; exact absurd hlt (by simp)
    have hn' : (M.reverse ++ [x]).Nodup := by rw [← List.reverse_cons]; exact List.nodup_reverse.mpr hn
    rw [List.take_succ_cons, List.reverse_cons, Peels, filter_ne_concat hn']
    refine ⟨.inr (by simp), fun r hr => ⟨.inl (hnone _ r hr), hdrop _ r _ hr hne⟩,
      fun r hr e => Option.some_ne_none x (e.symm.trans (hnone _ r hr)), peels_ahead hdrop hnone n M (List.nodup_cons.mp hn).2 ?_⟩
    exact Nat.lt_of_succ_lt_succ hlt

/-- The whole list, rear first. -/
theorem peels_all {P : List BlockId → VehicleRec → Prop} (hdrop : ∀ L r L', P L r → P L' { r with holds := L' })
    (hnone : ∀ L r, P L r → r.waitingOn = none) : ∀ (L : List BlockId), L.Nodup → Peels P L L
  | [], _ => trivial
  | x :: L, hn => by
    rw [Peels, filter_ne_cons hn]
    exact ⟨.inl rfl, fun r hr => ⟨.inl (hnone _ r hr), hdrop _ r L hr⟩, fun r hr e => Option.some_ne_none x (e.symm.trans (hnone _ r hr)),
      peels_all hdrop hnone L (List.nodup_cons.mp hn).2⟩

/-! ## The end of a wait (R35, R36) -/

/-- R137: a block whose record was found uncorrectable is FROZEN. -/
theorem readBlock_frozen (h : LawfulBut d s) (hi : ∀ v, ¬ d.crew.inert v) (hb : (s.readBlock b).2 = true) :
    ((s.readBlock b).1.block b).frozen = true := by
  rw [State.readBlock, read_step] at hb ⊢
  unfold State.readWith at hb ⊢
  dsimp only at hb ⊢
  split at hb
  · cases hb
  · next hf =>
    rw [if_neg hf]
    rcases checkBlock_correctable_or hf (h.few.1 b) with e | e <;> rw [e] at hb ⊢
    · cases hb
    · have hnoted := ((h.captureError (.block b) .uncorrectable .access).notifyIntegrity .record (.block b) .access none)
      have k := readNested_keepsLaws 1408 .access
      exact (hnoted.freezeFixed k (fun w e => absurd e (hi w)) b).rail.iced b (.inr rfl)

theorem steady_unwaiting (hQ : Steady Q) : Steady fun r => Q r ∧ r.waitingOn = none := by
  refine ⟨fun r h => ⟨hQ.wait r h.1, rfl⟩, fun r n h => ⟨hQ.seq r n h.1, h.2⟩, fun r n h ho => ⟨hQ.release r n h.1 ho, ?_⟩⟩
  rw [← h.2]
  unfold VehicleRec.bereft VehicleRec.parted VehicleRec.idled VehicleRec.loaded
  split <;> (try split) <;> (try split) <;> rfl

theorem bereft_waitingOn (r : VehicleRec) (n : Word) : (r.bereft n).waitingOn = r.waitingOn := by
  unfold VehicleRec.bereft VehicleRec.parted VehicleRec.idled VehicleRec.loaded
  split <;> (try split) <;> (try split) <;> rfl

theorem steady_waits (hQ : Steady Q) (w : Option BlockId) :
    Steady fun r => Q r ∧ (r.waitingOn = none ∨ r.waitingOn = w) :=
  ⟨fun r h => ⟨hQ.wait r h.1, .inl rfl⟩, fun r n h => ⟨hQ.seq r n h.1, h.2⟩,
    fun r n h ho => ⟨hQ.release r n h.1 ho, by rw [bereft_waitingOn]; exact h.2⟩⟩

theorem endWait_lawful (h : LawfulBut (.about v Q a g p u) s) :
    LawfulBut (.about v (fun r => Q r ∧ r.waitingOn = none) a g p u) (s.endWait v).1 := by
  have hQ := h.held_steady
  have hpin {t : State} (ht : LawfulBut (.about v Q a g p u) t) (hn : (t.vehicle v).waitingOn = none) :
      LawfulBut (.about v (fun r => Q r ∧ r.waitingOn = none) a g p u) t := ht.repin (steady_unwaiting hQ) ⟨ht.held, hn⟩
  unfold State.endWait
  split
  · next e => exact hpin h e
  · next b e =>
    have hread := (h.repin (steady_waits hQ (some b)) ⟨h.held, .inr e⟩).readBlock (fun _ => id) b
    obtain ⟨hv, hw⟩ := hread.held
    have hreadQ := hread.repin hQ hv
    dsimp only
    split
    · next hbad =>
      refine hpin hreadQ (hw.resolve_right fun hwb => ?_)
      have hfrozen := readBlock_frozen h (fun _ => id) hbad
      obtain ⟨w, hmem, -⟩ := (hread.rail.waits v b hwb).resolve_right id
      rw [hread.rail.still b hfrozen] at hmem
      exact List.not_mem_nil hmem
    · have hrail := hreadQ.clearWait (v := v) (b := b) ⟨rfl, rfl⟩ hw
      have hset : ∀ w, ((((s.readBlock b).1.removeEntry b v).setVehicle v
          { (s.readBlock b).1.vehicle v with waitingOn := none }).vehicle w) =
          if w = v then { (s.readBlock b).1.vehicle v with waitingOn := none } else (s.readBlock b).1.vehicle w :=
        fun w => setVehicle_read ..
      refine hreadQ.ofRail (t := ((s.readBlock b).1.removeEntry b v).setVehicle v
        { (s.readBlock b).1.vehicle v with waitingOn := none }) hrail ?_ (fun w => ?_) rfl rfl rfl rfl rfl rfl rfl
        (fewFlips_setVehicle (fewFlips_setBlock hreadQ.few b (by exact hreadQ.few.1 b)) v (by exact hreadQ.few.2.1 v)) |>.repin
          (steady_unwaiting hQ) ?_
      · exact Crew.rehand hreadQ.crew (fun w hw => by rw [hset, if_neg hw]) (fun _ => rfl) hQ
          (by rw [hset, if_pos rfl]; exact hQ.wait _ hv) (by rw [hset, if_pos rfl]) (by rw [hset, if_pos rfl])
          (by rw [hset, if_pos rfl])
      · rw [hset]; split
        · next e => rw [e]
        · rfl
      · show Q (State.vehicle (((s.readBlock b).1.removeEntry b v).setVehicle v
          { (s.readBlock b).1.vehicle v with waitingOn := none }) v) ∧ _
        rw [hset, if_pos rfl]
        exact ⟨hQ.wait _ hv, rfl⟩

theorem cancelWait_lawful (h : LawfulBut (.about v Q a g p u) s) :
    LawfulBut (.about v (fun r => Q r ∧ r.waitingOn = none) a g p u) (s.cancelWait v).1 := by
  have hend := endWait_lawful h
  unfold State.cancelWait
  dsimp only
  split
  · exact hend.notifyOwner ..
  · exact hend

end Sys2Proof.Machine
end

section
/-! POSITION, RELEASE_AHEAD, LEAVE and EVICT keep the laws (R33, R34, R39, R40, R67, R81, R82). -/

namespace Sys2Proof.Machine

variable {s t : State} {v : VehicleId} {b : BlockId}

theorem bereft_holds (r : VehicleRec) (n : Word) : (r.bereft n).holds = r.holds := by
  unfold VehicleRec.bereft VehicleRec.parted VehicleRec.idled VehicleRec.loaded
  split <;> (try split) <;> (try split) <;> rfl

theorem bereft_rehold (r : VehicleRec) (n : Word) (H : List BlockId) :
    ({ r with holds := H } : VehicleRec).bereft n = { r.bereft n with holds := H } := by
  unfold VehicleRec.bereft VehicleRec.parted VehicleRec.idled VehicleRec.loaded
  dsimp only
  split <;> (try split) <;> (try split) <;> rfl

theorem VehicleRec.Regular.holds_ne_nil {r : VehicleRec} (h : r.Regular) (haway : r.state ≠ .offline) (hstalled : r.state ≠ .stalled) :
    r.holds ≠ [] := fun e => (h.empty e).elim haway fun e => hstalled e.1

/-! ## A vehicle that keeps a block (R33, R34) -/

/-- The vehicle has these blocks, at least one, and waits at most where it did. -/
structure VehicleRec.Moving (wait : Option BlockId) (L : List BlockId) (r : VehicleRec) : Prop where
  regular : r.Regular
  holds : r.holds = L
  some : L ≠ []
  wait : r.waitingOn = none ∨ r.waitingOn = wait

theorem releasing_moving (wait : Option BlockId) : Releasing (VehicleRec.Moving wait) :=
  ⟨fun L => ⟨fun r h => ⟨h.regular.wait, h.holds, h.some, .inl rfl⟩, fun r n h => ⟨h.regular.seq n, h.holds, h.some, h.wait⟩,
    fun r n h ho => ⟨h.regular.bereft n ho, (bereft_holds r n).trans h.holds, h.some, by rw [bereft_waitingOn]; exact h.wait⟩⟩,
    fun _ _ h => h.holds⟩

theorem VehicleRec.Moving.drop {wait : Option BlockId} (L : List BlockId) (r : VehicleRec) (L' : List BlockId) (h : r.Moving wait L)
    (hL : L' ≠ []) : { r with holds := L' }.Moving wait L' :=
  ⟨h.regular.rehold (by rw [h.holds]; exact h.some) hL, rfl, hL, h.wait⟩

/-- After the releases the vehicle is let go of; it has a block, and is in service. -/
theorem LawfulBut.moved {wait : Option BlockId} {L : List BlockId} (h : LawfulBut (.hold v (VehicleRec.Moving wait L)) s) :
    LawfulBut .zero s ∧ (s.vehicle v).holds ≠ [] ∧ s.mode ≠ .setup := by
  have hheld := h.held
  have hholds : (s.vehicle v).holds ≠ [] := by rw [hheld.holds]; exact hheld.some
  exact ⟨h.release_hold hheld.regular, hholds, h.ne_setup_of_state fun e => hholds (hheld.regular.away e)⟩

theorem releaseBehind_lawful (h : LawfulBut .zero s) (hf : (s.vehicle v).flips = []) (hb : b ∈ (s.vehicle v).holds) :
    ∃ L, LawfulBut (.hold v (VehicleRec.Moving (s.vehicle v).waitingOn L)) (State.releaseUntil s v ((s.vehicle v).behind b)).1 := by
  have htake := h.take hf ((releasing_moving (s.vehicle v).waitingOn).steady (s.vehicle v).holds)
    ⟨h.regular v, rfl, List.ne_nil_of_mem hb, .inr rfl⟩
  refine releaseUntil_lawful (releasing_moving _) _ ?_ htake
  refine peels_behind VehicleRec.Moving.drop _ (h.rail.nodup v) hb fun x hx K r hr e => ?_
  rcases hr.wait with hw | hw
  · rw [hw] at e; cases e
  · exact h.rail.not_mem_of_waits (v := v) (b := x) id (hw.symm.trans e) hx

theorem reportPosition_lawful (h : LawfulBut .zero s) (hf : (s.vehicle v).flips = []) (hb : b ∈ (s.vehicle v).holds) :
    Lawfully (s.reportPosition v b) := by
  obtain ⟨L, hout⟩ := releaseBehind_lawful h hf hb
  obtain ⟨hz, hholds, hm⟩ := hout.moved
  have hset := (hz.setOwner hholds hm).restartSilence v
  unfold State.reportPosition
  dsimp only
  refine LawfulBut.noteVehicleIfChanged ?_ _ _
  split
  · exact hset.setTrigger
  · exact hset

theorem releaseAhead_lawful (h : LawfulBut .zero s) (hf : (s.vehicle v).flips = []) {n : Nat} (hn : n < (s.vehicle v).holds.length) :
    Lawfully (s.releaseAhead v n) := by
  have hne : (s.vehicle v).holds ≠ [] := List.ne_nil_of_length_pos (by omega)
  have htake := h.take hf ((releasing_moving (s.vehicle v).waitingOn).steady (s.vehicle v).holds)
    ⟨h.regular v, rfl, hne, .inr rfl⟩
  have hend := endWait_lawful htake
  obtain ⟨hheld, hnone⟩ := hend.held
  have hpin := hend.repin ((releasing_moving none).steady (s.vehicle v).holds) ⟨hheld.regular, hheld.holds, hne, .inl hnone⟩
  have hnodup : ((s.endWait v).1.vehicle v).holds.Nodup := hend.rail.nodup v
  have hpeels : Peels (VehicleRec.Moving none) (s.vehicle v).holds (((s.endWait v).1.vehicle v).holds.reverse.take n) := by
    have := peels_ahead VehicleRec.Moving.drop (fun _ _ hr => hr.wait.elim id id) n ((s.endWait v).1.vehicle v).holds.reverse
      (List.nodup_reverse.mpr hnodup) (by rw [List.length_reverse, hheld.holds]; exact hn)
    rw [List.reverse_reverse] at this
    exact hheld.holds ▸ this
  obtain ⟨L, hout⟩ := releaseUntil_lawful (releasing_moving none) _ hpeels hpin
  exact hout.moved.1.restartSilence v

/-! ## A vehicle that gives up every block (R39, R40) -/

/-- `R` but for the blocks, once `H`, and the wait it has given up. -/
structure VehicleRec.Leaving (R : VehicleRec → Prop) (H L : List BlockId) (r : VehicleRec) : Prop where
  once : R { r with holds := H }
  holds : r.holds = L
  wait : r.waitingOn = none

theorem releasing_leaving {R : VehicleRec → Prop} (hR : Steady R) (H : List BlockId) : Releasing (VehicleRec.Leaving R H) :=
  ⟨fun L => ⟨fun r h => ⟨hR.wait _ h.once, h.holds, rfl⟩, fun r n h => ⟨hR.seq _ n h.once, h.holds, h.wait⟩,
    fun r n h ho => ⟨by rw [← bereft_rehold]; exact hR.release _ n h.once ho, (bereft_holds r n).trans h.holds,
      (bereft_waitingOn r n).trans h.wait⟩⟩, fun _ _ h => h.holds⟩

/-- The wait ends, then every block is released. -/
theorem releaseAll_lawful {R : VehicleRec → Prop} (h : LawfulBut (.hold v R) s) :
    LawfulBut (.hold v (VehicleRec.Leaving R (s.vehicle v).holds []))
      (State.releaseEvery (s.endWait v).1 v ((s.endWait v).1.vehicle v).holds).1 := by
  have hR := h.held_steady
  have hpin := h.repin (Q' := fun r => R r ∧ r.holds = (s.vehicle v).holds)
    ⟨fun r hr => ⟨hR.wait r hr.1, hr.2⟩, fun r n hr => ⟨hR.seq r n hr.1, hr.2⟩,
      fun r n hr ho => ⟨hR.release r n hr.1 ho, (bereft_holds r n).trans hr.2⟩⟩ ⟨h.held, rfl⟩
  have hend := endWait_lawful hpin
  obtain ⟨⟨hv, hholds⟩, hnone⟩ := hend.held
  have hleave := hend.repin ((releasing_leaving hR (s.vehicle v).holds).steady (s.vehicle v).holds)
    ⟨by rw [← hholds]; exact hv, hholds, hnone⟩
  have hnodup : ((s.endWait v).1.vehicle v).holds.Nodup := hend.rail.nodup v
  rw [hholds] at hnodup ⊢
  have hout := releaseEvery_lawful (releasing_leaving hR (s.vehicle v).holds) (s.vehicle v).holds
    (peels_all (fun L r L' hr => ⟨hr.once, rfl, hr.wait⟩) (fun _ _ hr => hr.wait) _ hnodup) hleave
  have e : (s.vehicle v).holds.filter (· ∉ (s.vehicle v).holds) = [] := List.filter_eq_nil_iff.mpr fun x hx => by simpa using hx
  rw [foldl_filter_ne, e] at hout
  exact hout

/-- Regular, and IDLE or WITHDRAWN. -/
def VehicleRec.Off (r : VehicleRec) : Prop := r.Regular ∧ (r.state = .idle ∨ r.state = .withdrawn)

theorem VehicleRec.Off.none {r : VehicleRec} (h : r.Off) : r.order = none ∧ r.cause = none ∧ r.saved = none ∧ r.offer = none := by
  obtain ⟨hr, hs⟩ := h
  refine ⟨?_, ?_, ?_, ?_⟩ <;> by_contra e
  · have := hr.order.mp e; rcases hs with e | e <;> rw [e] at this <;> simp at this
  · have := hr.cause.mp e; rcases hs with e | e <;> rw [e] at this <;> cases this
  · have := hr.saved e; rcases hs with e | e <;> rw [e] at this <;> cases this
  · have := hr.offer e; rcases hs with e | e <;> rw [e] at this <;> cases this

theorem steady_off : Steady VehicleRec.Off :=
  ⟨fun _ h => ⟨h.1.wait, h.2⟩, fun _ n h => ⟨h.1.seq n, h.2⟩, fun _ _ h ho => absurd h.none.1 ho⟩

/-- A vehicle without blocks, wait and order may be OFFLINE. -/
theorem offline_regular {r : VehicleRec} (hstate : r.state = .offline) (hholds : r.holds = []) (howner : r.owner = none)
    (hwait : r.waitingOn = none) (horder : r.order = none) (hcause : r.cause = none) (hsaved : r.saved = none)
    (hoffer : r.offer = none) : r.Regular := by
  constructor <;> simp_all

/-- R67: an IDLE or WITHDRAWN vehicle that has given up its blocks. -/
theorem left_lawful {H : List BlockId} (h : LawfulBut (.hold v (VehicleRec.Leaving VehicleRec.Off H [])) s) :
    LawfulBut .zero (s.updVehicle v VehicleRec.left) := by
  obtain ⟨hoff, hholds, hwait⟩ := h.held
  obtain ⟨horder, hcause, hsaved, hoffer⟩ := hoff.none
  refine h.settleVehicle (r := (s.vehicle v).left) (offline_regular rfl hholds rfl hwait horder hcause hsaved hoffer) rfl rfl rfl
    (fun _ => rfl) h.hold_names fun o x hx hxv => ?_
  have := (h.hold_names o).mp ⟨x, hx, hxv⟩
  rw [show (s.vehicle v).order = none from horder] at this; cases this

theorem leaveRail_lawful (h : LawfulBut .zero s) (hf : (s.vehicle v).flips = [])
    (hst : (s.vehicle v).state = .idle ∨ (s.vehicle v).state = .withdrawn) : Lawfully (s.leaveRail v) :=
  (left_lawful (releaseAll_lawful (h.take hf steady_off ⟨h.regular v, hst⟩))).noteVehicle _ _

/-! ## EVICT (R81, R82) -/

theorem queuedBoundTo_some {o : Slot} (h : s.queuedBoundTo v = some o) : ∃ r, s.order o = some r ∧ r.state = .queued := by
  have := List.find?_some h
  cases hr : s.order o with
  | none => rw [hr] at this; cases this
  | some r =>
    rw [hr] at this
    simp only [Bool.and_eq_true, decide_eq_true_eq] at this
    exact ⟨r, rfl, this.1⟩

theorem unbind_lawful {d : Debt} (h : LawfulBut d s) (hkept : ∀ o x, ¬ d.book.kept o x) : LawfulBut d (s.unbind v) := by
  unfold State.unbind
  split
  · next o ho =>
    obtain ⟨r, hr, hq⟩ := queuedBoundTo_some ho
    obtain ⟨h1, h2, h3, h4⟩ := h.book.sound o r hr
    show LawfulBut d (s.setOrder o ((s.order o).map _))
    rw [hr]
    exact h.rewrite (r' := { r with bound := none }) hr ⟨h1, h2, h3, h4⟩ rfl rfl (fun _ => rfl) rfl (fun _ _ => Iff.rfl)
      (by exact h.few.2.2 o r hr) (hkept o)
  · exact h

/-- R82 step 1: no order names the vehicle any more. -/
theorem evictOrder_lawful {Q : VehicleRec → Prop} (h : LawfulBut (.hold v Q) s) :
    LawfulBut (.about v Q False (fun _ => True) (fun _ => False) fun y _ => y = v) (s.evictOrder v).1 := by
  unfold State.evictOrder
  split
  · next hnone =>
    refine h.about_mono h.held_steady h.held id (fun _ _ => trivial) (fun _ => id) fun w x e => .inr fun hn => ?_
    rw [e] at hn
    have := (h.hold_names x).mp hn
    rw [hnone] at this; cases this
  · next o ho =>
    obtain ⟨r, hr, hv⟩ := (h.hold_names o).mpr ho
    have w : Held v o r Q s := ⟨h, ho, hr⟩
    have hweak {t : State} (ht : LawfulBut (.about v Q False (· = o) (fun _ => False) fun y _ => y = v) t) :
        LawfulBut (.about v Q False (fun _ => True) (fun _ => False) fun y _ => y = v) t :=
      ht.about_mono ht.held_steady ht.held id (fun _ _ => trivial) (fun _ => id) fun _ _ => .inl
    split
    · exact hweak (w.requeued v .evicted)
    · exact hweak (w.requeued v .evicted)
    · exact hweak (w.ended .failed _)

/-- R81: a vehicle that has given up its blocks, named by no order. -/
theorem evicted_lawful {R : VehicleRec → Prop} {H : List BlockId} {g : Slot → Prop}
    (h : LawfulBut (.about v (VehicleRec.Leaving R H []) False g (fun _ => False) fun y _ => y = v) s) :
    LawfulBut .zero (s.updVehicle v VehicleRec.evicted) := by
  obtain ⟨-, hholds, hwait⟩ := h.held
  exact h.settleVehicle (r := (s.vehicle v).evicted) (offline_regular rfl hholds rfl hwait rfl rfl rfl rfl) rfl rfl rfl
    (fun _ => rfl) (fun o => iff_of_false (h.crew.unnamed v o rfl) nofun) fun o x hx hxv => absurd ⟨x, hx, hxv⟩ (h.crew.unnamed v o rfl)

theorem evictVehicle_lawful (h : LawfulBut .zero s) (hf : (s.vehicle v).flips = []) (bad : Bool) : Lawfully (s.evictVehicle v bad) := by
  have hread := (h.take hf steady_regular (h.regular v)).readOrderOf (fun _ => id) v
  have hleave := releaseAll_lawful hread
  unfold State.evictVehicle
  dsimp only
  generalize (State.releaseEvery ((s.readOrderOf v).1.endWait v).1 v (((s.readOrderOf v).1.endWait v).1.vehicle v).holds).1 = x at hleave ⊢
  have hout := (evictOrder_lawful hleave).readAll (fun _ => id) (x.evictOrder v).1.orderRefs
  exact (evicted_lawful (unbind_lawful (v := v) hout fun _ _ => id)).noteVehicle _ _

/-! ## The requests -/

section Requests

variable {h : Hdr}

theorem execPosition_lawful {v b} (hs : LawfulBut .zero s) (ht : execPosition h v b s = .next t) : LawfulBut .zero t := by
  refine request_lawful hs (fun u hu _ => inRange_lawful hu fun v _ => inRange_lawful hu fun b _ => ?_) ht
  split
  · exact hu
  · refine withVehicle_lawful hu fun x hx hf _ _ => ?_
    split
    · exact hx
    · split
      · exact hx
      · split
        · exact hx
        · next hheld => exact reportPosition_lawful hx hf (by simpa using hheld)

theorem execReleaseAhead_lawful {v n} (hs : LawfulBut .zero s) (ht : execReleaseAhead h v n s = .next t) : LawfulBut .zero t := by
  refine request_lawful hs (fun u hu _ => inRange_lawful hu fun v _ => ?_) ht
  split
  · exact hu
  · refine withOwned_lawful hu fun x hx hf _ => ?_
    split
    · exact hx
    · split
      · exact hx
      · next hlt => exact releaseAhead_lawful hx hf (not_le.mp hlt)

theorem execLeave_lawful {v} (hs : LawfulBut .zero s) (ht : execLeave h v s = .next t) : LawfulBut .zero t := by
  refine request_lawful hs (fun u hu _ => inRange_lawful hu fun v _ => withOwned_lawful hu fun x hx hf _ => ?_) ht
  split
  · next hst => exact leaveRail_lawful hx hf hst
  · exact hx

theorem execEvict_lawful {v} (hs : LawfulBut .zero s) (ht : execEvict h v s = .next t) : LawfulBut .zero t := by
  refine request_lawful hs (fun u hu _ => inRange_lawful hu fun v _ => ?_) ht
  have hread := hu.readVehicle (fun _ => id) v
  dsimp only
  split
  · exact hread
  · exact evictVehicle_lawful hread (hu.readVehicle_flips (fun _ => id) v) _

end Requests

end Sys2Proof.Machine
end

section
/-! Stalls, RECOVER and JOIN keep the laws (R66, R71 to R73, R76, R77). -/

namespace Sys2Proof.Machine

variable {s t : State} {v : VehicleId} {b : BlockId} {o : Slot}

/-! ## A stall (R72, R73) -/

/-- A vehicle that was in state `was` and has become STALLED, its order not yet dealt with. -/
structure VehicleRec.Stalling (c : StallCause) (was : VState) (r : VehicleRec) : Prop where
  holds : r.holds ≠ []
  owner : r.owner ≠ none
  state : r.state = .stalled
  cause : r.cause = some c
  offer : r.offer = none
  saved : r.saved = some was ∨ (was = .toDest ∧ r.saved = some .loadedIdle)
  works : r.order ≠ none → (was = .offered ∨ was = .toSource ∨ was = .toDest) ∧ r.saved = some was
  kept : r.saved = some .toDest → r.order ≠ none

theorem steady_stalling (c : StallCause) (was : VState) : Steady (VehicleRec.Stalling c was) := by
  refine ⟨fun r h => ⟨h.holds, h.owner, h.state, h.cause, h.offer, h.saved, h.works, h.kept⟩,
    fun r n h => ⟨h.holds, h.owner, h.state, h.cause, h.offer, h.saved, h.works, h.kept⟩, fun r n h ho => ?_⟩
  obtain ⟨holds, owner, state, cause, offer, saved, works, kept⟩ := h
  have hsaved := (works ho).2
  unfold VehicleRec.bereft VehicleRec.parted
  rw [state]
  dsimp only
  split
  · next e =>
    rw [hsaved] at e
    exact ⟨holds, owner, rfl, cause, rfl, .inr ⟨Option.some.inj e, rfl⟩, fun h => absurd rfl h, nofun⟩
  · next e => exact ⟨holds, owner, rfl, cause, rfl, saved, fun h => absurd rfl h, fun h => absurd h e⟩

theorem VehicleRec.Regular.stalling {r : VehicleRec} (h : r.Regular) (haway : r.state ≠ .offline) (hstalled : r.state ≠ .stalled)
    (c : StallCause) : (r.stall c).Stalling c r.state := by
  have hholds := h.holds_ne_nil haway hstalled
  refine ⟨hholds, fun e => hholds (h.owner.mp e), rfl, rfl, rfl, .inl rfl, fun ho => ⟨?_, rfl⟩, fun e => h.order.mpr ?_⟩
  · rcases h.order.mp ho with e | e | e | ⟨e, -⟩
    · exact .inl e
    · exact .inr (.inl e)
    · exact .inr (.inr e)
    · exact absurd e hstalled
  · exact .inr (.inr (.inl (Option.some.inj e)))

/-- The record once the order is dealt with. -/
theorem VehicleRec.Stalling.regular {c : StallCause} {was : VState} {r : VehicleRec} (h : r.Stalling c was) (hwait : r.waitingOn = none)
    {x : VState} {o : Option Slot} (hx : x = .idle ∨ x = .loadedIdle ∨ x = .withdrawn ∨ x = .toDest)
    (ho : o ≠ none ↔ x = .toDest) : { r with order := o, saved := some x }.Regular := by
  obtain ⟨holds, owner, state, cause, offer, -, -, -⟩ := h
  constructor <;> simp_all

theorem stallOrder_lawful {c : StallCause} {was : VState} {Q : VehicleRec → Prop}
    (h : LawfulBut (.about v Q (was ≠ .toDest) (fun _ => False) (fun _ => False) fun _ _ => False) s)
    (hQ : ∀ r, Q r → r.Stalling c was ∧ r.waitingOn = none) (haway : was ≠ .offline) (hstalled : was ≠ .stalled) :
    LawfulBut .zero (s.stallOrder v was).1 := by
  obtain ⟨hv, hwait⟩ := hQ _ h.held
  have hnames (x) : s.Names x v ↔ (s.vehicle v).order = some x :=
    ⟨fun hn => (h.crew.named v x hn).resolve_right And.right, fun ho => (h.crew.points v x ho).resolve_right And.right⟩
  have hm : s.mode ≠ .setup := h.ne_setup_of_state (v := v) (by rw [hv.state]; exact VState.noConfusion)
  unfold State.stallOrder
  split
  · next hnone =>
    have hno (x) : ¬ s.Names x v := fun hn => by
      have := (hnames x).mp hn
      rw [hnone] at this; cases this
    split
    · have hreg := hv.regular hwait (x := if (s.vehicle v).carrier = .none then .idle else .loadedIdle) (o := none)
        (by split <;> simp) (by split <;> simp)
      rw [← hnone] at hreg
      exact h.settleVehicle (r := (s.vehicle v).orderLost) hreg rfl rfl rfl (fun e => absurd e hm)
        (fun x => (hnames x)) fun x y hy hyv => absurd ⟨y, hy, hyv⟩ (hno x)
    · next hwas =>
      simp only [not_or] at hwas
      obtain ⟨y, hy, hkind⟩ : ∃ y, (s.vehicle v).saved = some y ∧ (y = .idle ∨ y = .loadedIdle ∨ y = .withdrawn) := by
        rcases hv.saved with e | ⟨-, e⟩
        · refine ⟨was, e, ?_⟩
          have hd : was ≠ .toDest := fun x => hv.kept (x ▸ e) hnone
          cases was <;> simp_all
        · exact ⟨_, e, .inr (.inl rfl)⟩
      have hreg := hv.regular hwait (x := y) (o := none) (by rcases hkind with e | e | e <;> simp [e])
        (by rcases hkind with e | e | e <;> simp [e])
      rw [← hnone, ← hy] at hreg
      exact h.letGo hreg (fun e => absurd e hm) hnames fun x z hz hzv => absurd ⟨z, hz, hzv⟩ (hno x)
  · next o ho =>
    obtain ⟨r, hr, hrv⟩ := (hnames o).mpr ho
    have hq : r.state ≠ .queued := fun e => by
      rw [(h.book.sound o r hr).idle.mp e] at hrv; cases hrv
    have hsaved := (hv.works (by rw [ho]; exact Option.some_ne_none o)).2
    have hrequeued (x : VState) (hx : x = .idle ∨ x = .loadedIdle) :
        LawfulBut .zero ((s.requeue o v .stalled).updVehicle v fun r => { r with order := none, saved := some x }) := by
      have hout : LawfulBut (.about v Q (was ≠ .toDest) (· = o) (fun _ => False) fun y z => y = v ∧ z = o) (s.requeue o v .stalled) :=
        h.requeue hr hq v .stalled (fun _ _ _ e => e.2.elim) (fun y hy => ⟨?_, rfl⟩) fun _ _ hz e => absurd e.2 hz
      · have hno (z) (hn : (s.requeue o v .stalled).Names z v) : False := by
          rcases eq_or_ne z o with rfl | hz
          · exact hout.crew.unnamed v z ⟨rfl, rfl⟩ hn
          · obtain ⟨y, hy, hyv⟩ := hn
            rw [requeue_order_other _ _ _ hz] at hy
            exact hz (Option.some.inj (((hnames z).mp ⟨y, hy, hyv⟩).symm.trans ho))
        obtain ⟨hv', hwait'⟩ := hQ _ hout.held
        exact hout.settleVehicle (r := { (s.requeue o v .stalled).vehicle v with order := none, saved := some x })
          (hv'.regular hwait' (hx.imp id .inl) (by rcases hx with e | e <;> simp [e])) rfl rfl rfl
          (fun e => absurd ((BookOnly.requeue s o v .stalled).sameMode.symm.trans e) hm)
          (fun z => iff_of_false (hno z) nofun) fun z y hy hyv => (hno z ⟨y, hy, hyv⟩).elim
      · rcases h.crew.points y o hy with ⟨z, hz, hzy⟩ | hg
        · rw [hr] at hz
          obtain rfl := Option.some.inj hz
          exact Option.some.inj (hzy.symm.trans hrv)
        · exact hg.1
    split
    · exact (hrequeued _ (by split <;> simp)).noteWithdraw ..
    · exact (hrequeued _ (.inl rfl)).noteWithdraw ..
    · have hsus := h.suspend hr hq
      obtain ⟨hv', hwait'⟩ := hQ _ hsus.held
      have hread := suspend_at_vehicle s o v
      have hreg := hv.regular hwait (x := .toDest) (o := some o) (by simp) (by simp)
      rw [← ho, ← hsaved] at hreg
      refine hsus.letGo (by rw [hread]; exact hreg) (fun e => absurd (hsus.site.setup e |>.1 v) (by rw [hv'.state]; exact VState.noConfusion))
        (fun x => ⟨fun hn => (hsus.crew.named v x hn).resolve_right And.right, fun hx => (hsus.crew.points v x hx).resolve_right And.right⟩)
        fun x y hy hyv => hsus.crew.fits v x y (fun e => e.2 rfl) And.right hy hyv
    · next h1 h2 h3 =>
      rcases (hv.works (by rw [ho]; exact Option.some_ne_none o)).1 with e | e | e
      · exact absurd e h1
      · exact absurd e h2
      · exact absurd e h3

theorem stall_lawful (h : LawfulBut .zero s) (hf : (s.vehicle v).flips = []) (haway : (s.vehicle v).state ≠ .offline)
    (hstalled : (s.vehicle v).state ≠ .stalled) (c : StallCause) : LawfulBut .zero (s.stall v c).1 := by
  have hreg := h.regular v
  have htake := h.take hf steady_regular hreg
  have hset : LawfulBut (.about v (VehicleRec.Stalling c (s.vehicle v).state) ((s.vehicle v).state ≠ .toDest) (fun _ => False)
      (fun _ => False) fun _ _ => False) (s.updVehicle v (·.stall c)) := by
    refine htake.writeVehicle (steady_stalling ..) (hreg.stalling haway hstalled c) rfl rfl rfl
      (fun e => absurd ((h.site.setup e).1 v) haway) (fun x hx => .inl ((htake.hold_names x).mpr hx))
      (fun x hx => .inl ((htake.hold_names x).mp hx)) (fun _ _ => id) fun x y ha _ hy hyv => ?_
    have hfit := htake.hold_fits x y hy hyv
    rw [not_ne_iff.mp ha] at hfit
    have hcarry : y.state = .carrying := by
      rcases hfit with ⟨-, e⟩ | ⟨-, e⟩ | ⟨e, -⟩
      · cases e
      · cases e
      · exact e
    exact .inr (.inr ⟨hcarry, .inr rfl⟩)
  have hread := (cancelWait_lawful hset).readOrderOf (fun _ => id) v
  exact (stallOrder_lawful hread (fun _ => id) haway hstalled).noteVehicle _ _

theorem execFault_lawful {h : Hdr} {v} (hs : LawfulBut .zero s) (ht : execFault h v s = .next t) : LawfulBut .zero t := by
  refine request_lawful hs (fun u hu _ => inRange_lawful hu fun v _ => withOwned_lawful hu fun x hx hf howner => ?_) ht
  split
  · exact hx
  · next hst =>
    refine stall_lawful hx hf (fun e => ?_) hst .fault
    have hreg := hx.regular v
    rw [hreg.owner.mpr (hreg.away e)] at howner; cases howner

theorem execSilenceExpiry_lawful (hs : LawfulBut .zero s) (ht : execSilenceExpiry v s = .next t) : LawfulBut .zero t := by
  unfold execSilenceExpiry at ht
  split at ht
  · cases ht; exact hs
  · next hsilent =>
    have hread := hs.readVehicle (fun _ => id) v
    dsimp only at ht
    obtain rfl := next_inj ht
    refine LawfulBut.endEvent ?_
    split
    · exact hread
    · next e =>
      have hcorr : Corrected s (s.readVehicle v).1 := read_corrected hs.few (.vehicle v) (Bool.eq_false_iff.mpr e)
      simp only [VehicleRec.silent, Bool.not_eq_true', Bool.not_eq_false, Bool.and_eq_true, decide_eq_true_eq] at hsilent
      exact stall_lawful hread (hs.readVehicle_flips (fun _ => id) v) (by rw [hcorr.state]; exact hsilent.1.2)
        (by rw [hcorr.state]; exact hsilent.2) .lost

end Sys2Proof.Machine
end

section
/-! RECOVER and JOIN keep the laws (R66, R76, R77). -/

namespace Sys2Proof.Machine

variable {s t : State} {v : VehicleId} {b : BlockId} {o : Slot}

/-! ## RECOVER -/

/-- A vehicle STALLED by loss or fault, with these blocks, at least one. -/
structure VehicleRec.Recovering (L : List BlockId) (r : VehicleRec) : Prop where
  regular : r.Regular
  state : r.state = .stalled
  cause : r.cause = some .lost ∨ r.cause = some .fault
  holds : r.holds = L
  some : L ≠ []

theorem bereft_stalled {r : VehicleRec} (n : Word) (h : r.state = .stalled) :
    (r.bereft n).state = .stalled ∧ (r.bereft n).cause = r.cause := by
  unfold VehicleRec.bereft VehicleRec.parted
  rw [h]
  dsimp only
  split <;> exact ⟨rfl, rfl⟩

theorem releasing_recovering : Releasing VehicleRec.Recovering :=
  ⟨fun L => ⟨fun r h => ⟨h.regular.wait, h.state, h.cause, h.holds, h.some⟩,
    fun r n h => ⟨h.regular.seq n, h.state, h.cause, h.holds, h.some⟩,
    fun r n h ho => ⟨h.regular.bereft n ho, (bereft_stalled n h.state).1, by rw [(bereft_stalled n h.state).2]; exact h.cause,
      (bereft_holds r n).trans h.holds, h.some⟩⟩, fun _ _ h => h.holds⟩

theorem VehicleRec.Recovering.wait {L : List BlockId} {r : VehicleRec} (h : r.Recovering L) : r.waitingOn = none := by
  by_contra e
  exact (h.regular.waits e).2 h.state

theorem unstall_lawful {L : List BlockId} (h : LawfulBut (.hold v (VehicleRec.Recovering L)) s) :
    LawfulBut .zero (s.unstall v).1 := by
  obtain ⟨hreg, hst, hcause, hholds, hne⟩ := h.held
  have hholds' : (s.vehicle v).holds ≠ [] := by rw [hholds]; exact hne
  have howner : (s.vehicle v).owner ≠ none := fun e => hholds' (hreg.owner.mp e)
  have hoffer : (s.vehicle v).offer = none := by by_contra e; have := hreg.offer e; rw [hst] at this; cases this
  have hwait : (s.vehicle v).waitingOn = none := h.held.wait
  have hm : s.mode ≠ .setup := h.ne_setup_of_state (v := v) (by rw [hst]; exact VState.noConfusion)
  have hnone (hs : (s.vehicle v).saved ≠ some .toDest) : (s.vehicle v).order = none := by
    by_contra e
    have := hreg.order.mp e
    rw [hst] at this
    simp [hs] at this
  have hready (hs : (s.vehicle v).saved ≠ some .toDest) : LawfulBut (.hold v (VehicleRec.Ready fun _ => False))
      (s.updVehicle v fun r => { r with cause := none, saved := none }) := by
    refine h.writeVehicle (r := { s.vehicle v with cause := none, saved := none }) (steady_ready _)
      ⟨hholds', howner, rfl, rfl, hoffer, fun x hx => ?_⟩ rfl rfl rfl (fun e => absurd e hm)
      (fun x hx => .inl ((h.hold_names x).mpr hx)) (fun x hx => .inl ((h.hold_names x).mp hx)) (fun _ _ => id) fun x y _ _ hy hyv => ?_
    · rw [show (s.vehicle v).order = some x from hx] at hnone; cases hnone hs
    · have := (h.hold_names x).mp ⟨y, hy, hyv⟩
      rw [hnone hs] at this; cases this
  unfold State.unstall
  dsimp only
  split
  · next e => exact ((hready (by rw [e]; simp)).intoIdle (fun r n hr => hr.idled n) (fun r x hr hx => hr.order x hx) hm).owing_zero fun _ => False.elim
  · next e =>
    exact ((hready (by rw [e]; simp)).intoLoadedIdle _ (fun r hr => hr.loaded _) (fun r x hr hx => hr.order x hx) hm).owing_zero fun _ => False.elim
  · next e =>
    have hsome : (s.vehicle v).order ≠ none := hreg.order.mpr (.inr (.inr (.inr ⟨hst, e⟩)))
    have hset : LawfulBut .zero ((s.updVehicle v fun r => { r with cause := none, saved := none }).updVehicle v
        fun r => { r with state := .toDest }) := by
      have hall := h.settleVehicle (r := { s.vehicle v with cause := none, saved := none, state := .toDest })
        (by constructor <;> simp_all) rfl rfl rfl (fun e => absurd e hm) h.hold_names fun x y hy hyv => ?_
      · rw [State.updVehicle, State.updVehicle, setVehicle_setVehicle, setVehicle_same]
        exact hall
      · have hfit := h.hold_fits x y hy hyv
        rw [hst] at hfit
        rcases hfit with ⟨-, e⟩ | ⟨-, e⟩ | ⟨e, -⟩
        · cases e
        · cases e
        · exact .inr (.inr ⟨e, .inl rfl⟩)
    split
    · next o ho =>
      refine hset.unsuspend fun r hr hq => ?_
      obtain ⟨y, hy, hyv⟩ := (h.hold_names o).mpr ho
      obtain rfl := Option.some.inj (hy.symm.trans hr)
      rw [(h.book.sound o y hy).idle.mp hq] at hyv; cases hyv
    · exact hset
  · next x e1 e2 e3 e =>
    have hx : x = .withdrawn := by
      rcases hreg.savedKind x e with rfl | rfl | rfl | rfl
      · exact absurd rfl e1
      · exact absurd rfl e2
      · rfl
      · exact absurd rfl e3
    have ho := hnone (by rw [e]; exact fun h => e3 (Option.some.inj h))
    have hall := h.settleVehicle (r := { s.vehicle v with cause := none, saved := none, state := x })
      (by subst hx; constructor <;> simp_all) rfl rfl rfl (fun e => absurd e hm) h.hold_names fun y z hz hzv => ?_
    · rw [State.updVehicle, State.updVehicle, setVehicle_setVehicle, setVehicle_same]
      exact hall
    · have := (h.hold_names y).mp ⟨z, hz, hzv⟩
      rw [ho] at this; cases this
  · next e => exact absurd e (hreg.savedSome hcause)

theorem recoverVehicle_lawful (h : LawfulBut .zero s) (hf : (s.vehicle v).flips = []) (hr : (s.vehicle v).recoverable = true)
    (hb : b ∈ (s.vehicle v).holds) : Lawfully (s.recoverVehicle v b) := by
  simp only [VehicleRec.recoverable, Bool.and_eq_true, decide_eq_true_eq, Bool.or_eq_true] at hr
  have htake := h.take hf (releasing_recovering.steady (s.vehicle v).holds)
    ⟨h.regular v, hr.1, hr.2, rfl, List.ne_nil_of_mem hb⟩
  have hread := htake.readOrderOf (fun _ => id) v
  have hholds := hread.held.holds
  have hnodup : ((s.readOrderOf v).1.vehicle v).holds.Nodup := hread.rail.nodup v
  have hpeels : Peels VehicleRec.Recovering (s.vehicle v).holds (((s.readOrderOf v).1.vehicle v).behind b) := by
    rw [VehicleRec.behind, hholds]
    exact peels_behind (fun L r L' hr hL => ⟨hr.regular.rehold (by rw [hr.holds]; exact hr.some) hL, hr.state, hr.cause, rfl, hL⟩) _
      (hholds ▸ hnodup) hb fun x _ K r hr e => by rw [hr.wait] at e; cases e
  obtain ⟨L, hout⟩ := releaseUntil_lawful releasing_recovering _ hpeels hread
  unfold State.recoverVehicle
  dsimp only
  generalize State.releaseUntil (s.readOrderOf v).1 v (((s.readOrderOf v).1.vehicle v).behind b) = acc at hout ⊢
  obtain ⟨x, rel⟩ := acc
  have hheld := hout.held
  have hm : x.mode ≠ .setup := hout.ne_setup_of_state (v := v) (by rw [hheld.state]; exact VState.noConfusion)
  have howned := (hout.release_hold hheld.regular).setOwner (v := v) (by rw [hheld.holds]; exact hheld.some) hm
  refine LawfulBut.noteVehicleIfChanged ?_ _ _
  dsimp only
  split
  · exact howned
  · have hagain := howned.take (v := v) (Q := VehicleRec.Recovering L) (by
        rw [State.setOwner, State.updVehicle, setVehicle_same]; exact hout.held_flips)
      (releasing_recovering.steady L) (by
        have hreg := howned.regular v
        rw [State.setOwner, State.updVehicle, setVehicle_same] at hreg ⊢
        exact ⟨hreg, hheld.state, hheld.cause, hheld.holds, hheld.some⟩)
    exact (unstall_lawful hagain).restartSilence v

theorem execRecover_lawful {h : Hdr} {v b} (hs : LawfulBut .zero s) (ht : execRecover h v b s = .next t) : LawfulBut .zero t := by
  refine request_lawful hs (fun u hu _ => inRange_lawful hu fun v _ => inRange_lawful hu fun b _ => ?_) ht
  split
  · exact hu
  · refine withVehicle_lawful hu fun x hx hf _ _ => ?_
    split
    · exact hx
    · split
      · exact hx
      · next hrec =>
        split
        · exact hx
        · next hheld => exact recoverVehicle_lawful hx hf (by simpa using hrec) (by simpa using hheld)

/-! ## JOIN -/

theorem joinVehicle_lawful (h : LawfulBut .zero s) (hf : (s.vehicle v).flips = []) (hst : (s.vehicle v).state = .offline)
    (hfree : (s.block b).holder = .none) (hused : s.used b = true) (hm : s.mode ≠ .setup) (l : LinkId) (c : Carrier) :
    Lawfully (s.joinVehicle l v b c) := by
  have hreg := h.regular v
  have hholds := hreg.away hst
  have hwait : (s.vehicle v).waitingOn = none := by by_contra e; exact (hreg.waits e).1 hst
  have horder : (s.vehicle v).order = none := by
    by_contra e; have := hreg.order.mp e; rw [hst] at this; simp at this
  have hoffer : (s.vehicle v).offer = none := by by_contra e; have := hreg.offer e; rw [hst] at this; cases this
  have htake := h.take hf steady_regular hreg
  have hread (w) : (s.joinRail l v b).vehicle w = if w = v then
      { s.vehicle v with
        holds := [b], waitingOn := none, owner := some l, cause := none, saved := none, drain := false, order := none
        timedOut := none } else s.vehicle w := setVehicle_read ..
  have hrail : Rail Debt.zero.rail (s.joinRail l v b) :=
    h.rail.grant rfl hfree rfl rfl rfl (by rw [hholds]; rfl) rfl hwait id (by rw [hholds]; exact Nat.zero_le _) hused
      (fun x hx => by rw [hholds] at hx; cases hx) fun w hw e => by
        have := (h.rail.entry b w hw).resolve_right id
        rw [e, hwait] at this; cases this
  have hcrew : Crew (Debt.hold v (VehicleRec.Ready fun _ => False)).crew (s.joinRail l v b) := by
    refine htake.crew.rehand (fun w hw => by rw [hread, if_neg hw]) (fun _ => rfl) (steady_ready _) ?_ ?_ ?_ ?_ <;>
      rw [hread, if_pos rfl]
    · exact ⟨List.cons_ne_nil _ _, Option.some_ne_none l, rfl, rfl, hoffer, nofun⟩
    · exact horder.symm
  have hjoined : LawfulBut (.hold v (VehicleRec.Ready fun _ => False)) (s.joinRail l v b) :=
    ⟨hrail, hcrew, h.book.congr (fun _ => rfl) rfl fun _ => rfl,
      h.site.congr (fun w => by rw [hread]; split; exacts [by rename_i e; rw [e], rfl]) (fun _ => Iff.rfl) rfl rfl rfl rfl,
      fewFlips_setVehicle (fewFlips_setBlock h.few b (by exact h.few.1 b)) v (by exact h.few.2.1 v)⟩
  have hstate : LawfulBut .zero ((s.joinRail l v b).joinState v c).1 := by
    unfold State.joinState
    split
    · exact (hjoined.intoIdle (fun r n hr => hr.idled n) (fun r x hr hx => hr.order x hx) hm).owing_zero fun _ => False.elim
    · exact (hjoined.intoLoadedIdle c (fun r hr => hr.loaded c) (fun r x hr hx => hr.order x hx) hm).owing_zero fun _ => False.elim
  exact (((hstate.bindCarrier v c).restartSilence v).setTrigger).noteVehicle _ _

theorem joinCarrier_lawful {c : Carrier} {damaged : State → List Byte} {go : State → State × Answer} (h : LawfulBut .zero s)
    (hgo : ∀ t, LawfulBut .zero t → Corrected s t → Keeps s t → Lawfully (go t)) : Lawfully (s.joinCarrier v c damaged go) := by
  unfold State.joinCarrier
  split
  · have hread := h.readUntilBad (fun _ => id) vehicleRefs
    dsimp only
    split
    · exact hread
    · next e1 =>
      split
      · exact hread
      · have hread' := hread.readUntilBad (fun _ => id) (readUntilBad read vehicleRefs s).1.orderRefs
        split
        · exact hread'
        · next e2 =>
          split
          · exact hread'
          · exact hgo _ hread' ((readUntilBad_corrected _ h (Bool.eq_false_iff.mpr e1)).trans
              (readUntilBad_corrected _ hread (Bool.eq_false_iff.mpr e2)))
              ((Keeps.refl s).readUntilBad read_keeps _ |>.readUntilBad read_keeps _)
  · exact hgo s h (.refl s) (.refl s)

theorem execJoin_lawful {h : Hdr} {v b c} (hs : LawfulBut .zero s) (ht : execJoin h v b c s = .next t) : LawfulBut .zero t := by
  refine request_lawful hs (fun u hu hmode => inRange_lawful hu fun v _ => inRange_lawful hu fun b _ => inRange_lawful hu fun c _ => ?_) ht
  split
  · exact hu
  · next hplace =>
    have hm : u.mode ≠ .setup := fun e => by rw [e] at hmode; cases hmode
    refine withVehicle_lawful hu fun x hx hf hcorr hkeeps => ?_
    split
    · exact hx
    · next hst =>
      have hread := hx.readBlock (fun _ => id) b
      dsimp only
      split
      · exact hread
      · next e =>
        have hblock : Corrected x (x.readBlock b).1 := read_corrected hx.few (.block b) (Bool.eq_false_iff.mpr e)
        have hkeeps' : Keeps x (x.readBlock b).1 := (Keeps.refl x).readBlock b
        split
        · exact hread
        · next hfree =>
          refine joinCarrier_lawful hread fun y hy hcy hky => ?_
          have hmap : y.map = u.map := hky.map.trans (hkeeps'.map.trans hkeeps.map)
          refine joinVehicle_lawful hy ((hcy.flips (hblock.flips hf))) ?_ ?_ ?_ ?_ _ _
          · rw [hcy.state, hblock.state]; exact not_ne_iff.mp hst
          · rw [hcy.holder]; exact not_ne_iff.mp (not_or.mp hfree).1
          · have hu : u.used b = true := by simpa using (not_or.mp hplace).1
            have hsame : y.used b = u.used b := by
              have hstatic : y.static b = u.static b := by simp only [State.static, hmap]
              simp only [State.used, hstatic]
            exact hsame.trans hu
          · rw [hky.mode, hkeeps'.mode, hkeeps.mode]; exact hm

end Sys2Proof.Machine
end

section
/-! CLAIM keeps the laws (R23 to R30, R153, R154). -/

namespace Sys2Proof.Machine

variable {s t : State} {d : Debt} {v : VehicleId} {b : BlockId}

/-! ## Reads of the claim walk -/

/-- A block is watched: at most so many entries. -/
theorem Rail.watchRoom {d : RailDebt} (h : Rail d s) {room : BlockId → Nat} (hr : ∀ b, (s.block b).waiters.length ≤ room b) :
    Rail { d with room := room } s :=
  ⟨h.frozen, h.still, h.held, h.sole, h.short, h.nodup, h.used, h.linked, h.lost, h.waits, h.entry, h.reach, hr, h.once, h.other,
    h.iced⟩

theorem LawfulBut.closesCycle (hi : ∀ v, ¬ d.crew.inert v) (v : VehicleId) : ∀ (n : Nat) (b : BlockId) {s : State}, LawfulBut d s →
    LawfulBut d (State.closesCycle v n b s).1
  | 0, _, _, h => h
  | n + 1, b, s, h => by
    have hread := h.readBlock hi b
    unfold State.closesCycle
    dsimp only
    split
    · next w _ =>
      split
      · exact hread
      · have hread' := hread.readVehicle hi w
        split
        · exact closesCycle hi v n _ hread'
        · exact hread'
    · exact hread

theorem LawfulBut.renumberWaiters (hi : ∀ v, ¬ d.crew.inert v) (h : LawfulBut d s) :
    LawfulBut d (s.renumberWaiters Machine.read).1 := by
  have hread := h.readAll hi ((allBlocks.filter fun b => !(s.block b).waiters.isEmpty).map RecRef.block)
  unfold State.renumberWaiters
  dsimp only
  generalize (Machine.readAll Machine.read ((allBlocks.filter fun b => !(s.block b).waiters.isEmpty).map RecRef.block) s).1 = x
    at hread ⊢
  have hrail := hread.rail.renumber (t := { x with
      blocks := x.blocks.map fun r => { r with waiters := r.waiters.map fun w => { w with seq := rank x.waiterValues w.seq } }
      waiterSeq := .ofNat 32 x.waiterValues.length })
    (fun w => { w with seq := rank x.waiterValues w.seq }) (fun _ => rfl) (fun c => by simp [State.block]) (fun _ => rfl) rfl
  exact ⟨hrail, hread.crew.congr (fun _ => rfl) fun _ => rfl, hread.book.congr (fun _ => rfl) rfl fun _ => rfl,
    hread.site.congr (fun _ => rfl) (fun _ => Iff.rfl) rfl rfl rfl rfl,
    ⟨fun c => by
      have := hread.few.1 c
      simpa [State.block] using this, hread.few.2.1, hread.few.2.2⟩⟩

theorem LawfulBut.readyWaiterSeq (hi : ∀ v, ¬ d.crew.inert v) (h : LawfulBut d s) :
    LawfulBut d (s.readyWaiterSeq Machine.read).1 := by
  unfold State.readyWaiterSeq
  split
  · exact h.renumberWaiters hi
  · exact h

/-! ## The claim walk -/

/-- A vehicle on its way, with these blocks, waiting nowhere. -/
structure VehicleRec.Claiming (L : List BlockId) (r : VehicleRec) : Prop where
  regular : r.Regular
  holds : r.holds = L
  some : L ≠ []
  wait : r.waitingOn = none
  going : r.state ≠ .stalled

theorem bereft_going {r : VehicleRec} (n : Word) (h : r.state ≠ .stalled) : (r.bereft n).state ≠ .stalled := by
  unfold VehicleRec.bereft VehicleRec.parted VehicleRec.idled VehicleRec.loaded
  split <;> (try split) <;> (try split) <;> simp_all

theorem steady_claiming (L : List BlockId) : Steady (VehicleRec.Claiming L) :=
  ⟨fun _ h => ⟨h.regular.wait, h.holds, h.some, rfl, h.going⟩, fun _ n h => ⟨h.regular.seq n, h.holds, h.some, h.wait, h.going⟩,
    fun r n h ho => ⟨h.regular.bereft n ho, (bereft_holds r n).trans h.holds, h.some, (bereft_waitingOn r n).trans h.wait,
      bereft_going n h.going⟩⟩

/-- The claiming vehicle has the blocks `L`. -/
abbrev Debt.claim (v : VehicleId) (L : List BlockId) : Debt := .hold v (VehicleRec.Claiming L)

/-- The same, and the block has room for one more entry. -/
def Debt.claimAt (v : VehicleId) (L : List BlockId) (b : BlockId) : Debt :=
  { Debt.claim v L with rail := { Debt.zero.rail with room := Function.update (fun _ => 8) b 7 } }

theorem claim_letGo {L : List BlockId} (h : LawfulBut (.claim v L) s) : LawfulBut .zero s := h.release_hold h.held.regular

theorem no_entry {L : List BlockId} (h : LawfulBut (.claim v L) s) (w : Waiter) (hw : w ∈ (s.block b).waiters) : w.vehicle ≠ v :=
  fun e => by
    have := (h.rail.entry b w hw).resolve_right id
    rw [e, h.held.wait] at this; cases this

theorem claimAt_claim {L : List BlockId} (h : LawfulBut (.claimAt v L b) s) :
    LawfulBut (.claim v L) s ∧ (s.block b).waiters.length < 8 := by
  have hroom : (s.block b).waiters.length ≤ Function.update (fun _ => 8) b 7 b := h.rail.room b
  rw [Function.update_self] at hroom
  refine ⟨h.mono (h.rail.mono rfl (fun _ _ _ => id) (fun _ _ => id) (fun _ => id) fun c => ?_) h.crew h.book rfl, by omega⟩
  show Function.update (fun _ => 8) b 7 c ≤ 8
  rcases eq_or_ne c b with rfl | hne
  · rw [Function.update_self]; omega
  · rw [Function.update_of_ne hne]

/-- R22, R27: the vehicle waits at a block that it does not have and that follows its front block. -/
theorem enterWait_lawful {L : List BlockId} (h : LawfulBut (.claim v L) s) (hroom : (s.block b).waiters.length < 8)
    (hfrozen : (s.block b).frozen = false) (hnot : b ∉ L) (hlen : L.length ≤ 5) (hused : s.used b = true)
    (hfront : ∃ c, L.getLast? = some c ∧ b ∈ (s.static c).succs) : LawfulBut .zero (s.enterWait v b) := by
  obtain ⟨hreg, hholds, hne, hwait, hgoing⟩ := h.held
  have hrail : Rail Debt.zero.rail (s.enterWait v b) := by
    have hsame : Rail Debt.zero.rail { s with waiterSeq := s.waiterSeq + 1 } := h.rail.congr' rfl rfl rfl
    refine hsame.addEntry (v := v) (e := ⟨v, s.waiterSeq + 1, s.msBase⟩) rfl hfrozen rfl rfl rfl rfl rfl rfl hwait id
      (by show (s.vehicle v).holds.length ≤ 5; rw [hholds]; exact hlen) hused hroom
      (by show ∃ c, (s.vehicle v).holds.getLast? = some c ∧ _; rw [hholds]; exact hfront) (fun w hw => no_entry h w hw) fun e => hnot ?_
    rw [← hholds]
    exact (h.rail.held b v hfrozen).mp e
  have hread (w) : (s.enterWait v b).vehicle w = if w = v then { s.vehicle v with waitingOn := some b } else s.vehicle w :=
    setVehicle_read ..
  have hcrew : Crew (Debt.hold v VehicleRec.Regular).crew (s.enterWait v b) := by
    refine h.crew.rehand (fun w hw => by rw [hread, if_neg hw]) (fun _ => rfl) steady_regular ?_ ?_ ?_ ?_ <;> rw [hread, if_pos rfl]
    obtain ⟨h1, h2, -, h4, h5, h6, h7, h8, h9, h10⟩ := hreg
    exact ⟨h1, h2, fun _ => ⟨fun e => hne (hholds.symm.trans (h1 e)), hgoing⟩, h4, h5, h6, h7, h8, h9, h10⟩
  have hall : LawfulBut (.hold v VehicleRec.Regular) (s.enterWait v b) :=
    ⟨hrail, hcrew, h.book.congr (fun _ => rfl) rfl fun _ => rfl,
      h.site.congr (fun w => by rw [hread]; split; exacts [by rename_i e; rw [e], rfl]) (fun _ => Iff.rfl) rfl rfl rfl rfl,
      fewFlips_setVehicle (fewFlips_setBlock h.few b (by exact h.few.1 b)) v (by exact h.few.2.1 v)⟩
  exact hall.release_hold hall.held

theorem tryWait_lawful {L : List BlockId} (h : LawfulBut (.claim v L) s) (n : Nat) (hnot : b ∉ L) (hlen : L.length ≤ 5)
    (hused : s.used b = true) (hfront : ∃ c, L.getLast? = some c ∧ b ∈ (s.static c).succs) :
    LawfulBut .zero (s.tryWait v b n).1 := by
  have hi : ∀ w, ¬ (Debt.claimAt v L b).crew.inert w := fun _ => id
  unfold State.tryWait
  split
  · exact claim_letGo h
  · next hroom =>
    have hwatch : LawfulBut (.claimAt v L b) s := by
      refine h.mono (h.rail.watchRoom fun c => ?_) h.crew h.book rfl
      rcases eq_or_ne c b with rfl | hne
      · rw [Function.update_self]; omega
      · rw [Function.update_of_ne hne]; exact h.rail.room c
    have hcycle := LawfulBut.closesCycle hi v 130 b hwatch
    have hkeeps : Keeps s (State.closesCycle v 130 b s).1 := (Keeps.refl s).closesCycle v 130 b
    dsimp only
    split
    · exact claim_letGo (claimAt_claim hcycle).1
    · split
      · exact claim_letGo (claimAt_claim hcycle).1
      · have hready := hcycle.readyWaiterSeq hi
        have hkeeps' := hkeeps.trans ((Keeps.refl _).readyWaiterSeq read_keeps)
        split
        · exact claim_letGo (claimAt_claim hready).1
        · next hfrozen =>
          obtain ⟨hclaim, hlt⟩ := claimAt_claim hready
          have hstatic (c) : ((State.closesCycle v 130 b s).1.readyWaiterSeq read).1.static c = s.static c := by
            simp only [State.static, hkeeps'.map]
          refine enterWait_lawful hclaim hlt (by simpa using hfrozen) hnot hlen ?_ ?_
          · simpa only [State.used, hstatic] using hused
          · simpa only [hstatic] using hfront

theorem chained_congr (hmap : t.map = s.map) : ∀ (bs : List BlockId) (front : BlockId), t.chained front bs = s.chained front bs
  | [], _ => rfl
  | b :: bs, front => by
    have hstatic : t.static front = s.static front := by simp only [State.static, hmap]
    rw [State.chained, State.chained, chained_congr hmap bs b, hstatic]

theorem walk_lawful : ∀ (bs : List BlockId) (n : Nat) {L : List BlockId} {s : State}, LawfulBut (.claim v L) s → bs.Nodup →
    (∀ b ∈ bs, s.used b = true ∧ b ∉ L) → L.length + bs.length ≤ 6 →
    (∃ c, L.getLast? = some c ∧ s.chained c bs = true) → LawfulBut .zero (State.walk v bs n s).1
  | [], _, _, _, h, _, _, _, _ => claim_letGo h
  | b :: bs, n, L, s, h, hn, hbs, hlen, hchain => by
    have hread := h.readBlock (fun _ => id) b
    have hmap := ((Keeps.refl s).readBlock b).map
    have hstatic (c) : (s.readBlock b).1.static c = s.static c := by simp only [State.static, hmap]
    have hused (c) : (s.readBlock b).1.used c = s.used c := by simp only [State.used, hstatic]
    obtain ⟨c, hlast, hc⟩ := hchain
    rw [State.chained, Bool.and_eq_true, List.contains_iff_mem] at hc
    obtain ⟨hub, hnot⟩ := hbs b List.mem_cons_self
    rw [List.length_cons] at hlen
    unfold State.walk
    split
    · exact claim_letGo h
    · dsimp only
      split
      · exact claim_letGo hread
      · split
        · next hfree =>
          obtain ⟨hreg, hholds, hne, hwait, hgoing⟩ := hread.held
          have hgranted : LawfulBut (.claim v (L ++ [b])) ((s.readBlock b).1.grant b v) := by
            have hveh (w) : ((s.readBlock b).1.grant b v).vehicle w = if w = v then
                { (s.readBlock b).1.vehicle v with holds := ((s.readBlock b).1.vehicle v).holds ++ [b] }
                else (s.readBlock b).1.vehicle w := setVehicle_read ..
            refine hread.grant (c := (Debt.claim v (L ++ [b])).crew) ?_ rfl hfree hwait (by rw [hholds]; omega)
              ((hused b).trans hub) (fun x hx => ?_) (no_entry hread)
            · refine hread.crew.rehand (fun w hw => by rw [hveh, if_neg hw]) (fun _ => rfl) (steady_claiming _) ?_ ?_ ?_ ?_ <;>
                rw [hveh, if_pos rfl]
              exact ⟨hreg.rehold (by rw [hholds]; exact hne) (by simp), by rw [hholds], by simp, hwait, hgoing⟩
            · rw [hholds] at hx
              obtain rfl := Option.some.inj (hlast.symm.trans hx)
              rw [hstatic]; exact hc.1
          refine walk_lawful bs (n + 1) hgranted (List.nodup_cons.mp hn).2 (fun x hx => ⟨?_, ?_⟩) (by simp; omega) ⟨b, by simp, ?_⟩
          · exact (hused x).trans (hbs x (List.mem_cons_of_mem b hx)).1
          · rw [List.mem_append, List.mem_singleton]
            rintro (hm | rfl)
            · exact (hbs x (List.mem_cons_of_mem b hx)).2 hm
            · exact (List.nodup_cons.mp hn).1 hx
          · exact (chained_congr (s := s) (t := (s.readBlock b).1.grant b v) hmap bs b).trans hc.2
        · exact tryWait_lawful hread n hnot (by omega) ((hused b).trans hub) ⟨c, hlast, by rw [hstatic]; exact hc.1⟩

theorem execClaim_lawful {h : Hdr} {v bs} (hs : LawfulBut .zero s) (ht : execClaim h v bs s = .next t) : LawfulBut .zero t := by
  refine request_lawful hs (fun u hu _ => inRange_lawful hu fun v _ => inRange_lawful hu fun bs _ => ?_) ht
  split
  · exact hu
  · split
    · exact hu
    · next husedAll =>
      refine withVehicle_lawful hu fun x hx hf _ hkeeps => ?_
      split
      · next howner =>
        dsimp only
        split
        · exact hx
        · next hstate =>
          split
          · exact hx
          · next hfresh =>
            split
            · exact hx
            · next hlen =>
              simp only [not_or, Bool.not_eq_true', Bool.not_eq_false] at hstate
              obtain ⟨hstalled, hwait, hgoes⟩ := hstate
              simp only [State.claimFresh, Bool.not_eq_true', Bool.not_eq_false, Bool.and_eq_true, List.all_eq_true,
                decide_eq_true_eq] at hfresh
              have hreg := hx.regular v
              have hholds : (x.vehicle v).holds ≠ [] := fun e => by rw [hreg.owner.mpr e] at howner; cases howner
              have hclaim : LawfulBut (.claim v (x.vehicle v).holds) x :=
                hx.take hf (steady_claiming _) ⟨hreg, rfl, hholds, by simpa using hwait, hstalled⟩
              have hused (b) (hb : b ∈ bs) : x.used b = true := by
                have hub : u.used b = true := List.all_eq_true.mp (by simpa using husedAll) b hb
                have hstatic : x.static b = u.static b := by simp only [State.static, hkeeps.map]
                simpa only [State.used, hstatic] using hub
              refine (walk_lawful bs 0 hclaim hfresh.2 (fun b hb => ⟨hused b hb, by simpa using hfresh.1 b hb⟩) (by omega) ?_).restartSilence v
              unfold State.goesOn at hgoes
              split at hgoes
              · next c hc => exact ⟨c, hc, by simpa using hgoes⟩
              · cases hgoes
      · exact hx

end Sys2Proof.Machine
end

section
/-! THAW, the fences and the requests that change the mode or write the map keep the laws (R5 to R9, R13 to R16, R53, R54,
R143). -/

namespace Sys2Proof.Machine

variable {s t : State} {d : Debt} {v : VehicleId} {b : BlockId}

/-! ## THAW (R143) -/

/-- Blocks are watched that are FROZEN. -/
theorem Rail.watchIced {d : RailDebt} (h : Rail d s) {iced : BlockId → Prop} (hiced : ∀ b, iced b → (s.block b).frozen = true) :
    Rail { d with iced := iced } s :=
  ⟨h.frozen, h.still, h.held, h.sole, h.short, h.nodup, h.used, h.linked, h.lost, h.waits, h.entry, h.reach, h.room, h.once, h.other,
    hiced⟩

theorem thawBlock_lawful (h : LawfulBut .zero s) (hf : (s.block b).frozen = true) {x : Holder} (hx : x ≠ .unknown)
    (hheld : ∀ w, x = .vehicle w ↔ b ∈ (s.vehicle w).holds) :
    LawfulBut .zero (s.updBlock b fun r => { r with frozen := false, holder := x }) :=
  h.ofRail (d := .zero) (h.rail.thaw rfl (h.rail.still b hf) hx hheld (fun _ => False.elim) (h.rail.still b hf) id)
    (h.crew.congr (fun _ => rfl) fun _ => rfl) (fun _ => rfl) rfl rfl rfl rfl rfl rfl rfl
    (fewFlips_setBlock h.few b (by exact h.few.1 b))

theorem thaw_lawful (h : LawfulBut .zero s) (hf : (s.block b).frozen = true) : Lawfully (s.thaw b) := by
  have hwatch : LawfulBut { Debt.zero with rail := { Debt.zero.rail with iced := (· = b) } } s :=
    h.mono (h.rail.watchIced fun c e => e ▸ hf) h.crew h.book rfl
  have hread := hwatch.readAll (fun _ => id) vehicleRefs
  have hfrozen := hread.rail.iced b rfl
  have hz : LawfulBut .zero (readAll read vehicleRefs s).1 := LawfulBut.unwatch (d := .zero) hread fun _ => False.elim
  unfold State.thaw
  dsimp only
  split
  · next w hw =>
    have hmem : b ∈ ((readAll read vehicleRefs s).1.vehicle w).holds := by
      have := List.find?_some hw
      simpa using this
    exact thawBlock_lawful hz hfrozen nofun fun y =>
      ⟨fun e => by cases e; exact hmem, fun e => congrArg Holder.vehicle (hz.rail.sole w y b hmem e)⟩
  · next hnone =>
    refine arbitrate_lawful (noneWaits_zero b) (thawBlock_lawful hz hfrozen nofun fun y => iff_of_false nofun fun e => ?_)
    have := List.find?_eq_none.mp hnone y (mem_allVehicles y)
    exact this (by simpa using e)

theorem execThaw_lawful {h : Hdr} {b} (hs : LawfulBut .zero s) (ht : execThaw h b s = .next t) : LawfulBut .zero t := by
  refine request_lawful hs (fun u hu _ => inRange_lawful hu fun b _ => ?_) ht
  have hread := hu.readBlock (fun _ => id) b
  dsimp only
  split
  · exact hread
  · split
    · exact hread
    · next hf => exact thaw_lawful hread (by simpa using hf)

/-! ## The fences and RESUME -/

theorem moveFence_lawful (h : LawfulBut .zero s) (f new) : LawfulBut .zero (s.moveFence f new) :=
  LawfulBut.askArbiters _ (h.settings rfl rfl rfl rfl rfl rfl rfl rfl rfl)

section Requests

variable {h : Hdr}

theorem execSetFence_lawful {f x y} (hs : LawfulBut .zero s) (ht : execSetFence h f x y s = .next t) : LawfulBut .zero t := by
  refine request_lawful hs (fun u hu _ => inRange_lawful hu fun f _ => inRange_lawful hu fun x _ => inRange_lawful hu fun y _ => ?_) ht
  split
  · exact hu
  · exact moveFence_lawful hu ..

theorem execClearFence_lawful {f} (hs : LawfulBut .zero s) (ht : execClearFence h f s = .next t) : LawfulBut .zero t :=
  request_lawful hs (fun _ hu _ => inRange_lawful hu fun _ _ => moveFence_lawful hu ..) ht

/-- The mode changes; in SETUP there is no vehicle in service and no order, outside it every used block is owned. -/
theorem LawfulBut.setMode (h : LawfulBut .zero s) (m : Mode)
    (hsetup : m = .setup → (∀ v, (s.vehicle v).state = .offline) ∧ ∀ o, s.order o = none)
    (howned : m ≠ .setup → s.mode ≠ .setup ∨ s.committed = true) : LawfulBut .zero { s with mode := m } where
  rail := h.rail.congr' rfl rfl rfl
  crew := h.crew.congr (fun _ => rfl) fun _ => rfl
  book := h.book.congr (fun _ => rfl) rfl fun _ => rfl
  site := ⟨hsetup, fun _ hm => h.site.owned id (hm.elim howned .inr), False.elim⟩
  few := h.few

theorem LawfulBut.changeMode (h : LawfulBut .zero s) (m : Mode) (c : ModeCause)
    (hsetup : m = .setup → (∀ v, (s.vehicle v).state = .offline) ∧ ∀ o, s.order o = none)
    (howned : m ≠ .setup → s.mode ≠ .setup ∨ s.committed = true) : LawfulBut .zero (s.changeMode m c) :=
  (h.setMode m hsetup howned).notifyMode ..

theorem execHalt_lawful (hs : LawfulBut .zero s) (ht : execHalt h s = .next t) : LawfulBut .zero t := by
  refine request_lawful hs (fun u hu _ => ?_) ht
  show LawfulBut .zero (if _ then _ else _)
  split
  · next e => exact hu.changeMode _ _ nofun fun _ => .inl (by rw [e]; exact Mode.noConfusion)
  · exact hu

theorem execResume_lawful (hs : LawfulBut .zero s) (ht : execResume h s = .next t) : LawfulBut .zero t := by
  refine request_lawful hs (fun u hu _ => ?_) ht
  show LawfulBut .zero (if _ then _ else _)
  split
  · next e =>
    have hrun := hu.setMode .run nofun fun _ => .inl (by rw [e]; exact Mode.noConfusion)
    exact ((LawfulBut.askArbiters allBlocks hrun).setTrigger).notifyMode ..
  · exact hu

theorem withRoster_lawful {go : State → State × Answer} (hs : LawfulBut .zero s)
    (hgo : ∀ t, LawfulBut .zero t → Lawfully (go t)) : Lawfully (s.withRoster go) := by
  have hread := hs.readUntilBad (fun _ => id) vehicleRefs
  unfold State.withRoster
  dsimp only
  split
  · exact hread
  · exact hgo _ hread

theorem all_offline (hn : ¬ s.anyInService = true) (v : VehicleId) : (s.vehicle v).state = .offline := by
  by_contra e
  exact hn (List.any_eq_true.mpr ⟨v, mem_allVehicles v, decide_eq_true e⟩)

theorem execReopenMap_lawful (hs : LawfulBut .zero s) (ht : execReopenMap h s = .next t) : LawfulBut .zero t := by
  refine request_lawful hs (fun u hu _ => withRoster_lawful hu fun x hx => ?_) ht
  split
  · exact hx
  · next hidle =>
    obtain ⟨haway, hlive⟩ := not_or.mp hidle
    refine hx.changeMode _ _ (fun _ => ⟨all_offline haway, fun o => ?_⟩) fun e => absurd rfl e
    by_contra hne
    have : o ∈ x.liveSlots := List.mem_filter.mpr ⟨List.mem_finRange o, Option.isSome_iff_ne_none.mpr hne⟩
    rw [not_ne_iff.mp hlive] at this
    exact List.not_mem_nil this

/-! ## SOFT_RESET (R15, R16) -/

/-- A part with no vehicle in service and no order. -/
theorem empty_lawful (hregular : ∀ v, (t.vehicle v).Regular) (haway : ∀ v, (t.vehicle v).state = .offline)
    (horders : ∀ o, t.order o = none) (hqueues : ∀ c, t.queues.get c = []) (hports : ∀ p, (t.port p).reservation = none)
    (hfrozen : ∀ b, (t.block b).frozen = true ↔ (t.block b).holder = .unknown) (hwaiters : ∀ b, (t.block b).waiters = [])
    (hholder : ∀ b v, (t.block b).holder ≠ .vehicle v)
    (howned : t.mode ≠ .setup ∨ t.committed = true → ∀ b, t.used b = true → t.bayOwner b ≠ none) (hfew : t.fewFlips) :
    LawfulBut .zero t := by
  have hholds (v) : (t.vehicle v).holds = [] := (hregular v).away (haway v)
  have hwait (v) : (t.vehicle v).waitingOn = none := by by_contra e; exact ((hregular v).waits e).1 (haway v)
  have horder (v) : (t.vehicle v).order = none := by
    by_contra e; have := (hregular v).order.mp e; rw [haway v] at this; simp at this
  have hlisted (v) : Debt.zero.rail.listed t v = [] := hholds v
  have hnames (o v) : ¬ t.Names o v := fun ⟨r, hr, _⟩ => by rw [horders] at hr; cases hr
  refine ⟨⟨hfrozen, fun b _ => hwaiters b, fun b v _ => ?_, fun v w b hb => ?_, fun v => ?_, fun v => ?_, fun v b hb => ?_,
      fun v x hx => ?_, fun v L hL => (nomatch hL), fun v b hb => ?_, fun b w hw => ?_, fun v b hb => ?_, fun b => ?_, fun b => ?_,
      fun b w hw => ?_, fun b => False.elim⟩,
    ⟨hregular, fun _ => steady_regular, fun v hv => absurd rfl hv, fun v o ho => ?_, fun v o hn => absurd hn (hnames o v),
      fun v o _ hn => absurd hn (hnames o v), fun _ _ => False.elim, fun v o r _ _ hr => ?_⟩,
    ⟨fun o r hr => ?_, fun c => ?_, fun p o k => ?_, fun _ => False.elim, fun _ _ => False.elim, fun _ _ => False.elim, fun _ => False.elim⟩,
    ⟨fun _ => ⟨haway, horders⟩, fun _ => howned, False.elim⟩, hfew⟩
  · rw [hlisted]; exact iff_of_false (hholder b v) List.not_mem_nil
  · rw [hlisted] at hb; exact absurd hb List.not_mem_nil
  · rw [hlisted]; exact Nat.zero_le _
  · rw [hlisted]; exact List.nodup_nil
  · rw [hlisted] at hb; exact absurd hb List.not_mem_nil
  · rw [hholds] at hx; exact absurd hx List.not_mem_nil
  · rw [hwait] at hb; cases hb
  · rw [hwaiters] at hw; exact absurd hw List.not_mem_nil
  · rw [hwait] at hb; cases hb
  · rw [hwaiters]; exact Nat.zero_le _
  · rw [hwaiters]; exact List.nodup_nil
  · rw [hwaiters] at hw; exact absurd hw List.not_mem_nil
  · rw [horder] at ho; cases ho
  · rw [horders] at hr; cases hr
  · rw [horders] at hr; cases hr
  · rw [hqueues]
    exact ⟨fun o => iff_of_false List.not_mem_nil fun ⟨r, hr, _⟩ => (by rw [horders] at hr; cases hr), List.nodup_nil, List.Pairwise.nil⟩
  · rw [hports]
    exact iff_of_false nofun fun ⟨r, hr, _⟩ => by rw [horders] at hr; cases hr

theorem softReset_lawful (h : LawfulBut .zero s) (hn : ∀ v, (s.vehicle v).state = .offline) : LawfulBut .zero s.softReset := by
  have hholds (v) : (s.vehicle v).holds = [] := (h.regular v).away (hn v)
  have hwait (v) : (s.vehicle v).waitingOn = none := by by_contra e; exact ((h.regular v).waits e).1 (hn v)
  have hempty (b) : (s.block b).waiters = [] := by
    refine List.eq_nil_iff_forall_not_mem.mpr fun w hw => ?_
    have := (h.rail.entry b w hw).resolve_right id
    rw [hwait] at this; cases this
  have hfree (b w) (hf : (s.block b).frozen = false) : (s.block b).holder ≠ .vehicle w := fun e => by
    have := (h.rail.held b w hf).mp e
    rw [listed_zero, hholds] at this; exact List.not_mem_nil this
  have hblock (b) : s.softReset.block b = (s.block b).thawed := by simp [State.softReset, State.changeMode, State.block]
  have hvehicle (v) : s.softReset.vehicle v = (s.vehicle v).softReset := by
    simp [State.softReset, State.changeMode, State.vehicle]
  have horder (o) : s.softReset.order o = none := by simp [State.softReset, State.changeMode, State.order]
  have hmode : s.softReset.mode = if s.committed then .run else .setup := by simp [State.softReset, State.changeMode]
  have hcommitted : s.softReset.committed = s.committed := by simp [State.softReset, State.changeMode]
  have hmap : s.softReset.map = s.map := by simp [State.softReset, State.changeMode]
  have hbays : s.softReset.bays = s.bays := by simp [State.softReset, State.changeMode]
  refine empty_lawful (fun v => ?_) (fun v => ?_) horder (fun c => ?_) (fun p => ?_) (fun b => ?_) (fun b => ?_) (fun b v => ?_)
    (fun hm b hb => ?_) ⟨fun b => ?_, fun v => ?_, fun o r hr => ?_⟩
  · rw [hvehicle]; exact (h.regular v).same rfl rfl rfl rfl rfl rfl rfl rfl
  · rw [hvehicle]; exact hn v
  · have : s.softReset.queues = .reset := by simp [State.softReset, State.changeMode]
    rw [this]; cases c <;> rfl
  · simp [State.softReset, State.changeMode, State.port]
  · rw [hblock, BlockRec.thawed]; split
    · exact iff_of_false Bool.false_ne_true nofun
    · exact h.rail.frozen b
  · rw [hblock, BlockRec.thawed]; split
    · rfl
    · exact hempty b
  · rw [hblock, BlockRec.thawed]; split
    · exact nofun
    · next hf => exact hfree b v (by simpa using hf)
  · have hc : s.committed = true := by
      rcases hm with hm | hm
      · by_contra e
        rw [hmode, if_neg e] at hm; exact hm rfl
      · rwa [hcommitted] at hm
    have hstatic : s.softReset.static b = s.static b := by simp only [State.static, hmap]
    have howner : s.softReset.bayOwner b = s.bayOwner b := by simp only [State.bayOwner, State.bay, hstatic, hbays]
    rw [howner]
    exact h.site.owned id (.inr hc) b (by simpa only [State.used, hstatic] using hb)
  · rw [hblock, BlockRec.thawed]; split
    · exact Nat.zero_le _
    · exact h.few.1 b
  · rw [hvehicle]; exact Nat.zero_le _
  · rw [horder] at hr; cases hr

theorem execSoftReset_lawful (hs : LawfulBut .zero s) (ht : execSoftReset h s = .next t) : LawfulBut .zero t := by
  refine request_lawful hs (fun u hu _ => withRoster_lawful hu fun x hx => ?_) ht
  split
  · show LawfulBut .zero x.convertReset
    unfold State.convertReset
    split
    · next e => exact hx.changeMode _ _ nofun fun _ => .inl (by rw [e]; exact Mode.noConfusion)
    · exact hx
  · next hidle => exact softReset_lawful hx (all_offline hidle)

/-! ## The map (R5 to R9) -/

/-- The map is being written. -/
def Debt.mapping : Debt := { Debt.zero with mapOpen := True }

/-- In SETUP no vehicle has a block or waits at one, so the map may change (R8). -/
theorem writeBlock_lawful (h : LawfulBut .mapping s) (b : BlockId) (x : BlockStatic) : LawfulBut .mapping (s.writeBlock b x).1 := by
  have hread := h.readBlock (fun _ => id) b
  unfold State.writeBlock
  dsimp only
  generalize (s.readBlock b).1 = u at hread ⊢
  have hm : u.mode = .setup := hread.site.opened trivial
  have hoff (v) : (u.vehicle v).state = .offline := (hread.site.setup hm).1 v
  have hreg (v) : (u.vehicle v).Regular := hread.crew.good v
  have hholds (v) : (u.vehicle v).holds = [] := (hreg v).away (hoff v)
  have hwait (v) : (u.vehicle v).waitingOn = none := by by_contra e; exact ((hreg v).waits e).1 (hoff v)
  have hset : Rail Debt.mapping.rail (u.updBlock b fun r => { r with fixed := x, flips := [] }) := hread.rail.setBlock rfl rfl rfl
  obtain ⟨h1, h2, h3, h4, h5, h6, -, -, h9, h10, h11, -, h13, h14, h15, h16⟩ := hset
  refine ⟨⟨h1, h2, h3, h4, h5, h6, fun v c hc => ?_, fun v y hy => ?_, h9, h10, h11, fun v c hc => ?_, h13, h14, h15, h16⟩,
    hread.crew.congr (fun _ => rfl) fun _ => rfl, hread.book.congr (fun _ => rfl) rfl fun _ => rfl,
    ⟨hread.site.setup, fun e => absurd trivial e, hread.site.opened⟩,
    fewFlips_setBlock (s := { u with map := u.map.set b.val x }) hread.few b (Nat.zero_le _)⟩
  · have hc : c ∈ (u.vehicle v).holds := hc
    rw [hholds] at hc; exact absurd hc List.not_mem_nil
  · have hy : y ∈ (u.vehicle v).holds.zip (u.vehicle v).holds.tail := hy
    rw [hholds] at hy; exact absurd hy List.not_mem_nil
  · have hc : (u.vehicle v).waitingOn = some c := hc
    rw [hwait] at hc; cases hc

theorem writeBlocks_lawful : ∀ (rs : List (BlockId × BlockStatic)) {s : State}, LawfulBut .mapping s →
    LawfulBut .mapping (State.writeBlocks rs s).1
  | [], _, h => h
  | (b, x) :: rs, _, h => writeBlocks_lawful rs (writeBlock_lawful h b x)

theorem LawfulBut.openMap (h : LawfulBut .zero s) (hm : s.mode = .setup) : LawfulBut .mapping s :=
  ⟨h.rail, h.crew, h.book, ⟨h.site.setup, fun e => absurd trivial e, fun _ => hm⟩, h.few⟩

/-- R5: a write takes the commitment back. -/
theorem LawfulBut.closeMap (h : LawfulBut .mapping s) : LawfulBut .zero { s with committed := false } := by
  have hm : s.mode = .setup := h.site.opened trivial
  exact ⟨h.rail.congr' rfl rfl rfl, h.crew.congr (fun _ => rfl) fun _ => rfl, h.book.congr (fun _ => rfl) rfl fun _ => rfl,
    ⟨h.site.setup, fun _ e => (e.elim (fun e => e hm) Bool.false_ne_true).elim, False.elim⟩, h.few⟩

/-- R8: the map is written in SETUP alone. -/
theorem map_setup {k : ReqKind} {m : Mode} (hk : k = .writeBlocks ∨ k = .writePorts ∨ k = .writeBay)
    (h : ReqKind.allowedIn k m = true) : m = .setup := by
  rcases hk with rfl | rfl | rfl <;> cases m
  case inl.setup | inr.inl.setup | inr.inr.setup => rfl
  all_goals cases h

theorem execWriteBlocks_lawful {rs} (hs : LawfulBut .zero s) (ht : execWriteBlocks h rs s = .next t) : LawfulBut .zero t := by
  refine request_lawful hs (fun u hu hmode => ?_) ht
  have hm : u.mode = .setup := map_setup (by simp) hmode
  split
  · exact hu
  · exact inRange_lawful hu fun rs _ => (writeBlocks_lawful rs (hu.openMap hm)).closeMap

theorem writePort_lawful (h : LawfulBut .mapping s) (r) : LawfulBut .mapping (s.writePort r) :=
  ⟨h.rail.congr' rfl rfl rfl, h.crew.congr (fun _ => rfl) fun _ => rfl,
    h.book.congr (fun _ => rfl) rfl fun p => by
      rw [State.writePort, setPort_read]; split
      · next e => rw [e]
      · rfl, ⟨h.site.setup, fun e => absurd trivial e, h.site.opened⟩, h.few⟩

theorem writePorts_lawful : ∀ (rs : List (PortId × Option BlockId)) {s : State}, LawfulBut .mapping s →
    LawfulBut .mapping (rs.foldl State.writePort s)
  | [], _, h => h
  | r :: rs, _, h => writePorts_lawful rs (writePort_lawful h r)

theorem execWritePorts_lawful {rs} (hs : LawfulBut .zero s) (ht : execWritePorts h rs s = .next t) : LawfulBut .zero t := by
  refine request_lawful hs (fun u hu hmode => ?_) ht
  have hm : u.mode = .setup := map_setup (by simp) hmode
  split
  · exact hu
  · exact inRange_lawful hu fun rs _ => (writePorts_lawful rs (hu.openMap hm)).closeMap

theorem execWriteBay_lawful {a k row} (hs : LawfulBut .zero s) (ht : execWriteBay h a k row s = .next t) : LawfulBut .zero t := by
  refine request_lawful hs (fun u hu hmode => inRange_lawful hu fun a _ => inRange_lawful hu fun k _ => ?_) ht
  have hm : u.mode = .setup := map_setup (by simp) hmode
  have ho := hu.openMap hm
  have hset : LawfulBut .mapping (u.setBay a ⟨k, row⟩) :=
    ⟨ho.rail.congr' rfl rfl rfl, ho.crew.congr (fun _ => rfl) fun _ => rfl, ho.book.congr (fun _ => rfl) rfl fun _ => rfl,
      ⟨ho.site.setup, fun e => absurd trivial e, ho.site.opened⟩, ho.few⟩
  exact hset.closeMap

/-- R9: a map without fault has an owner for the bay of every used block. -/
theorem mapFault_owned (hf : s.mapFault = none) (b : BlockId) (hb : s.used b = true) : s.bayOwner b ≠ none := by
  have hbays : (List.finRange 32).findSome? s.bayFault = none := by
    unfold State.mapFault at hf
    rw [Option.or_eq_none_iff, Option.or_eq_none_iff] at hf
    exact hf.2.2
  have hbay := List.findSome?_eq_none_iff.mp hbays (s.static b).bay (List.mem_finRange _)
  have hin : s.bayInUse (s.static b).bay = true :=
    List.any_eq_true.mpr ⟨b, by rw [allBlocks_eq]; exact List.mem_finRange b, by rw [hb]; simp⟩
  unfold State.bayFault at hbay
  split at hbay
  · cases hbay
  · next hnot =>
    have howned : s.bayOwned (s.static b).bay = true := by
      by_contra e
      exact hnot ⟨hin, by simpa using e⟩
    intro hnone
    rw [State.bayOwner] at hnone
    rw [State.bayOwned, hnone] at howned
    cases howned

theorem execCommitMap_lawful (hs : LawfulBut .zero s) (ht : execCommitMap h s = .next t) : LawfulBut .zero t := by
  refine request_lawful hs (fun u hu hmode => ?_) ht
  split
  · exact hu
  · next hf =>
    have hcommitted : LawfulBut .zero { u with committed := true } :=
      ⟨hu.rail.congr' rfl rfl rfl, hu.crew.congr (fun _ => rfl) fun _ => rfl, hu.book.congr (fun _ => rfl) rfl fun _ => rfl,
        ⟨hu.site.setup, fun _ _ => mapFault_owned hf, False.elim⟩, hu.few⟩
    exact hcommitted.changeMode _ _ nofun fun _ => .inr rfl

end Requests

end Sys2Proof.Machine
end

section
/-! SUBMIT_ORDER and CANCEL_ORDER keep the laws (R90, R91, R94, R154). -/

namespace Sys2Proof.Machine

variable {s t : State} {d : Debt} {v : VehicleId} {o : Slot} {r : OrderRec}

/-! ## Renumbering the orders (R154) -/

theorem rank_mono {values : List Word} {x y : Word} (hlen : values.length < 0xFFFFFFFF) (hx : x ∈ values) (hxy : x ≤ y) :
    rank values x ≤ rank values y := by
  by_cases e : x = y
  · rw [e]; exact BitVec.le_refl _
  · exact BitVec.le_of_lt (rank_strictMono hlen hx (by bv_omega))

theorem submitValues_length (s : State) : s.submitValues.length ≤ 256 := by
  unfold State.submitValues
  rw [List.length_map]
  exact (List.length_filterMap_le _ _).trans (by simp)

theorem mem_submitValues (h : s.order o = some r) : r.submitSeq ∈ s.submitValues := by
  unfold State.submitValues
  refine List.mem_map_of_mem (List.mem_filterMap.mpr ⟨some r, ?_, rfl⟩)
  rw [← h]
  simp [State.order]

/-- R154: the orders with their sequences renumbered. -/
def State.submitRenumbered (s : State) : State :=
  { s with
    orders := s.orders.map fun x => x.map fun r => { r with submitSeq := rank s.submitValues r.submitSeq }
    submitSeq := .ofNat 32 s.submitValues.length }

theorem submitRenumbered_order (s : State) (o : Slot) :
    s.submitRenumbered.order o = (s.order o).map fun r => { r with submitSeq := rank s.submitValues r.submitSeq } := by
  simp [State.submitRenumbered, State.order]

theorem LawfulBut.renumberSubmit (h : LawfulBut d s) (hi : ∀ v, ¬ d.crew.inert v) (hkept : ∀ o x, ¬ d.book.kept o x) :
    LawfulBut d (s.renumberSubmit Machine.read) := by
  have hread := h.readAll hi s.orderRefs
  show LawfulBut d (Machine.readAll Machine.read s.orderRefs s).1.submitRenumbered
  generalize (Machine.readAll Machine.read s.orderRefs s).1 = x at hread ⊢
  have horder := submitRenumbered_order x
  have hqueues : x.submitRenumbered.queues = x.queues := rfl
  have hport (p) : x.submitRenumbered.port p = x.port p := rfl
  have hvehicle (w) : x.submitRenumbered.vehicle w = x.vehicle w := rfl
  have hblock (b) : x.submitRenumbered.block b = x.block b := rfl
  have hrail : Rail d.rail x.submitRenumbered := hread.rail.congr' rfl rfl rfl
  have hsite (ho : ∀ o, x.submitRenumbered.order o = none ↔ x.order o = none) : Site d.mapOpen x.submitRenumbered :=
    hread.site.congr (fun _ => rfl) ho rfl rfl rfl rfl
  generalize x.submitRenumbered = y at horder hqueues hport hvehicle hblock hrail hsite ⊢
  have hback (o r) (hr : y.order o = some r) : ∃ z, x.order o = some z ∧ r = { z with submitSeq := rank x.submitValues z.submitSeq } := by
    rw [horder] at hr
    obtain ⟨z, hz, e⟩ := Option.map_eq_some_iff.mp hr
    exact ⟨z, hz, e.symm⟩
  have hsome (P : OrderRec → Prop) (hP : ∀ r n, P { r with submitSeq := n } ↔ P r) (o) :
      (∃ r, y.order o = some r ∧ P r) ↔ ∃ r, x.order o = some r ∧ P r := by
    refine ⟨fun ⟨r, hr, hp⟩ => ?_, fun ⟨r, hr, hp⟩ => ?_⟩
    · obtain ⟨z, hz, rfl⟩ := hback o r hr
      exact ⟨z, hz, (hP z _).mp hp⟩
    · exact ⟨_, by rw [horder, hr]; rfl, (hP r _).mpr hp⟩
  refine ⟨hrail, ?_, ?_, hsite fun o => ?_, ?_⟩
  · refine hread.crew.touch (fun w => by rw [hvehicle]; exact hread.crew.good w) (fun w => by rw [hvehicle]; exact hread.crew.pinned w)
      (fun w => by rw [hvehicle]) (fun w => by rw [hvehicle]) fun o => ?_
    rw [horder]; cases x.order o <;> rfl
  · refine ⟨fun o r hr => ?_, fun c => ?_, fun p o k => ?_, fun o hv => ?_, fun o r hk => absurd hk (hkept o r), fun o r hq hr => ?_,
      fun p hp => by rw [hport]; exact hread.book.free p hp⟩
    · obtain ⟨z, hz, rfl⟩ := hback o r hr
      obtain ⟨h1, h2, h3, h4⟩ := hread.book.sound o z hz
      exact ⟨h1, h2, h3, h4⟩
    · obtain ⟨hmem, hnodup, hsorted⟩ := hread.book.queue c
      rw [hqueues]
      refine ⟨fun o => (hmem o).trans (hsome (fun r => r.state = .queued ∧ r.cls = c) (fun _ _ => Iff.rfl) o).symm, hnodup,
        hsorted.imp_of_mem fun {a b} ha hb hle => ?_⟩
      obtain ⟨ra, hra, -⟩ := (hmem a).mp ha
      obtain ⟨rb, hrb, -⟩ := (hmem b).mp hb
      simp only [State.submitSeqOf, hra, hrb] at hle
      simp only [State.submitSeqOf, horder, hra, hrb, Option.map_some]
      exact rank_mono (lt_of_le_of_lt (submitValues_length x) (by omega)) (mem_submitValues hra) hle
    · rw [hport]
      exact (hread.book.reserved p o k).trans (hsome (·.Reserves p k) (fun _ _ => Iff.rfl) o).symm
    · rw [horder, hread.book.vacant o hv]; rfl
    · obtain ⟨z, hz, rfl⟩ := hback o r hr
      exact hread.book.queued o z hq hz
  · rw [horder]; cases x.order o <;> simp
  · refine ⟨fun b => by rw [hblock]; exact hread.few.1 b, fun w => by rw [hvehicle]; exact hread.few.2.1 w, fun o r hr => ?_⟩
    obtain ⟨z, hz, rfl⟩ := hback o r hr
    exact hread.few.2.2 o z hz

theorem LawfulBut.nextSubmitSeq (h : LawfulBut d s) (hi : ∀ v, ¬ d.crew.inert v) (hkept : ∀ o x, ¬ d.book.kept o x) :
    LawfulBut d (s.nextSubmitSeq Machine.read).1 := by
  have hcount {u : State} (hu : LawfulBut d u) : LawfulBut d { u with submitSeq := u.submitSeq + 1 } :=
    hu.settings rfl rfl rfl rfl rfl rfl rfl rfl rfl
  unfold State.nextSubmitSeq
  dsimp only
  split
  · exact hcount (h.renumberSubmit hi hkept)
  · exact hcount h

/-! ## SUBMIT_ORDER -/

theorem Keeps.nextSubmitSeq_mode (s : State) : (s.nextSubmitSeq read).1.mode = s.mode := by
  unfold State.nextSubmitSeq
  dsimp only
  split
  · exact ((Keeps.refl s).readAll read_keeps s.orderRefs).mode
  · rfl

/-- R91: a new order in a free slot. -/
theorem takeOrder_lawful (h : LawfulBut .zero s) (ho : s.order o = none) (hm : s.mode ≠ .setup) {source : Option PortId}
    {dest : PortId} {alt : Option PortId} (hsource : source ≠ some dest) (halt : alt ≠ some dest)
    (hdiff : source = none ∨ source ≠ alt) (l tag c cls) : Lawfully (s.takeOrder l o tag c source dest alt cls) := by
  have hwatch : LawfulBut { Debt.zero with book := { Debt.zero.book with vacant := (· = o) } } s := by
    refine h.mono h.rail h.crew ?_ rfl
    exact ⟨h.book.sound, h.book.queue, h.book.reserved, fun x e => by rw [show x = o from e]; exact ho, fun _ _ => False.elim,
      fun _ _ => False.elim, fun _ => False.elim⟩
  have hnext := hwatch.nextSubmitSeq (fun _ => id) fun _ _ => id
  have hfree := hnext.book.vacant o rfl
  have hz : LawfulBut .zero (s.nextSubmitSeq read).1 :=
    hnext.mono hnext.rail hnext.crew (hnext.book.mono (fun _ => False.elim) (fun _ _ => id) (fun _ => id) fun _ => id) rfl
  unfold State.takeOrder
  dsimp only
  have hmode : (s.nextSubmitSeq read).1.mode ≠ .setup := by rw [Keeps.nextSubmitSeq_mode]; exact hm
  generalize (s.nextSubmitSeq read).1 = u at hz hfree hmode ⊢
  rw [enterQueue_setOrder]
  refine LawfulBut.setTrigger ?_
  have hno (w) (hn : u.Names o w) : False := by
    obtain ⟨r, hr, -⟩ := hn
    rw [hfree] at hr; cases hr
  refine hz.unname (d := .zero) (g := fun _ _ => False) (u := fun _ _ => False) (.queued ..)
    ((hz.book.vacated hfree).queued_book ⟨iff_of_true rfl rfl, ?_, halt, ?_⟩ rfl id fun _ => id)
    (fun x hx => setOrder_other _ _ hx) (fun w ⟨x, hx, hxw⟩ => ?_) (fun e => absurd e hmode) (fun x hx => ?_) (fun _ _ _ => id)
    (fun w hw => hno w ((hz.crew.points w o hw).resolve_right id)) fun _ _ _ => id
  · dsimp only
    split
    · exact nofun
    · exact hsource
  · dsimp only
    split
    · exact .inl rfl
    · exact hdiff
  · have := (setOrder_same ..).symm.trans hx
    rw [← Option.some.inj this] at hxw; cases hxw
  · have := (setOrder_same ..).symm.trans hx
    rw [← Option.some.inj this]; exact Nat.zero_le _

theorem submitChecks_lawful (h : LawfulBut .zero s) (hm : s.mode ≠ .setup) {source : Option PortId} {dest : PortId}
    {alt : Option PortId} (hsource : source ≠ some dest) (halt : alt ≠ some dest) (hdiff : source = none ∨ source ≠ alt)
    (l tag c cls) : Lawfully (s.submitChecks l tag c source dest alt cls) := by
  have hread := h.readAll (fun _ => id) s.orderRefs
  have hkeeps := (Keeps.refl s).readAll read_keeps s.orderRefs
  unfold State.submitChecks
  dsimp only
  split
  · exact hread
  · have hread' := hread.readUntilBad (fun _ => id) vehicleRefs
    have hkeeps' := hkeeps.readUntilBad read_keeps vehicleRefs
    split
    · exact hread'
    · split
      · exact hread'
      · split
        · exact hread'
        · split
          · exact hread'
          · next o ho =>
            have hnone := List.find?_some ho
            exact takeOrder_lawful hread' (by simpa using hnone) (by rw [hkeeps'.mode]; exact hm) hsource halt hdiff ..

theorem execSubmitOrder_lawful {h : Hdr} {tag c p q a k} (hs : LawfulBut .zero s)
    (ht : execSubmitOrder h tag c p q a k s = .next t) : LawfulBut .zero t := by
  refine request_lawful hs (fun u hu hmode => inRange_lawful hu fun c _ => inRange_lawful hu fun source _ =>
    inRange_lawful hu fun dest _ => inRange_lawful hu fun alt _ => inRange_lawful hu fun cls _ => ?_) ht
  have hm : u.mode ≠ .setup := fun e => by rw [e] at hmode; cases hmode
  split
  · exact hu
  · next hfit =>
    simp only [State.portsFit, Bool.not_eq_true', Bool.not_eq_false, Bool.and_eq_true, decide_eq_true_eq, Bool.or_eq_true,
      Option.isNone_iff_eq_none] at hfit
    obtain ⟨⟨⟨-, hsource⟩, halt⟩, hdiff⟩ := hfit
    split
    · exact submitChecks_lawful hu hm hsource halt hdiff ..
    · have hread := hu.readUntilBad (fun _ => id) vehicleRefs
      have hkeeps := (Keeps.refl u).readUntilBad read_keeps vehicleRefs
      dsimp only
      split
      · exact hread
      · split
        · exact hread
        · exact submitChecks_lawful hread (by rw [hkeeps.mode]; exact hm) hsource halt hdiff ..

/-! ## The order a request names (R93) -/

theorem withOrder_lawful {l : LinkId} {tag : Half} {conflict : OrderRec → Bool} {damaged : State → List Byte}
    {go : OrderRec → State → State × Answer} (h : LawfulBut .zero s)
    (hgo : ∀ r t, LawfulBut .zero t → t.order o = some r → r.flips = [] → conflict r = false → Lawfully (go r t)) :
    Lawfully (s.withOrder l o tag conflict damaged go) := by
  have hread := h.readOrder (fun _ => id) o
  unfold State.withOrder
  dsimp only
  split
  · exact hread
  · next e =>
    split
    · exact hread
    · next r hr =>
      split
      · exact hread
      · split
        · exact hread
        · next hc =>
          split
          · exact hread
          · exact hgo r _ hread hr (readOrder_flips h.few (Bool.eq_false_iff.mpr e) hr) (Bool.eq_false_iff.mpr hc)

theorem withVehicleOf_lawful {damaged : State → List Byte} {go : State → State × Answer} (h : LawfulBut .zero s)
    (hr : s.order o = some r) (hf : r.flips = [])
    (hgo : ∀ t, LawfulBut .zero t → t.order o = some r → t.ports = s.ports →
      (∀ v, r.vehicle = some v → Work v o r t) → Lawfully (go t)) :
    Lawfully (s.withVehicleOf r damaged go) := by
  unfold State.withVehicleOf
  split
  · next v hv =>
    refine withVehicle_lawful h fun x hx hfx hcorr _ => ?_
    have hrx := hcorr.sameOrder hr hf
    refine hgo x hx hrx hcorr.ports fun w hw => ?_
    obtain rfl := Option.some.inj (hv.symm.trans hw)
    exact ⟨hx, hfx, (hx.crew.named v o ⟨r, hrx, hv⟩).resolve_right id, hrx, hf⟩
  · next hnone => exact hgo s h hr rfl fun v hv => by rw [hnone] at hv; cases hv

/-! ## CANCEL_ORDER -/

theorem enterIdle_order (s : State) (v : VehicleId) : ((s.enterIdle read v).1.vehicle v).order = none := by
  unfold State.enterIdle
  split
  · exact congrArg VehicleRec.order (setVehicle_same ..)
  · exact congrArg VehicleRec.order (setVehicle_same ..)

theorem noteWithdraw_keeps_order (s : State) (v o c x) : (s.noteWithdraw v o c).order x = s.order x := by
  unfold State.noteWithdraw State.notifyOwner; split <;> simp

theorem Work.cancelVehicle (w : Work v o r s) (hst : r.state = .offered ∨ r.state = .toSource) (bound : Bool) :
    LawfulBut (.owing v (· = o) fun y x => y ≠ v ∧ x = o) (s.cancelVehicle o v bound).1 ∧
      ((s.cancelVehicle o v bound).1.vehicle v).order = none := by
  have hreg := w.laws.regular v
  have hvst : (s.vehicle v).state = .offered ∨ (s.vehicle v).state = .toSource := by
    rcases w.held.fits with ⟨-, e⟩ | ⟨-, e⟩ | ⟨e, -⟩
    · exact .inl e
    · exact .inr e
    · rcases hst with e' | e' <;> rw [e'] at e <;> cases e
  have haway : (s.vehicle v).state ≠ .offline ∧ (s.vehicle v).state ≠ .stalled := by
    rcases hvst with e | e <;> rw [e] <;> exact ⟨VState.noConfusion, VState.noConfusion⟩
  have hholds := hreg.holds_ne_nil haway.1 haway.2
  have hlaws := (w.held.laws.noteWithdraw v o .cancelled)
  have hread : (s.noteWithdraw v o .cancelled).vehicle v = s.vehicle v := noteWithdraw_at_vehicle ..
  have hnames (x) : (s.noteWithdraw v o .cancelled).Names x v ↔ x = o := by
    rw [hlaws.hold_names, hread, w.order, Option.some.injEq, eq_comm]
  have hwatch := hlaws.about_mono (u' := fun y x => y ≠ v ∧ x = o) hlaws.held_steady hlaws.held id (fun _ => id) (fun _ => id)
    fun y x e => .inr fun hn => e.1 (Option.some.inj ?_)
  · have hset : LawfulBut (.about v (VehicleRec.Ready fun _ => False) False (fun _ => False) (· = o) fun y x => y ≠ v ∧ x = o)
        ((s.noteWithdraw v o .cancelled).updVehicle v fun r => { r with offer := none, order := none }) := by
      refine hwatch.writeVehicle (r := { (s.noteWithdraw v o .cancelled).vehicle v with offer := none, order := none })
        (steady_ready _) ?_ rfl rfl rfl (fun hm => absurd ((noteWithdraw_keeps_mode ..).symm.trans hm) w.held.ne_setup)
        (fun x hx => by cases hx) (fun x hx => .inr ((hnames x).mp hx)) (fun _ _ => id)
        fun x y _ hp hy hyv => absurd ((hnames x).mp ⟨y, hy, hyv⟩) hp
      rw [hread]
      refine ⟨hholds, fun e => hholds (hreg.owner.mp e), ?_, ?_, rfl, nofun⟩
      · by_contra e; exact haway.2 (hreg.cause.mp e)
      · by_contra e; exact haway.2 (hreg.saved e)
    have hm : ((s.noteWithdraw v o .cancelled).updVehicle v fun r => { r with offer := none, order := none }).mode ≠ .setup :=
      fun hm => absurd ((noteWithdraw_keeps_mode ..).symm.trans hm) w.held.ne_setup
    unfold State.cancelVehicle
    dsimp only
    split
    · exact ⟨hset.intoLoadedIdle _ (fun r hr => hr.loaded _) (fun r x hr hx => (hr.order x hx).elim) hm,
        congrArg VehicleRec.order (setVehicle_same ..)⟩
    · exact ⟨hset.intoIdle (fun r n hr => hr.idled n) (fun r x hr hx => (hr.order x hx).elim) hm, enterIdle_order ..⟩
  · obtain ⟨z, hz, hzy⟩ := hn
    have : s.order o = some z := by rw [← e.2]; exact (noteWithdraw_keeps_order ..).symm.trans hz
    rw [w.record] at this
    rw [← Option.some.inj this] at hzy
    exact hzy.symm.trans w.held.vehicle

theorem cancel_lawful (h : LawfulBut .zero s) (hr : s.order o = some r) (hc : r.state ≠ .carrying)
    (hw : ∀ v, r.vehicle = some v → Work v o r s) : LawfulBut .zero (s.cancel o r).1 := by
  have hfree (hnone : r.vehicle = none) : LawfulBut .zero (s.freeOrder o) :=
    h.freeOrder (d := .zero) (g := fun _ _ => False) (u := fun _ _ => False) (fun _ => id) (fun _ _ _ => id) (fun w hwo => by
      obtain ⟨x, hx, hxw⟩ := (h.crew.points w o hwo).resolve_right id
      rw [hr] at hx
      rw [← Option.some.inj hx, hnone] at hxw; cases hxw) fun _ _ _ => id
  have hidle := (h.book.sound o r hr).idle
  unfold State.cancel
  split
  · next hq => exact hfree (hidle.mp hq)
  · next v hv hq =>
    have hst : r.state = .offered ∨ r.state = .toSource := by
      cases e : r.state
      · exact absurd e hq
      · exact .inl rfl
      · exact .inr rfl
      · exact absurd e hc
    obtain ⟨hcancelled, hnone⟩ := (hw v hv).cancelVehicle hst (r.state = .offered ∧ r.bound = some v)
    dsimp only
    refine LawfulBut.noteVehicle ?_ _ _
    have hfreed : LawfulBut (.owing v (· = o) fun _ _ => False) ((s.cancelVehicle o v (r.state = .offered ∧ r.bound = some v)).1.freeOrder o) :=
      hcancelled.freeOrder (g := fun _ _ => False) (u := fun _ _ => False) (fun _ => id) (fun _ _ _ => id) (fun w hwo => by
        rcases eq_or_ne w v with rfl | hne
        · rw [hnone] at hwo; cases hwo
        · exact hcancelled.crew.unnamed w o ⟨hne, rfl⟩ ((hcancelled.crew.points w o hwo).resolve_right id)) fun _ _ _ => False.elim
    refine hfreed.owing_zero fun x hx ⟨z, hz, _⟩ => ?_
    rw [hx] at hz
    have : ((s.cancelVehicle o v (r.state = .offered ∧ r.bound = some v)).1.freeOrder o).order o = none := setOrder_same ..
    rw [this] at hz; cases hz
  · next hnone _ => exact hfree hnone

theorem execCancelOrder_lawful {h : Hdr} {o tag} (hs : LawfulBut .zero s) (ht : execCancelOrder h o tag s = .next t) :
    LawfulBut .zero t := by
  refine request_lawful hs (fun u hu _ => inRange_lawful hu fun o _ => withOrder_lawful hu fun r x hx hr hf _ => ?_) ht
  split
  · exact hx
  · next hc => exact withVehicleOf_lawful hx hr hf fun y hy hry _ hw => cancel_lawful hy hry hc hw

end Sys2Proof.Machine
end

section
/-! REDIRECT_ORDER, RECLASS_ORDER, SET_PORT_STATE and SET_TIMING keep the laws (R95 to R97, R101, R102, R105, R149 to R152). -/

namespace Sys2Proof.Machine

variable {s t : State} {v : VehicleId} {o : Slot} {r : OrderRec}

/-! ## REDIRECT_ORDER -/

/-- R90: the source of an order is not its destination in use. -/
theorem OrderRec.Sound.source_ne (h : r.Sound) {p : PortId} (hp : r.source = some p) : r.destInUse ≠ p := by
  unfold OrderRec.destInUse
  split
  · cases ha : r.alt with
    | none => exact fun e => h.dest (hp.trans (congrArg some e.symm))
    | some q =>
      refine fun e => (h.source.resolve_left (by rw [hp]; exact Option.some_ne_none p)) ?_
      rw [hp, ha]; exact congrArg some e.symm
  · exact fun e => h.dest (hp.trans (congrArg some e.symm))

/-- R103: what a worked order holds. -/
theorem Book.reserves_iff {d : BookDebt} (h : Book d s) (hr : s.order o = some r) (p : PortId) (k : ResKind) :
    (s.port p).reservation = some ⟨o, k⟩ ↔ r.Reserves p k := by
  rw [h.reserved p o k]
  refine ⟨fun ⟨y, hy, e⟩ => ?_, fun e => ⟨r, hr, e⟩⟩
  rw [hr] at hy
  exact Option.some.inj hy ▸ e

section Redirect

variable {dest : PortId} {alt : Option PortId}

/-- R95: the order with its new destinations. -/
def OrderRec.redirected (dest : PortId) (alt : Option PortId) (r : OrderRec) : OrderRec :=
  { r with dest := dest, alt := alt, altInUse := false }

theorem redirected_sound (h : r.Sound) (hc : r.sourceConflict dest alt = false) (ha : alt ≠ some dest) :
    (r.redirected dest alt).Sound := by
  unfold OrderRec.sourceConflict at hc
  refine ⟨h.idle, fun e => ?_, ha, ?_⟩
  · have e : r.source = some dest := e
    rw [e] at hc
    simp at hc
  · cases hs : r.source with
    | none => exact .inl hs
    | some p =>
      refine .inr fun e => ?_
      have e : r.source = alt := e
      rw [hs, ← e, hs] at hc
      simp at hc

/-- The ports of a field order after its redirection, before its record is written. -/
def State.redirectPorts (s : State) (o : Slot) (r : OrderRec) (dest : PortId) : State :=
  if r.inField ∧ r.destInUse ≠ dest then s.releasePort o r.destInUse else s

theorem redirectPorts_reservation (hf : r.inField = true) (p : PortId) :
    ((s.redirectPorts o r dest).port p).reservation =
      if p = r.destInUse ∧ r.destInUse ≠ dest ∧ (s.port p).names o = true then none else (s.port p).reservation := by
  unfold State.redirectPorts
  split
  · next h =>
    rw [releasePort_reservation]
    refine if_congr ⟨fun e => ⟨e.1, h.2, ?_⟩, fun e => ⟨e.1, ?_⟩⟩ rfl rfl
    · exact e.1 ▸ e.2
    · exact e.1 ▸ e.2.2
  · next h =>
    rw [if_neg]
    exact fun e => h ⟨hf, e.2.1⟩

theorem BookOnly.redirectPorts (s : State) (o r dest) : BookOnly s (s.redirectPorts o r dest) := by
  unfold State.redirectPorts
  split
  · exact .releasePort ..
  · exact .refl s

theorem redirectPorts_order (s : State) (o r dest x) : (s.redirectPorts o r dest).order x = s.order x := by
  unfold State.redirectPorts
  split
  · simp only [State.order, releasePort_orders]
  · rfl

theorem redirectPorts_queues (s : State) (o r dest) : (s.redirectPorts o r dest).queues = s.queues := by
  unfold State.redirectPorts
  split
  · rw [releasePort_match]; split <;> [split <;> rfl; rfl]
  · rfl

theorem Work.redirectField (w : Work v o r s) (hc : r.sourceConflict dest alt = false) (ha : alt ≠ some dest)
    (hf : r.inField = true) (hno : r.state ≠ .offered) (hfree : s.redirectRefusal o dest = none) :
    LawfulBut .zero (((s.redirectPorts o r dest).setOrder o (some (r.redirected dest alt))).reserve dest o .drop) := by
  have hsound := w.laws.book.sound o r w.record
  have hres := w.laws.book.reserves_iff w.record
  have hdest : (r.redirected dest alt).destInUse = dest := rfl
  have hwas (x k) (hx : x ≠ o) : (s.port dest).reservation ≠ some ⟨x, k⟩ := fun e => by
    unfold State.redirectRefusal at hfree
    rw [e] at hfree
    split at hfree
    · cases hfree
    · dsimp only at hfree
      split at hfree
      · next h => exact hx h.1
      · cases hfree
  have hread (q) : ((((s.redirectPorts o r dest).setOrder o (some (r.redirected dest alt))).reserve dest o .drop).port q).reservation =
      if q = dest then some ⟨o, .drop⟩ else if q = r.destInUse ∧ r.destInUse ≠ dest ∧ (s.port q).names o = true then none
        else (s.port q).reservation := by
    rw [reserve_reservation]
    split
    · rfl
    · exact redirectPorts_reservation hf q
  have e : BookOnly s (((s.redirectPorts o r dest).setOrder o (some (r.redirected dest alt))).reserve dest o .drop) :=
    ((BookOnly.redirectPorts s o r dest).trans (.setOrder ..)).trans (.setPort ..)
  have hself : (((s.redirectPorts o r dest).setOrder o (some (r.redirected dest alt))).reserve dest o .drop).order o =
      some (r.redirected dest alt) := setOrder_same ..
  have hother (y) (hy : y ≠ o) :
      (((s.redirectPorts o r dest).setOrder o (some (r.redirected dest alt))).reserve dest o .drop).order y = s.order y :=
    (setOrder_other _ _ hy).trans (redirectPorts_order ..)
  have hbook : Book Debt.zero.book (((s.redirectPorts o r dest).setOrder o (some (r.redirected dest alt))).reserve dest o .drop) := by
    refine w.laws.book.rework w.record w.held.working hself hother (redirectPorts_queues s o r dest) (redirected_sound hsound hc ha)
      w.held.working id (fun q k => ?_) (fun q x k hx => ?_) fun q hq => hq.elim
    · rw [hread]
      have hpick : (r.redirected dest alt).Reserves q k ↔
          (k = .pick ∧ r.state = .toSource ∧ r.source = some q) ∨ (k = .drop ∧ q = dest) := by
        unfold OrderRec.Reserves
        rw [hdest]
        have hq := w.held.working
        simp only [OrderRec.redirected, hno, false_or, ne_eq, hq, not_false_eq_true, true_and, eq_comm]
      rw [hpick]
      split
      · next hq =>
        subst hq
        refine ⟨fun e => .inr ⟨(congrArg Reservation.kind (Option.some.inj e)).symm, rfl⟩, ?_⟩
        rintro (⟨-, -, hs⟩ | ⟨rfl, -⟩)
        · exact absurd hs (redirected_sound hsound hc ha).dest
        · rfl
      · next hq =>
        split
        · next hd =>
          refine iff_of_false nofun ?_
          rintro (⟨-, -, hs⟩ | ⟨-, e⟩)
          · exact hsound.source_ne hs hd.1.symm
          · exact hq e
        · next hd =>
          rw [hres]
          refine ⟨?_, ?_⟩
          · rintro (⟨hk, hs, hsrc⟩ | ⟨hk, hs, hdq⟩)
            · exact .inl ⟨hk, hs.resolve_left hno, hsrc⟩
            · exact absurd ⟨hdq.symm, fun e => hq (hdq.symm.trans e), (names_iff _ _).mpr ⟨_, (hres q k).mpr (.inr ⟨hk, hs, hdq⟩), rfl⟩⟩ hd
          · rintro (⟨hk, hs, hsrc⟩ | ⟨-, e⟩)
            · exact .inl ⟨hk, .inr hs, hsrc⟩
            · exact absurd e hq
    · rw [hread]
      split
      · next hq =>
        subst hq
        exact iff_of_false (fun e => hx (congrArg Reservation.slot (Option.some.inj e)).symm) (hwas x k hx)
      · split
        · next hd =>
          refine iff_of_false nofun fun e => ?_
          obtain ⟨y, hy, ey⟩ := (names_iff _ _).mp hd.2.2
          rw [e] at hy
          exact hx ((congrArg Reservation.slot (Option.some.inj hy)).trans ey)
        · rfl
  have hset := w.held.advance (x := s.vehicle v) e hbook hself hother w.held.vehicle (w.laws.few.2.2 o r w.record)
    (w.laws.regular v) rfl rfl rfl w.order w.held.fits
  rw [← e.vehicle v, setVehicle_vehicle] at hset
  exact hset

theorem redirect_lawful (h : LawfulBut .zero s) (hr : s.order o = some r) (hc : r.sourceConflict dest alt = false)
    (ha : alt ≠ some dest) (hno : r.state ≠ .offered) (hfree : s.redirectRefusal o dest = none)
    (hw : ∀ v, r.vehicle = some v → Work v o r s) : LawfulBut .zero (s.redirect o r dest alt) := by
  have hsound := h.book.sound o r hr
  unfold State.redirect
  dsimp only
  by_cases hf : r.inField = true
  · have hq : r.state ≠ .queued := fun e => by rw [OrderRec.inField, e] at hf; cases hf
    obtain ⟨v, hv⟩ := Option.ne_none_iff_exists'.mp fun e => hq (hsound.idle.mpr e)
    have hset := (hw v hv).redirectField hc ha hf hno hfree
    rw [if_pos hf]
    split
    · exact hset.noteReroute ..
    · exact hset
  · have hq : r.state = .queued := by
      cases e : r.state
      · rfl
      · exact absurd e hno
      · exact absurd (by rw [OrderRec.inField, e]; rfl) hf
      · exact absurd (by rw [OrderRec.inField, e]; rfl) hf
    rw [if_neg hf, if_neg fun e => hf e.1]
    exact h.rewriteQueued hr hq hq (redirected_sound hsound hc ha) rfl rfl rfl rfl

theorem redirectRefusal_congr (hports : t.ports = s.ports) : t.redirectRefusal o dest = s.redirectRefusal o dest := by
  have hport : t.port dest = s.port dest := by simp only [State.port, hports]
  unfold State.redirectRefusal
  rw [hport]

theorem execRedirectOrder_lawful {h : Hdr} {o tag p q} (hs : LawfulBut .zero s) (ht : execRedirectOrder h o tag p q s = .next t) :
    LawfulBut .zero t := by
  refine request_lawful hs (fun u hu _ => inRange_lawful hu fun o _ => inRange_lawful hu fun dest _ =>
    inRange_lawful hu fun alt _ => ?_) ht
  split
  · exact hu
  · next hfit =>
    simp only [State.portsFit, Bool.not_eq_true', Bool.not_eq_false, Bool.and_eq_true, decide_eq_true_eq] at hfit
    refine withOrder_lawful hu fun r x hx hr hf hc => ?_
    split
    · exact hx
    · next hno =>
      split
      · exact hx
      · next hfree =>
        exact withVehicleOf_lawful hx hr hf fun y hy hry hports hw =>
          redirect_lawful hy hry hc hfit.1.2 hno ((redirectRefusal_congr hports).trans hfree) hw

end Redirect

/-! ## RECLASS_ORDER and promotions -/

/-- R89: a QUEUED order queued anew. -/
theorem requeueAs_lawful {r' : OrderRec} (h : LawfulBut .zero s) (hr : s.order o = some r) (hq : r.state = .queued)
    (hq' : r'.state = .queued) (hsound : r'.Sound) (hvehicle : r'.vehicle = r.vehicle) (hflips : r'.flips = r.flips) :
    LawfulBut .zero ((s.leaveQueue o).queued o r') := by
  have hout := h.book.leaveQueue (o := o) fun x hx => by rw [hr] at hx; exact Option.some.inj hx ▸ hq
  have hself : ((s.leaveQueue o).queued o r').order o = some r' := setOrder_same ..
  have honly : BookOnly s ((s.leaveQueue o).queued o r') := BookOnly.trans (t := s.leaveQueue o) rfl (.queued ..)
  refine h.ofBookOnly (d := .zero) (o := o) (c := Debt.zero.crew) (k := Debt.zero.book) honly
    (hout.queued_book hsound hq' (h.book.not_vacant hr) fun _ => id) ?_ (fun x hx => setOrder_other _ _ hx)
    (fun hm => absurd hm (h.ne_setup_of_order hr)) fun x hx => ?_
  · refine h.crew.touch (fun v => h.crew.good v) (fun v hv => absurd rfl hv) (fun _ => rfl) (fun _ => rfl) fun x => ?_
    rcases eq_or_ne x o with rfl | hx
    · rw [hself, hr, Option.map_some, Option.map_some, hq', hq, hvehicle]
    · exact congrArg _ (setOrder_other _ _ hx)
  · rw [hself] at hx
    rw [← Option.some.inj hx, hflips]; exact h.few.2.2 o r hr

theorem promote_lawful (h : LawfulBut .zero s) (hq : ∀ r, s.order o = some r → r.state = .queued) : LawfulBut .zero (s.promote o) := by
  cases hr : s.order o with
  | none => rw [State.promote, hr]; exact h
  | some r =>
    have hs := h.book.sound o r hr
    rw [promote_eq hr]
    exact ((requeueAs_lawful (r' := r.promoted s.msBase) h hr (hq r hr) (hq r hr) ⟨hs.idle, hs.dest, hs.alt, hs.source⟩ rfl
      rfl).setTrigger).noteOrder ..

theorem reclass_lawful (h : LawfulBut .zero s) (hr : s.order o = some r) (c : Cls) : LawfulBut .zero (s.reclass o r c) := by
  have hs := h.book.sound o r hr
  unfold State.reclass
  split
  · next hq =>
    rw [enterQueue_setOrder]
    exact requeueAs_lawful h hr hq hq ⟨hs.idle, hs.dest, hs.alt, hs.source⟩ rfl rfl
  · next hq =>
    exact h.rewrite (d := .zero) (r' := { r with cls := c }) hr ⟨hs.idle, hs.dest, hs.alt, hs.source⟩ rfl rfl
      (fun e => absurd e hq) rfl (fun _ _ => Iff.rfl) (by exact h.few.2.2 o r hr) fun _ => id

section Requests

variable {h : Hdr}

theorem execReclassOrder_lawful {o tag c} (hs : LawfulBut .zero s) (ht : execReclassOrder h o tag c s = .next t) : LawfulBut .zero t :=
  request_lawful hs (fun _ hu _ => inRange_lawful hu fun _ _ => inRange_lawful hu fun c _ =>
    withOrder_lawful hu fun _ _ hx hr _ _ => (reclass_lawful hx hr c).setTrigger) ht

theorem setDown_lawful (h : LawfulBut .zero s) (p : PortId) (down : Bool) : LawfulBut .zero (s.setDown p down) := by
  have hset : LawfulBut .zero (s.setPort p { s.port p with down := down }) :=
    ⟨h.rail.congr' rfl rfl rfl, h.crew.congr (fun _ => rfl) fun _ => rfl, h.book.congr (fun _ => rfl) rfl fun q => by
      rw [setPort_read]; split
      · next e => rw [e]
      · rfl, h.site.congr (fun _ => rfl) (fun _ => Iff.rfl) rfl rfl rfl rfl, h.few⟩
  unfold State.setDown
  split
  · exact h
  · dsimp only
    split
    · exact (hset.notifyWhere ..).setTrigger
    · exact hset.notifyWhere ..

theorem execSetPortState_lawful {p a} (hs : LawfulBut .zero s) (ht : execSetPortState h p a s = .next t) : LawfulBut .zero t := by
  refine request_lawful hs (fun u hu _ => inRange_lawful hu fun p _ => inRange_lawful hu fun down _ => ?_) ht
  split
  · exact hu
  · exact setDown_lawful hu p down

/-! ## SET_TIMING -/

/-- Every vehicle record changed in what the laws do not read. -/
theorem quietVehicles_lawful (h : LawfulBut .zero s) (f : VehicleRec → VehicleRec) (hvehicles : t.vehicles = s.vehicles.map f)
    (hblocks : t.blocks = s.blocks) (horders : t.orders = s.orders) (hports : t.ports = s.ports) (hqueues : t.queues = s.queues)
    (hmode : t.mode = s.mode) (hcommitted : t.committed = s.committed) (hmap : t.map = s.map) (hbays : t.bays = s.bays)
    (hregular : ∀ r : VehicleRec, r.Regular → (f r).Regular) (hstate : ∀ r, (f r).state = r.state)
    (hholds : ∀ r, (f r).holds = r.holds) (hwait : ∀ r, (f r).waitingOn = r.waitingOn) (horder : ∀ r, (f r).order = r.order)
    (hflips : ∀ r, (f r).flips = r.flips) : LawfulBut .zero t := by
  have hread (v) : t.vehicle v = f (s.vehicle v) := by simp [State.vehicle, hvehicles]
  have hblock (b) : t.block b = s.block b := by simp only [State.block, hblocks]
  have horder' (o) : t.order o = s.order o := by simp only [State.order, horders]
  have hport (p) : t.port p = s.port p := by simp only [State.port, hports]
  refine ⟨h.rail.congr (fun b => by rw [hblock]) (fun b => by rw [hblock]) (fun b => by rw [hblock]) (fun v => by rw [hread, hholds])
      (fun v => by rw [hread, hwait]) (fun v hv => by rw [hread, hflips]; exact hv) hmap,
    h.crew.touch (fun v => by rw [hread]; exact hregular _ (h.regular v)) (fun v hv => absurd rfl hv) (fun v => by rw [hread, horder])
      (fun v => by rw [hread, hstate]) fun o => by rw [horder'],
    h.book.congr horder' hqueues fun p => by rw [hport],
    h.site.congr (fun v => by rw [hread, hstate]) (fun o => by rw [horder']) hmode hcommitted hmap hbays,
    ⟨fun b => by rw [hblock]; exact h.few.1 b, fun v => by rw [hread, hflips]; exact h.few.2.1 v,
      fun o r hr => h.few.2.2 o r (horder' o ▸ hr)⟩⟩

theorem silenceChange_only (old new : Byte) (r : VehicleRec) : ∃ c, r.silenceChange old new = { r with silence := c } := by
  unfold VehicleRec.silenceChange
  split
  · exact ⟨_, rfl⟩
  · split
    · exact ⟨_, rfl⟩
    · exact ⟨r.silence, rfl⟩

theorem applySilence_lawful (h : LawfulBut .zero s) (old new : Byte) : LawfulBut .zero (State.applySilence old new s).1 := by
  have hread := h.readAll (fun _ => id) vehicleRefs
  have hsame {α : Type} (g : VehicleRec → α) (hg : ∀ r c, g { r with silence := c } = g r) (r) : g (r.silenceChange old new) = g r := by
    obtain ⟨c, e⟩ := silenceChange_only old new r
    rw [e, hg]
  unfold State.applySilence
  split
  · exact h
  · exact quietVehicles_lawful hread (VehicleRec.silenceChange old new) rfl rfl rfl rfl rfl rfl rfl rfl rfl (fun r hr => by
        obtain ⟨c, e⟩ := silenceChange_only old new r
        rw [e]; exact hr.same rfl rfl rfl rfl rfl rfl rfl rfl) (hsame _ fun _ _ => rfl) (hsame _ fun _ _ => rfl)
      (hsame _ fun _ _ => rfl) (hsame _ fun _ _ => rfl) (hsame _ fun _ _ => rfl)

theorem promotionDue_queued (h : (s.order o).any s.promotionDue = true) (r : OrderRec) (hr : s.order o = some r) :
    r.state = .queued := by
  rw [hr, Option.any_some] at h
  simp only [State.promotionDue, Bool.and_eq_true, decide_eq_true_eq] at h
  exact h.1.1

theorem promoteAllDue_lawful : ∀ (os : List Slot) {s : State}, LawfulBut .zero s → LawfulBut .zero (State.promoteAllDue os s).1
  | [], _, h => h
  | o :: os, s, h => by
    have hread := h.readOrder (fun _ => id) o
    refine promoteAllDue_lawful os (s := (s.promoteIfDue o).1) ?_
    unfold State.promoteIfDue
    dsimp only
    split
    · next hdue => exact promote_lawful hread (promotionDue_queued hdue)
    · exact hread

theorem applyPromotion_lawful (h : LawfulBut .zero s) (old new : Timing) (c : Cls) :
    LawfulBut .zero (State.applyPromotion old new c s).1 := by
  unfold State.applyPromotion
  split
  · exact promoteAllDue_lawful _ h
  · exact h

theorem setTiming_lawful (h : LawfulBut .zero s) (new : Timing) : LawfulBut .zero (s.setTiming new).1 := by
  have hset : LawfulBut .zero { s with timing := new } := h.settings rfl rfl rfl rfl rfl rfl rfl rfl rfl
  have hall := applyPromotion_lawful (applyPromotion_lawful (applyPromotion_lawful (applySilence_lawful hset s.timing.silence new.silence)
    s.timing new .bulk) s.timing new .standard) s.timing new .express
  unfold State.setTiming
  dsimp only
  split
  · exact hall.settings rfl rfl rfl rfl rfl rfl rfl rfl rfl
  · exact hall.setTrigger.settings rfl rfl rfl rfl rfl rfl rfl rfl rfl

theorem execSetTiming_lawful {x} (hs : LawfulBut .zero s) (ht : execSetTiming h x s = .next t) : LawfulBut .zero t := by
  refine request_lawful hs (fun u hu _ => ?_) ht
  split
  · exact hu
  · exact setTiming_lawful hu x

end Requests

end Sys2Proof.Machine
end

section
/-! A decision of the Dispatch Engine keeps the laws (R110 to R115). -/

namespace Sys2Proof.Machine

variable {s t : State} {v : VehicleId} {o : Slot} {r : OrderRec}

/-! ## What the scan watches -/

/-- Nothing owed; of the book, `queued` slots have QUEUED orders, `kept` ones their order, and `free` ports no reservation. -/
def Debt.watching (queued : Slot → Prop) (kept : Slot → OrderRec → Prop) (free : PortId → Prop) : Debt :=
  { Debt.zero with book := { Debt.zero.book with queued := queued, kept := kept, free := free } }

section Watching

variable {q q' : Slot → Prop} {k : Slot → OrderRec → Prop} {f : PortId → Prop}

theorem watching_inert (v : VehicleId) : ¬ (Debt.watching q k f).crew.inert v := id

/-- More is watched that is so. -/
theorem LawfulBut.watch (h : LawfulBut (.watching q k f) s) {k' : Slot → OrderRec → Prop} {f' : PortId → Prop}
    (hq : ∀ o, q' o → q o) (hk : ∀ o r, k' o r → s.order o = some r ∧ r.flips = [] ∧ r.state = .queued)
    (hf : ∀ p, f' p → (s.port p).reservation = none) : LawfulBut (.watching q' k' f') s :=
  h.mono h.rail h.crew ⟨h.book.sound, h.book.queue, h.book.reserved, h.book.vacant, hk, fun o r hx => h.book.queued o r (hq o hx), hf⟩ rfl

/-- Nothing is watched any more. -/
theorem LawfulBut.scanned (h : LawfulBut (.watching q k f) s) : LawfulBut .zero s :=
  h.watch (q' := fun _ => False) (fun _ => False.elim) (fun _ _ => False.elim) fun _ => False.elim

theorem LawfulBut.unkept (h : LawfulBut (.watching q k f) s) : LawfulBut (.watching q (fun _ _ => False) fun _ => False) s :=
  h.watch (fun _ => id) (fun _ _ => False.elim) fun _ => False.elim

theorem LawfulBut.watchQueued (h : LawfulBut .zero s) (hq : ∀ o r, q o → s.order o = some r → r.state = .queued) :
    LawfulBut (.watching q (fun _ _ => False) fun _ => False) s :=
  h.mono h.rail h.crew ⟨h.book.sound, h.book.queue, h.book.reserved, h.book.vacant, h.book.kept, hq, h.book.free⟩ rfl

end Watching

/-! ## The vehicle found (R112) -/

theorem weigh_lawful {d : Debt} (hi : ∀ v, ¬ d.crew.inert v) (h : LawfulBut d s) (v : VehicleId) :
    LawfulBut d (State.weigh r s v) := by
  have hread := h.readVehicle hi v
  unfold State.weigh
  dsimp only
  split
  · split
    · exact hread.readBlock hi _
    · exact hread
  · exact hread

theorem foldl_weigh_lawful {d : Debt} (hi : ∀ v, ¬ d.crew.inert v) : ∀ (vs : List VehicleId) {s : State}, LawfulBut d s →
    LawfulBut d (vs.foldl (State.weigh r) s)
  | [], _, h => h
  | v :: vs, _, h => foldl_weigh_lawful hi vs (weigh_lawful hi h v)

theorem foldl_nearer_mem {l : List (VehicleId × Byte)} : ∀ (xs : List (VehicleId × Byte)) (x : VehicleId × Byte), x ∈ l →
    (∀ y ∈ xs, y ∈ l) → xs.foldl s.nearer x ∈ l
  | [], _, hx, _ => hx
  | y :: ys, x, hx, hys => by
    refine foldl_nearer_mem ys _ ?_ fun z hz => hys z (List.mem_cons_of_mem y hz)
    rcases nearer_eq_or (s := s) x y with e | e <;> rw [e]
    · exact hx
    · exact hys y List.mem_cons_self

/-- R112: the vehicle chosen is IDLE. -/
theorem nearest_idle {b : BlockId} (h : s.nearest r b = some v) : (s.vehicle v).state = .idle := by
  unfold State.nearest at h
  split at h
  · cases h
  · next x xs hl =>
    have hmem : xs.foldl s.nearer x ∈ allVehicles.filterMap (s.eligible r b) := by
      rw [hl]
      exact foldl_nearer_mem xs x List.mem_cons_self fun y hy => List.mem_cons_of_mem x hy
    rw [← Option.some.inj h]
    exact (eligible_iff.mp (mem_eligible.mp hmem)).2.1

/-! ## An order considered (R111) -/

/-- An order that can go, with the vehicle for it. -/
structure Offerable (o : Slot) (r : OrderRec) (v : VehicleId) (alternate : Bool) (s : State) : Prop where
  record : s.order o = some r
  queued : r.state = .queued
  clean : r.flips = []
  waiting : (s.vehicle v).state = .idle ∨ (s.vehicle v).state = .loadedIdle
  source : ∀ p, r.source = some p → (s.port p).reservation = none
  dest : (s.port (r.offeredTo v alternate).destInUse).reservation = none

/-- R111: the destination chosen is the one in use of the order offered, and is not reserved. -/
theorem chooseDest_free {p : PortId} {alternate : Bool} (h : s.chooseDest r = some (p, alternate)) (v : VehicleId) :
    (r.offeredTo v alternate).destInUse = p ∧ (s.port p).reservation = none := by
  unfold State.chooseDest at h
  split at h
  · next hu =>
    obtain ⟨rfl, rfl⟩ := Prod.mk.inj (Option.some.inj h)
    exact ⟨rfl, (usable_iff.mp hu).2⟩
  · obtain ⟨x, hx, e⟩ := Option.map_eq_some_iff.mp h
    obtain ⟨rfl, rfl⟩ := Prod.mk.inj e
    obtain ⟨ha, hu⟩ := Option.filter_eq_some_iff.mp hx
    refine ⟨?_, (usable_iff.mp hu).2⟩
    show r.alt.getD r.dest = x
    rw [ha]; rfl

theorem consider_lawful {q : Slot → Prop} (h : LawfulBut (.watching q (fun _ _ => False) fun _ => False) s) (hr : s.order o = some r)
    (hq : r.state = .queued) (hf : r.flips = []) :
    LawfulBut (.watching q (fun _ _ => False) fun _ => False) (s.consider r).1 ∧
      ∀ v alternate, (s.consider r).2 = some (v, alternate) → Offerable o r v alternate (s.consider r).1 := by
  have hkept (x y) (e : x = o ∧ y = r) : s.order x = some y ∧ y.flips = [] ∧ y.state = .queued := by
    rw [e.1, e.2]; exact ⟨hr, hf, hq⟩
  unfold State.consider
  split
  · next p hp =>
    split
    · next d alternate b hu hd hb =>
      have hw : LawfulBut (.watching q (fun x y => x = o ∧ y = r) fun x => x = p ∨ x = d) s := by
        refine h.watch (fun _ => id) hkept fun x hx => ?_
        rcases hx with rfl | rfl
        · exact (usable_iff.mp hu).2
        · exact (chooseDest_free hd default).2
      have hall : LawfulBut _ (s.findVehicle r b).1 := foldl_weigh_lawful watching_inert allVehicles hw
      refine ⟨hall.unkept, fun v alternate' hv => ?_⟩
      obtain ⟨w, hw', e⟩ := Option.map_eq_some_iff.mp hv
      obtain ⟨rfl, rfl⟩ := Prod.mk.inj e
      refine ⟨(hall.book.kept o r ⟨rfl, rfl⟩).1, hq, hf, .inl (nearest_idle hw'), fun x hx => ?_, ?_⟩
      · exact hall.book.free x (.inl (Option.some.inj (hx.symm.trans hp)))
      · rw [(chooseDest_free hd w).1]
        exact hall.book.free d (.inr rfl)
    · exact ⟨h, fun _ _ e => nomatch e⟩
  · next v hs hb =>
    have hw : LawfulBut (.watching q (fun x y => x = o ∧ y = r) fun _ => False) s := h.watch (fun _ => id) hkept fun _ => False.elim
    have hall := hw.readVehicle watching_inert v
    dsimp only
    split
    · next hst =>
      refine ⟨hall.unkept, fun w alternate hv => ?_⟩
      obtain ⟨⟨d, a⟩, hd, e⟩ := Option.map_eq_some_iff.mp hv
      obtain ⟨rfl, rfl⟩ := Prod.mk.inj e
      refine ⟨(hall.book.kept o r ⟨rfl, rfl⟩).1, hq, hf, .inr hst, fun x hx => ?_, ?_⟩
      · rw [hs] at hx; cases hx
      · rw [(chooseDest_free hd v).1]; exact (chooseDest_free hd v).2
    · exact ⟨hall.unkept, fun _ _ e => nomatch e⟩
  · exact ⟨h, fun _ _ e => nomatch e⟩

/-! ## The offer (R114) -/

/-- R114: the order offered and its ports reserved, before the vehicle's record is written. -/
def State.offerOrder (s : State) (o : Slot) (r : OrderRec) (v : VehicleId) (alternate : Bool) : State :=
  (((s.leaveQueue o).setOrder o (some (r.offeredTo v alternate))).reserve? o .pick r.source).reserve
    (r.offeredTo v alternate).destInUse o .drop

section Offer

variable {alternate : Bool}

theorem offerPorts_eq_setVehicle (s : State) (o r v) (alternate : Bool) :
    s.offerPorts o r v alternate = (s.offerOrder o r v alternate).setVehicle v ((s.vehicle v).offeredOrder o s.timing.offer) := by
  unfold State.offerPorts State.offerRecords State.offerOrder
  cases r.source <;> rfl

theorem BookOnly.offerOrder (s : State) (o r v alternate) : BookOnly s (s.offerOrder o r v alternate) := by
  unfold State.offerOrder
  cases r.source <;> rfl

theorem reserve?_eq (s : State) (o : Slot) (k : ResKind) (p : Option PortId) :
    (s.reserve? o k p).orders = s.orders ∧ (s.reserve? o k p).queues = s.queues := by cases p <;> exact ⟨rfl, rfl⟩

theorem reserve?_reservation (s : State) (o : Slot) (k : ResKind) (p : Option PortId) (x : PortId) :
    ((s.reserve? o k p).port x).reservation = if p = some x then some ⟨o, k⟩ else (s.port x).reservation := by
  cases p with
  | none => rw [if_neg nofun]; rfl
  | some p =>
    rw [State.reserve?, reserve_reservation]
    refine if_congr ?_ rfl rfl
    rw [Option.some.injEq, eq_comm]

theorem offerOrder_reservation (p : PortId) : ((s.offerOrder o r v alternate).port p).reservation =
    if p = (r.offeredTo v alternate).destInUse then some ⟨o, .drop⟩ else if r.source = some p then some ⟨o, .pick⟩
      else (s.port p).reservation := by
  rw [State.offerOrder, reserve_reservation, reserve?_reservation]; rfl

theorem offerOrder_order (x : Slot) : (s.offerOrder o r v alternate).order x =
    if x = o then some (r.offeredTo v alternate) else s.order x := by
  have e : (s.offerOrder o r v alternate).order x = ((s.leaveQueue o).setOrder o (some (r.offeredTo v alternate))).order x := by
    show (State.reserve? _ o .pick r.source).order x = _
    simp only [State.order, (reserve?_eq _ o .pick r.source).1]
  rw [e, setOrder_read]; rfl

theorem offeredTo_sound (h : r.Sound) (v : VehicleId) (alternate : Bool) : (r.offeredTo v alternate).Sound :=
  ⟨iff_of_false OState.noConfusion (Option.some_ne_none v), h.dest, h.alt, h.source⟩

theorem Book.offerOrder {d : BookDebt} (h : Book d s) (hoffer : Offerable o r v alternate s) (hkept : ∀ x, ¬ d.kept o x)
    (hqueued : ¬ d.queued o) (hfree : ∀ p, ¬ d.free p) : Book d (s.offerOrder o r v alternate) := by
  have hsound := offeredTo_sound (h.sound o r hoffer.record) v alternate
  have hout := h.leaveQueue (o := o) fun x hx => by
    rw [hoffer.record] at hx; exact Option.some.inj hx ▸ hoffer.queued
  have hown (p k) : (s.port p).reservation ≠ some ⟨o, k⟩ := fun e => ((hout.reserved p o k).mp e).1 rfl
  have hqueues : (s.offerOrder o r v alternate).queues = (s.leaveQueue o).queues := by
    show (State.reserve? _ o .pick r.source).queues = _
    rw [(reserve?_eq ..).2]; rfl
  refine hout.working_book (t := s.offerOrder o r v alternate) ((offerOrder_order o).trans (if_pos rfl)) (fun x hx => (offerOrder_order x).trans (if_neg hx)) hqueues hsound
    OState.noConfusion (h.not_vacant hoffer.record) hkept hqueued (fun p k => ?_) (fun p x k hx => ?_) fun p hp => absurd hp (hfree p)
  · have hres : (r.offeredTo v alternate).Reserves p k ↔
        (k = .pick ∧ r.source = some p) ∨ (k = .drop ∧ (r.offeredTo v alternate).destInUse = p) := by
      simp [OrderRec.Reserves, OrderRec.offeredTo]
    rw [offerOrder_reservation, hres]
    split
    · next hp =>
      subst hp
      refine ⟨fun e => .inr ⟨(congrArg Reservation.kind (Option.some.inj e)).symm, rfl⟩, ?_⟩
      rintro (⟨-, hs⟩ | ⟨rfl, -⟩)
      · exact absurd rfl (hsound.source_ne (p := (r.offeredTo v alternate).destInUse) hs)
      · rfl
    · next hp =>
      split
      · next hs =>
        refine ⟨fun e => .inl ⟨(congrArg Reservation.kind (Option.some.inj e)).symm, hs⟩, ?_⟩
        rintro (⟨rfl, -⟩ | ⟨-, e⟩)
        · rfl
        · exact absurd e.symm hp
      · next hs =>
        refine iff_of_false (hown p k) ?_
        rintro (⟨-, e⟩ | ⟨-, e⟩)
        · exact hs e
        · exact hp e.symm
  · have hnot {k'} (hn : (s.port p).reservation = none) :
        (some (⟨o, k'⟩ : Reservation) = some ⟨x, k⟩) ↔ (s.port p).reservation = some ⟨x, k⟩ := by
      rw [hn]
      exact iff_of_false (fun e => hx (congrArg Reservation.slot (Option.some.inj e)).symm) nofun
    rw [offerOrder_reservation]
    split
    · next hp => exact hnot (hp ▸ hoffer.dest)
    · split
      · next hs => exact hnot (hoffer.source p hs)
      · rfl

/-- R114: a vehicle without an order becomes OFFERED. -/
theorem VehicleRec.Regular.offered {x : VehicleRec} (h : x.Regular) (hst : x.state = .idle ∨ x.state = .loadedIdle) (o : Slot)
    (limit : Byte) : (x.offeredOrder o limit).Regular := by
  have hnot : x.state ≠ .stalled := by rcases hst with e | e <;> rw [e] <;> exact VState.noConfusion
  have haway : x.state ≠ .offline := by rcases hst with e | e <;> rw [e] <;> exact VState.noConfusion
  have hholds : x.holds ≠ [] := fun e => (h.empty e).elim haway fun e => hnot e.1
  have hcause : x.cause = none := by by_contra e; exact hnot (h.cause.mp e)
  have hsaved : x.saved = none := by by_contra e; exact hnot (h.saved e)
  have howner := h.owner
  unfold VehicleRec.offeredOrder
  constructor <;> simp_all

theorem offer_lawful (h : LawfulBut .zero s) (hoffer : Offerable o r v alternate s) : LawfulBut .zero (s.offer o r v alternate) := by
  have hreg := h.regular v
  have hnone : (s.vehicle v).order = none := by
    by_contra e
    rcases hreg.order.mp e with e | e | e | e <;> rcases hoffer.waiting with e' | e' <;> simp [e'] at e
  have hname (x) : ¬ s.Names x v := fun e => by
    have := (h.crew.named v x e).resolve_right id
    rw [hnone] at this; cases this
  have hun (w) : ¬ s.Names o w := fun ⟨x, hx, hw⟩ => by
    rw [hoffer.record] at hx
    obtain rfl := Option.some.inj hx
    rw [(h.book.sound o r hoffer.record).idle.mp hoffer.queued] at hw; cases hw
  have e := BookOnly.offerOrder s o r v alternate
  have hself : (s.offerOrder o r v alternate).order o = some (r.offeredTo v alternate) := (offerOrder_order o).trans (if_pos rfl)
  have hother (x) (hx : x ≠ o) : (s.offerOrder o r v alternate).order x = s.order x := (offerOrder_order x).trans (if_neg hx)
  have hnames (w) : (s.offerOrder o r v alternate).Names o w ↔ w = v := by
    refine ⟨fun ⟨x, hx, hw⟩ => ?_, ?_⟩
    · rw [hself] at hx
      obtain rfl := Option.some.inj hx
      exact (Option.some.inj hw).symm
    · rintro rfl; exact ⟨_, hself, rfl⟩
  have hcrew : Crew { Debt.zero.crew with orphan := fun w x => w = v ∧ x = o } (s.offerOrder o r v alternate) := by
    refine h.crew.reorder (d' := { Debt.zero.crew with orphan := fun w x => w = v ∧ x = o }) (o := o) e.vehicle hother rfl (fun _ => id) (fun _ => id)
      (fun _ _ _ => id) (fun _ _ _ hx => hx.elim) (fun _ _ _ => id) (fun w hw => ?_) (fun w hw => .inr ⟨(hnames w).mp hw, rfl⟩)
      (fun _ hu => hu.elim) (fun w x hw hx => ?_) fun w x _ hp hx hw => absurd ⟨(hnames w).mp ⟨x, hx, hw⟩, rfl⟩ hp
    · exact absurd ((h.crew.points w o hw).resolve_right id) (hun w)
    · rw [(hnames w).mp hw] at hx
      exact absurd hx (hname x)
  have hm : s.mode ≠ .setup := h.ne_setup_of_order hoffer.record
  have hall := h.ofBookOnly (d := .zero) (o := o) e
    (h.book.offerOrder hoffer (fun _ => id) id fun _ => id) hcrew hother (fun hm' => absurd hm' hm) fun x hx => by
      rw [hself] at hx
      rw [← Option.some.inj hx]; exact h.few.2.2 o r hoffer.record
  have hveh := e.vehicle v
  have hset : LawfulBut .zero (s.offerPorts o r v alternate) := by
    rw [offerPorts_eq_setVehicle]
    refine LawfulBut.setVehicle (d := { Debt.zero with crew := { Debt.zero.crew with orphan := fun w x => w = v ∧ x = o } }) hall
      (c := Debt.zero.crew)
      (hcrew.setVehicle (fun _ _ => rfl) (fun _ _ => id) (fun _ _ _ => id) (fun _ _ hw hx => absurd hx.1 hw) (fun _ _ => id)
        (hreg.offered hoffer.waiting o s.timing.offer) steady_regular (fun hp => absurd rfl hp) (fun _ _ => id) (fun x hx => .inl ?_)
        (fun x hx => .inl ?_) fun x y _ _ hy hyv => ?_)
      (by rw [hveh]; rfl) (by rw [hveh]; rfl) (by rw [hveh]; rfl) (fun hm' => absurd (e.sameMode.symm.trans hm') hm)
    · rw [← Option.some.inj hx]; exact (hnames v).mpr rfl
    · by_contra hne
      obtain ⟨y, hy, hyv⟩ := hx
      rw [hother x fun e => hne (congrArg some e.symm)] at hy
      exact hname x ⟨y, hy, hyv⟩
    · rcases eq_or_ne x o with rfl | hx
      · rw [hself] at hy
        rw [← Option.some.inj hy]; exact .inl ⟨rfl, rfl⟩
      · rw [hother x hx] at hy
        exact absurd ⟨y, hy, hyv⟩ (hname x)
  exact ((hset.notifyOwner ..).noteVehicle ..).setTrigger

end Offer

/-! ## The scan (R111, R130) -/

theorem scan_lawful : ∀ (os : List Slot) {s : State}, LawfulBut (.watching (· ∈ os) (fun _ _ => False) fun _ => False) s →
    LawfulBut .zero (State.scan os s)
  | [], _, h => h.scanned
  | o :: os, s, h => by
    have hread := h.readOrder watching_inert o
    have hrest {t : State} (ht : LawfulBut (.watching (· ∈ o :: os) (fun _ _ => False) fun _ => False) t) :
        LawfulBut .zero (State.scan os t) :=
      scan_lawful os (ht.watch (fun x hx => List.mem_cons_of_mem o hx) (fun _ _ => False.elim) fun _ => False.elim)
    rw [State.scan]
    dsimp only
    split
    · next r hb hr =>
      obtain ⟨hgo, hoffer⟩ := consider_lawful hread hr (hread.book.queued o r List.mem_cons_self hr)
        (readOrder_flips h.few hb hr)
      split
      · next v alternate e =>
        rw [e] at hgo hoffer
        exact offer_lawful hgo.scanned (hoffer v alternate rfl)
      · next e =>
        rw [e] at hgo
        exact hrest hgo
    · exact hrest hread

theorem mem_scanOrder {q : Queues} (h : o ∈ q.scanOrder) : ∃ c, o ∈ q.get c := by
  unfold Queues.scanOrder at h
  simp only [List.mem_append] at h
  rcases h with ((h | h) | h) | h
  exacts [⟨.hot, h⟩, ⟨.express, h⟩, ⟨.standard, h⟩, ⟨.bulk, h⟩]

theorem execDispatchDecision_lawful (hs : LawfulBut .zero s) (ht : execDispatchDecision s = .next t) : LawfulBut .zero t := by
  unfold execDispatchDecision at ht
  split at ht
  · cases ht; exact hs
  · cases ht
    have hset : LawfulBut .zero { s with trigger := false } := hs.settings rfl rfl rfl rfl rfl rfl rfl rfl rfl
    refine (scan_lawful _ (hset.watchQueued fun o r ho hr => ?_)).endEvent
    obtain ⟨c, hc⟩ := mem_scanOrder ho
    obtain ⟨x, hx, hq, -⟩ := ((hs.book.queue c).1 o).mp hc
    exact Option.some.inj (hx.symm.trans hr) ▸ hq

end Sys2Proof.Machine
end

section
/-! The part's own events, the frames of a link and one step keep the laws. -/

namespace Sys2Proof.Machine
variable {s t : State} {v : VehicleId} {o : Slot}

/-! ## A flipped bit (R132) -/

/-- The laws do not read the check words. -/
theorem lawful_of_flips {fb : BlockId → List Nat} {fv : VehicleId → List Nat} {fo : Slot → OrderRec → List Nat}
    (hblock : ∀ b, t.block b = { s.block b with flips := fb b }) (hvehicle : ∀ v, t.vehicle v = { s.vehicle v with flips := fv v })
    (horder : ∀ o, t.order o = (s.order o).map fun r => { r with flips := fo o r }) (hports : t.ports = s.ports)
    (hqueues : t.queues = s.queues) (hmode : t.mode = s.mode) (hcommitted : t.committed = s.committed) (hmap : t.map = s.map)
    (hbays : t.bays = s.bays) (h : s.lawful) : t.lawful := by
  have hport (p) : t.port p = s.port p := by simp only [State.port, hports]
  have hstatic (b) : t.static b = s.static b := by simp only [State.static, hmap]
  have hused (b) : t.used b = s.used b := by rw [State.used, hstatic]; rfl
  have howner (b) : t.bayOwner b = s.bayOwner b := by simp only [State.bayOwner, State.static, State.bay, hmap, hbays]
  have hseq (o) : t.submitSeqOf o = s.submitSeqOf o := by
    simp only [State.submitSeqOf, horder]; cases s.order o <;> rfl
  obtain ⟨map, holder, holds, wait, roster, order, queue, reservation⟩ := h
  have hsome {P Q : OrderRec → Prop} (o) (hPQ : ∀ r f, P { r with flips := f } ↔ Q r) :
      (∃ r, t.order o = some r ∧ P r) ↔ ∃ r, s.order o = some r ∧ Q r := by
    rw [horder]
    cases s.order o with
    | none => exact iff_of_false (fun ⟨_, hr, _⟩ => nomatch hr) fun ⟨_, hr, _⟩ => nomatch hr
    | some x =>
      simp only [Option.map_some, Option.some.injEq, exists_eq_left']
      exact hPQ x _
  refine ⟨?_, ?_, ?_, ?_, ?_, ?_, ?_, ?_⟩
  · unfold State.mapLaw
    simp only [hmode, hcommitted, hvehicle, horder, Option.map_eq_none_iff, hused, howner]
    exact map
  · unfold State.holderLaw
    simp only [hblock, hvehicle]
    exact holder
  · unfold State.holdsLaw
    simp only [hvehicle, hused, hstatic]
    exact holds
  · unfold State.waitLaw
    simp only [hblock, hvehicle, hused, hstatic]
    exact wait
  · unfold State.rosterLaw
    simp only [hvehicle]
    exact roster
  · refine ⟨fun v o => ?_, fun o r hr => ?_⟩
    · rw [hvehicle, hsome o (Q := fun r => r.vehicle = some v) fun _ _ => Iff.rfl]
      exact order.1 v o
    · rw [horder] at hr
      obtain ⟨x, hx, rfl⟩ := Option.map_eq_some_iff.mp hr
      simpa only [hvehicle] using order.2 o x hx
  · intro c
    obtain ⟨hmem, hnodup, hsorted⟩ := queue c
    refine ⟨fun o => ?_, hqueues ▸ hnodup, ?_⟩
    · rw [hsome o (Q := fun r => r.state = .queued ∧ r.cls = c) fun _ _ => Iff.rfl, hqueues]
      exact hmem o
    · simpa only [hqueues, hseq] using hsorted
  · intro p o k
    rw [hport, hsome o (Q := fun r => r.Reserves p k) fun _ _ => Iff.rfl]
    exact reservation p o k

theorem execBitFlip_lawful {x bit} (hs : s.lawful) (ht : execBitFlip x bit s = .next t) : t.lawful := by
  cases x with
  | block b =>
    cases ht
    refine lawful_of_flips (s := s) (fb := fun c => if c = b then toggle bit (s.block c).flips else (s.block c).flips)
      (fv := fun v => (s.vehicle v).flips) (fo := fun _ r => r.flips) (fun c => ?_) (fun _ => rfl) (fun o => ?_) rfl rfl rfl rfl rfl rfl hs
    · rw [State.updBlock, setBlock_read]; split
      · next e => rw [e]
      · rfl
    · show s.order o = _
      cases s.order o <;> rfl
  | vehicle v =>
    cases ht
    refine lawful_of_flips (s := s) (fb := fun b => (s.block b).flips)
      (fv := fun w => if w = v then toggle bit (s.vehicle w).flips else (s.vehicle w).flips) (fo := fun _ r => r.flips) (fun _ => rfl) (fun w => ?_)
      (fun o => ?_) rfl rfl rfl rfl rfl rfl hs
    · rw [State.updVehicle, setVehicle_read]; split
      · next e => rw [e]
      · rfl
    · show s.order o = _
      cases s.order o <;> rfl
  | order o =>
    cases ht
    refine lawful_of_flips (s := s) (fb := fun b => (s.block b).flips) (fv := fun v => (s.vehicle v).flips)
      (fo := fun x r => if x = o then toggle bit r.flips else r.flips) (fun _ => rfl) (fun _ => rfl) (fun x => ?_) rfl rfl rfl rfl rfl rfl hs
    rw [State.updOrder, setOrder_read]
    split
    · next e => rw [e]
    · cases s.order x <;> rfl

/-! ## The millisecond base (R147) -/

theorem countDown_eq_none {c : Option Nat} : countDown c = none ↔ c = none := Option.map_eq_none_iff

theorem VehicleRec.Regular.tick {r : VehicleRec} (h : r.Regular) : r.tick.Regular := by
  obtain ⟨away, empty, waits, cause, saved, savedSome, savedKind, offer, owner, order⟩ := h
  exact ⟨away, empty, waits, cause, saved, savedSome, savedKind, fun hne => offer fun e => hne (countDown_eq_none.mpr e), owner, order⟩

theorem idle_lawful (h : LawfulBut .zero s) : LawfulBut .zero s.idle := by
  unfold State.idle
  split
  · exact h.settings rfl rfl rfl rfl rfl rfl rfl rfl rfl
  · rw [tick_eq]
    exact quietVehicles_lawful h VehicleRec.tick rfl rfl rfl rfl rfl rfl rfl rfl rfl (fun _ hr => hr.tick) (fun _ => rfl) (fun _ => rfl)
      (fun _ => rfl) (fun _ => rfl) fun _ => rfl

/-! ## The timers (R101, R121, R136, R148) -/

theorem execOfferExpiry_lawful (hs : LawfulBut .zero s) (ht : execOfferExpiry v s = .next t) : LawfulBut .zero t := by
  unfold execOfferExpiry at ht
  split at ht
  · cases ht; exact hs
  · next hexpired =>
    have hread := hs.readVehicle (fun _ => id) v
    dsimp only at ht
    split at ht
    · next o hv ho =>
      obtain rfl := next_inj ht
      refine LawfulBut.endEvent ?_
      have hreadOrder := hread.readOrder (fun _ => id) o
      split
      · exact hreadOrder
      · next hb =>
        have hb := Bool.eq_false_iff.mpr hb
        have hcorr := (read_corrected hs.few (.vehicle v) hv).trans (read_corrected hread.few (.order o) hb)
        have horder : ((((s.readVehicle v).1).readOrder o).1.vehicle v).order = some o :=
          ((read_corrected hread.few (.order o) hb).vehicleOrder v).trans ho
        obtain ⟨r, hr, -⟩ := (hreadOrder.crew.points v o horder).resolve_right id
        have hw : Work v o r (((s.readVehicle v).1).readOrder o).1 := ⟨hreadOrder,
          (read_corrected hread.few (.order o) hb).flips (hs.readVehicle_flips (fun _ => id) v), horder, hr,
          readOrder_flips hread.few hb hr⟩
        refine hw.withdrawOffer ((hcorr.state v).trans ?_) .timeout
        simp only [VehicleRec.offerExpired, Bool.not_eq_true', Bool.not_eq_false, Bool.and_eq_true, decide_eq_true_eq] at hexpired
        exact hexpired.2
    · cases ht; exact hread.endEvent

theorem execPromotion_lawful (hs : LawfulBut .zero s) (ht : execPromotion o s = .next t) : LawfulBut .zero t := by
  unfold execPromotion at ht
  split at ht
  · cases ht; exact hs
  · next hdue =>
    have hread := hs.readOrder (fun _ => id) o
    dsimp only at ht
    obtain rfl := next_inj ht
    refine LawfulBut.endEvent ?_
    split
    · exact hread
    · next hb =>
      refine promote_lawful hread fun r hr => ?_
      obtain ⟨g, e, -⟩ := (read_corrected hs.few (.order o) (Bool.eq_false_iff.mpr hb)).order o
      obtain ⟨x, hx, rfl⟩ := Option.map_eq_some_iff.mp (e.symm.trans hr)
      exact promotionDue_queued (by simpa using hdue) x hx

theorem execScrubStep_lawful (hs : LawfulBut .zero s) (ht : execScrubStep s = .next t) : LawfulBut .zero t := by
  unfold execScrubStep at ht
  split at ht
  · cases ht; exact hs
  · obtain rfl := next_inj ht
    have hmoved : LawfulBut .zero { s with cursor := s.scrubPlan.2, scrubTimer := s.scrubInterval } :=
      hs.settings rfl rfl rfl rfl rfl rfl rfl rfl rfl
    exact ((readOf_keepsLaws .scrub).laws .zero _ _ (fun _ => id) hmoved).endEvent

theorem execFabClockAdvance_lawful (hs : LawfulBut .zero s) (ht : execFabClockAdvance s = .next t) : LawfulBut .zero t := by
  unfold execFabClockAdvance at ht
  split at ht
  · cases ht; exact hs
  · cases ht; exact hs.settings rfl rfl rfl rfl rfl rfl rfl rfl rfl

/-! ## The requests -/

theorem exec_request_lawful {i : Instr} {x} (hi : i.requestFields = some x) (hs : LawfulBut .zero s) (ht : exec i s = .next t) :
    LawfulBut .zero t := by
  cases i <;> simp only [Instr.requestFields, reduceCtorEq] at hi <;> dsimp only [exec] at ht
  case status => exact execStatus_lawful hs ht
  case clearAttention => exact execClearAttention_lawful hs ht
  case setNoticeMask => exact execSetNoticeMask_lawful hs ht
  case queryVehicle => exact execQueryVehicle_lawful hs ht
  case queryOrder => exact execQueryOrder_lawful hs ht
  case queryBlock => exact execQueryBlock_lawful hs ht
  case queryPort => exact execQueryPort_lawful hs ht
  case submitOrder => exact execSubmitOrder_lawful hs ht
  case cancelOrder => exact execCancelOrder_lawful hs ht
  case redirectOrder => exact execRedirectOrder_lawful hs ht
  case reclassOrder => exact execReclassOrder_lawful hs ht
  case setPortState => exact execSetPortState_lawful hs ht
  case setClock => exact execSetClock_lawful hs ht
  case join => exact execJoin_lawful hs ht
  case leave => exact execLeave_lawful hs ht
  case position => exact execPosition_lawful hs ht
  case claim => exact execClaim_lawful hs ht
  case releaseAhead => exact execReleaseAhead_lawful hs ht
  case accept => exact execAccept_lawful hs ht
  case decline => exact execDecline_lawful hs ht
  case pickDone => exact execPickDone_lawful hs ht
  case dropDone => exact execDropDone_lawful hs ht
  case dropFail => exact execDropFail_lawful hs ht
  case fault => exact execFault_lawful hs ht
  case recover => exact execRecover_lawful hs ht
  case heartbeat => exact execHeartbeat_lawful hs ht
  case writeBlocks => exact execWriteBlocks_lawful hs ht
  case writePorts => exact execWritePorts_lawful hs ht
  case writeBay => exact execWriteBay_lawful hs ht
  case commitMap => exact execCommitMap_lawful hs ht
  case reopenMap => exact execReopenMap_lawful hs ht
  case setFence => exact execSetFence_lawful hs ht
  case clearFence => exact execClearFence_lawful hs ht
  case setTiming => exact execSetTiming_lawful hs ht
  case setWeights => exact execSetWeights_lawful hs ht
  case setLinkRate => exact execSetLinkRate_lawful hs ht
  case drain => exact execDrain_lawful hs ht
  case restore => exact execRestore_lawful hs ht
  case evict => exact execEvict_lawful hs ht
  case thaw => exact execThaw_lawful hs ht
  case readCapture => exact execReadCapture_lawful hs ht
  case clearCapture => exact execClearCapture_lawful hs ht
  case halt => exact execHalt_lawful hs ht
  case resume => exact execResume_lawful hs ht
  case softReset => exact execSoftReset_lawful hs ht

/-! ## The links (R157 to R164) -/

theorem dropFrame_lawful (h : LawfulBut .zero s) (l : LinkId) : LawfulBut .zero (s.dropFrame l) := by
  unfold State.dropFrame
  split
  · exact h.updLink ..
  · exact h

theorem applyRate_lawful (h : LawfulBut .zero s) (x) : LawfulBut .zero (s.applyRate x) := by
  unfold State.applyRate
  split
  · exact h.updLink ..
  · exact h

theorem unknownKind_lawful (hs : LawfulBut .zero s) (l tag) :
    LawfulBut .zero (s.takeFrame l 0xFF tag fun s => (s, .plain .role)).endEvent := by
  refine LawfulBut.endEvent ?_
  have hhunt := hs.receiverToHunt l
  unfold State.takeFrame
  split
  · exact hs
  · dsimp only
    split
    · exact hhunt.attend ..
    · exact hhunt.placeReply ..

theorem requestOfFrame_lawful {l kind tag fields} (hs : LawfulBut .zero s)
    (ht : exec (requestOfFrame l kind tag fields) s = .next t) : LawfulBut .zero t := by
  unfold requestOfFrame at ht
  split at ht
  · next k _ =>
    obtain ⟨h, fs, hi, -, -⟩ := requestOfKind_requestFields l tag k fields
    exact exec_request_lawful hi hs ht
  · cases ht; exact unknownKind_lawful hs l tag

theorem completeFrame_lawful {l len body a b} (hs : LawfulBut .zero s) (ht : s.completeFrame l len body a b = .next t) :
    LawfulBut .zero t := by
  unfold State.completeFrame at ht
  split at ht
  · split at ht
    · next i hi =>
      rcases body with _ | ⟨kind, _ | ⟨tag, fields⟩⟩ <;> simp only [frameCommand, reduceCtorEq, Option.some.injEq] at hi
      subst hi
      rw [runRequest_requestOfFrame] at ht
      exact requestOfFrame_lawful hs ht
    · cases ht; exact hs.updLink ..
  · cases ht; exact hs.updLink ..

theorem execCharacterReceived_lawful {l c f} (hs : LawfulBut .zero s) (ht : execCharacterReceived l c f s = .next t) :
    LawfulBut .zero t := by
  unfold execCharacterReceived at ht
  split at ht
  · cases ht; exact hs
  · split at ht
    · cases ht; exact dropFrame_lawful hs l
    · unfold State.receive at ht
      split at ht
      · cases ht
        split
        · exact hs.updLink ..
        · exact hs
      · cases ht; exact hs.updLink ..
      · cases ht; exact hs.updLink ..
      · cases ht; exact hs.updLink ..
      · exact completeFrame_lawful hs ht

theorem execLinkReset_lawful {l} (hs : LawfulBut .zero s) (ht : execLinkReset l s = .next t) : LawfulBut .zero t := by
  unfold execLinkReset at ht
  split at ht
  · cases ht; exact hs
  · cases ht
    exact (applyRate_lawful (hs.settings (t := s.setLink l _) rfl rfl rfl rfl rfl rfl rfl rfl rfl) _).endEvent

theorem execOverrun_lawful {l} (hs : LawfulBut .zero s) (ht : execOverrun l s = .next t) : LawfulBut .zero t := by
  unfold execOverrun at ht
  split at ht
  · cases ht; exact (hs.receiverToHunt l).attend ..
  · cases ht; exact hs

theorem execTransmitComplete_lawful {l} (hs : LawfulBut .zero s) (ht : execTransmitComplete l s = .next t) : LawfulBut .zero t := by
  unfold execTransmitComplete at ht
  split at ht
  · cases ht; exact hs
  · cases ht; exact (hs.updLink ..).endEvent
  · cases ht; exact (applyRate_lawful (hs.updLink ..) _).endEvent

/-! ## One step -/

/-- Every command but a hard reset and the flip of a bit keeps the laws, with no record of three flipped bits. -/
theorem exec_lawful {i : Instr} (hreset : ∀ straps, i ≠ .hardReset straps) (hflip : ∀ x bit, i ≠ .bitFlip x bit)
    (hs : LawfulBut .zero s) (ht : exec i s = .next t) : LawfulBut .zero t := by
  rcases hq : i.requestFields with _ | x
  swap
  · exact exec_request_lawful hq hs ht
  cases i <;> simp only [Instr.requestFields, reduceCtorEq] at hq <;> dsimp only [exec] at ht
  case hardReset straps => exact absurd rfl (hreset straps)
  case linkReset => exact execLinkReset_lawful hs ht
  case frameDropped l => cases ht; exact dropFrame_lawful hs l
  case rxGapTimeout l => cases ht; exact dropFrame_lawful hs l
  case overrun => exact execOverrun_lawful hs ht
  case unknownKindRequest l tag => cases ht; exact unknownKind_lawful hs l tag
  case transmitComplete => exact execTransmitComplete_lawful hs ht
  case silenceExpiry => exact execSilenceExpiry_lawful hs ht
  case offerExpiry => exact execOfferExpiry_lawful hs ht
  case promotion => exact execPromotion_lawful hs ht
  case scrubStep => exact execScrubStep_lawful hs ht
  case fabClockAdvance => exact execFabClockAdvance_lawful hs ht
  case dispatchDecision => exact execDispatchDecision_lawful hs ht
  case characterReceived => exact execCharacterReceived_lawful hs ht
  case bitFlip x bit => exact absurd rfl (hflip x bit)

/-- Settles O48: a step keeps the laws of the tables: a hard reset begins with lawful ones, a flip of a bit changes nothing that
they speak of, and every other command pays what it owes them before it ends. -/
theorem lawsAreKept : Obligations.LawsAreKept := by
  unfold Obligations.LawsAreKept
  intro s t hlaw hfew ht
  have hs := lawfulBut_zero hlaw hfew
  unfold step at ht
  split at ht
  · next i rest _ =>
    have hrest : LawfulBut .zero { s with pending := rest } := hs.settings rfl rfl rfl rfl rfl rfl rfl rfl rfl
    by_cases hreset : ∀ straps, i ≠ .hardReset straps
    · by_cases hflip : ∀ x bit, i ≠ .bitFlip x bit
      · exact (exec_lawful hreset hflip hrest ht).lawful
      · push Not at hflip
        obtain ⟨x, bit, rfl⟩ := hflip
        exact execBitFlip_lawful hrest.lawful ht
    · push Not at hreset
      obtain ⟨straps, rfl⟩ := hreset
      rw [exec_hardReset] at ht
      cases ht
      exact hardReset_lawful (straps.map Role.ofStrap)
  · cases ht
    exact (idle_lawful hs).lawful

end Sys2Proof.Machine
end
